-- ==== Sys2Proof/Word.lean ====
section
/-! DEFINITION. The word types of the BN2-48 (R5, R6): bytes, 16, 32 and 64 bit words. -/

namespace Sys2Proof

/-- One byte. -/
abbrev Byte := BitVec 8

/-- A 32-bit register of BAR0, or an FP32 element. -/
abbrev Word := BitVec 32

/-- A 64-bit counter or seed. -/
abbrev DWord := BitVec 64

end Sys2Proof
end

