-- ==== Sys2Proof/Config.lean ====
section
/-! DEFINITION. What the manual leaves open: uninterpreted constants of the model. None has a body, so no proof can
see a value of one; a statement about one holds for every value (each named in the assumption log). -/

namespace Sys2Proof.Config

/-- Where in its allowed band a transcendental result lies (R144 bounds the error, it does not fix the bits): an offset in
units in the last place, clamped by the caller to the stated accuracy. First argument the function code, second the
operand's code. -/
opaque transOffset : Nat → Nat → Int

/-- The draw for a stochastic rounding inside a computation whose result is no output element, so that R100 gives it no
position. Arguments: seed, task, context, dseq, position. -/
opaque innerDraw : BitVec 64 → Nat → Nat → Nat → Nat → BitVec 16

/-- Beats of the vector chain that an attention descriptor takes: the manual counts every beat of the chain (R154) and says of attention
only that it uses the chain (R155). By KIND, query rows or tokens, page iterations or seals. -/
opaque attnBeats : Nat → Nat → Nat → BitVec 32

/-- How many tiles give way to the transposed blocks that ATTN_BWD stages in scratchpad (R167), by rows, head dimension and page
iterations: R167 gives no number (log entry 129). -/
opaque stageSlots : Nat → Nat → Nat → BitVec 16

/-- ACKREQ of a frame that this module sends (R307 names the bit and no rule sets it): by type and PSN (log entry 143). -/
opaque ackReq : Nat → Nat → Bool

/-- Weight in the port's bucket of a frame that is dropped: R323 and R327 report it to the bucket, R332 gives no weight. True for an
uncorrectable codeword, false for a check that fails alone (log entry 144). -/
opaque frameWeight : Bool → Nat

/-- A byte of a parity row rebuilt from the other members' rows, which are other modules' data (R361, log entry 149). First argument the use
count. -/
opaque parityByte : Nat → Nat → BitVec 8

/-- Rows that the self-test of phase B2 finds faulty and repairs (R376): by use count, physical core and bank. No command brings its results (log
entry 152). -/
opaque faultyRows : Nat → Nat → Nat → Nat

/-- The sign of the larger (true) or smaller (false) of two zeros of opposite sign; second argument the first one's sign. -/
opaque zeroOf : Bool → Bool → Bool

/-- The nanosecond stamp of the Abutment's counter (R370) at the `n`-th time the model reads it. -/
opaque timeStamp : Nat → BitVec 64

/-- Silicon revision (R278: fixed in the part). -/
opaque siliconRev : BitVec 8

/-- Does a signature verify under the Wealolet key of the boot ROM (R390, R344)? Arguments: signed bytes, signature. -/
opaque wealoletSigOk : List (BitVec 8) → List (BitVec 8) → Bool

/-- Does a co-signature verify under an enrolled operator key (R390)? Arguments: key, signed bytes, signature. -/
opaque cosignOk : List (BitVec 8) → List (BitVec 8) → List (BitVec 8) → Bool

/-- Unwrapping a wrapped-key block in the Abutment (R398: ECDH, HKDF and GCM under the module's device key): the XTS
key, or none on a GCM tag failure. -/
opaque unwrapKey : List (BitVec 8) → Option (BitVec 512)

/-- The bytes an SPDM response carries beyond what the manual lays out (R395); `n` numbers the responses. -/
opaque spdmBytes : Nat → List (BitVec 8) → List (BitVec 8)

/-- Digest of a measured component (R396). First argument the measurement index. -/
opaque componentDigest : Nat → List (BitVec 8) → BitVec 384

/-- The payload bytes of an event record whose layout the manual does not give (R407); `n` is its sequence number. -/
opaque eventPayload : Nat → List (BitVec 8)

/-- A byte of a scratchpad slot that no tile-map entry describes (R403 may read it). Arguments: core, slot, offset. -/
opaque staleByte : Nat → Nat → Nat → BitVec 8

/-- A byte of HBM whose contents were lost with the auxiliary input, in standby (R367). First argument the use count. -/
opaque lostByte : Nat → Nat → BitVec 8

/-- Post-package repairs that a channel has (R338: "when the channel has no repair left"; the manual gives no number). -/
opaque repairsPerChannel : Nat

/-- A counter of cycles or bank conflicts (R14, R46), of which the model keeps no time: by the free counter, function and offset. -/
opaque timedCount : Nat → Nat → Nat → BitVec 64

/-- An output element whose value the manual leaves open, the same whenever a step is run again from the same inputs with the same
seed and tiling (R27): seed, task, context, dseq, position among the descriptor's outputs. -/
opaque openElem : BitVec 64 → Nat → Nat → Nat → Nat → BitVec 64

/-- A byte of the FRU EEPROM (R426: IPMI FRU Information, written at manufacture), by its offset. -/
opaque fruByte : Nat → BitVec 8

/-- Values the manual leaves open at an instruction's end or on an input it does not cover; `n` counts the uses. -/
opaque freeValue : Nat → BitVec 64

end Sys2Proof.Config
end

