-- ==== Sys2Proof/Machine/Sparse.lean ====
section
/-! DEFINITION. Sparse maps: lists of (key, value) pairs in one canonical form, with a default for the keys they do not
list. Memory, tiles, registers, counters and every numbered array of the machine are held so. -/

namespace Sys2Proof.Machine

/-- What key `k` holds: the listed value, or the default. -/
def Sparse.get {α : Type} (d : Nat → α) : List (Nat × α) → Nat → α
  | [], k => d k
  | (a, v) :: m, k => if a = k then v else Sparse.get d m k

/-- Insert or replace, keeping the keys rising. -/
def Sparse.insert {α : Type} : List (Nat × α) → Nat → α → List (Nat × α)
  | [], k, v => [(k, v)]
  | (a, x) :: m, k, v =>
    if k < a then (k, v) :: (a, x) :: m
    else if k = a then (k, v) :: m
    else (a, x) :: Sparse.insert m k v

/-- Remove a key. -/
def Sparse.erase {α : Type} (m : List (Nat × α)) (k : Nat) : List (Nat × α) :=
  m.filter (fun c => c.1 != k)

/-- Write `v` at `k`; writing the default removes the entry, so equal maps are equal lists. -/
def Sparse.put {α : Type} [DecidableEq α] (d : Nat → α) (m : List (Nat × α)) (k : Nat) (v : α) : List (Nat × α) :=
  if v = d k then Sparse.erase m k else Sparse.insert (Sparse.erase m k) k v

/-- Apply a function to what one key holds. -/
def Sparse.modify {α : Type} [DecidableEq α] (d : Nat → α) (m : List (Nat × α)) (k : Nat) (f : α → α) :
    List (Nat × α) :=
  Sparse.put d m k (f (Sparse.get d m k))

/-- Are the keys strictly rising? -/
def Sparse.rising {α : Type} : List (Nat × α) → Bool
  | [] => true
  | [_] => true
  | (a, _) :: (b, y) :: m => decide (a < b) && Sparse.rising ((b, y) :: m)

/-- The canonical form: keys strictly rising, and no entry equal to the default. -/
def Sparse.wf {α : Type} [DecidableEq α] (d : Nat → α) (m : List (Nat × α)) : Bool :=
  Sparse.rising m && m.all (fun c => decide (c.2 ≠ d c.1))

/-- The entries of the keys `lo` to `lo + len - 1`, renumbered from 0. -/
def Sparse.window {α : Type} (m : List (Nat × α)) (lo len : Nat) : List (Nat × α) :=
  (m.filter (fun c => lo ≤ c.1 && c.1 < lo + len)).map (fun c => (c.1 - lo, c.2))

/-- Write the listed cells one after another. -/
def Sparse.putAll {α : Type} [DecidableEq α] (d : Nat → α) (m : List (Nat × α)) (cells : List (Nat × α)) :
    List (Nat × α) :=
  cells.foldl (fun m c => Sparse.put d m c.1 c.2) m

/-- Drop every entry of the keys `lo` to `lo + len - 1`: they then hold the default. -/
def Sparse.clear {α : Type} (m : List (Nat × α)) (lo len : Nat) : List (Nat × α) :=
  m.filter (fun c => !(lo ≤ c.1 && c.1 < lo + len))

/-- `k` goes into a rising list of numbers (a set). -/
def insertNat : Nat → List Nat → List Nat
  | k, [] => [k]
  | k, a :: m => if k < a then k :: a :: m else if k = a then a :: m else a :: insertNat k m

/-- Replace the elements of a list that satisfy `p`. -/
def updateWhere {α : Type} (p : α → Bool) (f : α → α) (l : List α) : List α :=
  l.map (fun x => if p x then f x else x)

/-- `n` zero bytes after the list, cut to `n`: a field of fixed length. -/
def padTo (n : Nat) (bs : List Byte) : List Byte := (bs ++ List.replicate n 0#8).take n

/-- Little-endian read of `n` bytes at offset `lo` (R6); bytes past the end read as zero. -/
def rd (bs : List Byte) (lo n : Nat) : Nat :=
  ((bs.drop lo).take n).foldr (fun b acc => b.toNat + 256 * acc) 0

/-- Little-endian bytes of a number (R6). -/
def leBytes : Nat → Nat → List Byte
  | 0, _ => []
  | n + 1, v => BitVec.ofNat 8 v :: leBytes n (v / 256)

/-- Bits [hi:lo] of a number (R5). -/
def bits (v hi lo : Nat) : Nat := v / 2 ^ lo % 2 ^ (hi + 1 - lo)

/-- Bit `i` of a number. -/
def bit (v i : Nat) : Bool := v / 2 ^ i % 2 == 1

/-- Two's complement reading of the low `w` bits. -/
def signed (w v : Nat) : Int :=
  let u := v % 2 ^ w
  if u < 2 ^ (w - 1) then (u : Int) else (u : Int) - (2 ^ w : Nat)

/-- All bytes outside the listed (offset, length) fields are zero: the resv test of R7. -/
def resvZero (used : List (Nat × Nat)) (bs : List Byte) : Bool :=
  (bs.zipIdx).all fun (b, i) => b == 0#8 || used.any fun (o, n) => o ≤ i && i < o + n

/-- Rounding up a quotient. -/
def ceilDiv (a b : Nat) : Nat := (a + b - 1) / b

end Sys2Proof.Machine
end

