-- ==== Sys2Proof/Machine/Float.lean ====
section
/-! DEFINITION. Exact binary numbers and the rounding of the BN2-48 (R71 to R73, R97 to R100). A value is NaN or
plus or minus man * 2^exp, exactly; the machine has no infinities (R72) and no subnormals (R71, R98). -/

namespace Sys2Proof.Machine

/-- A decoded value: NaN, or sign, magnitude and exponent of two; a zero keeps its sign. -/
inductive Num where
  | nan
  | fin (neg : Bool) (man : Nat) (exp : Int)
deriving DecidableEq, Repr

/-- Zero with a sign. -/
def Num.zero (neg : Bool) : Num := .fin neg 0 0

/-- A natural number. -/
def Num.ofNat (n : Nat) : Num := .fin false n 0

/-- An integer. -/
def Num.ofInt (i : Int) : Num := .fin (decide (i < 0)) i.natAbs 0

/-- Is it NaN? -/
def Num.isNan : Num → Bool
  | .nan => true
  | .fin .. => false

/-- Is it a zero of either sign? -/
def Num.isZero : Num → Bool
  | .fin _ 0 _ => true
  | _ => false

/-- The sign; NaN counts as positive. -/
def Num.sign : Num → Bool
  | .nan => false
  | .fin n _ _ => n

/-- Negation. -/
def Num.neg : Num → Num
  | .nan => .nan
  | .fin n m e => .fin (!n) m e

/-- Magnitude. -/
def Num.abs : Num → Num
  | .nan => .nan
  | .fin _ m e => .fin false m e

/-- Times a power of two, exactly. -/
def Num.scale (k : Int) : Num → Num
  | .nan => .nan
  | .fin n m e => .fin n m (e + k)

/-- Exact product. -/
def Num.mul : Num → Num → Num
  | .fin a m e, .fin b k f => .fin (a != b) (m * k) (e + f)
  | _, _ => .nan

/-- The signed integer of a value counted in units of 2^`e` (for `e` not above its exponent). -/
def Num.units (e : Int) : Num → Int
  | .nan => 0
  | .fin n m f => if n then -((m * 2 ^ (f - e).toNat : Nat) : Int) else ((m * 2 ^ (f - e).toNat : Nat) : Int)

/-- Exact sum. A sum that cancels is +0; two negative zeros give -0. -/
def Num.add : Num → Num → Num
  | .fin a m e, .fin b k f =>
    let g := min e f
    let i := (Num.fin a m e).units g + (Num.fin b k f).units g
    if i = 0 then .zero (a && b && m == 0 && k == 0) else .fin (decide (i < 0)) i.natAbs g
  | _, _ => .nan

/-- Exact difference. -/
def Num.sub (x y : Num) : Num := x.add y.neg

/-- Exact comparison; false when either is NaN. -/
def Num.le : Num → Num → Bool
  | .fin a m e, .fin b k f =>
    let g := min e f
    decide ((Num.fin a m e).units g ≤ (Num.fin b k f).units g)
  | _, _ => false

/-- Strictly below; false when either is NaN. -/
def Num.lt : Num → Num → Bool
  | .fin a m e, .fin b k f =>
    let g := min e f
    decide ((Num.fin a m e).units g < (Num.fin b k f).units g)
  | _, _ => false

/-- The larger of two; a NaN operand yields the other (R142). -/
def Num.max : Num → Num → Num
  | .nan, y => y
  | x, .nan => x
  | x, y => if x.lt y then y else x

/-- The smaller of two; a NaN operand yields the other (R142). -/
def Num.min : Num → Num → Num
  | .nan, y => y
  | x, .nan => x
  | x, y => if y.lt x then y else x

/-- Number of significant bits. -/
def bitLen (n : Nat) : Nat := if n = 0 then 0 else Nat.log2 n + 1

/-- Exponent of the leading bit of a non-zero magnitude: floor(log2 |x|). -/
def Num.log2 : Num → Int
  | .nan => 0
  | .fin _ m e => (Nat.log2 m : Int) + e

/-- How a value that lies between two neighbours is rounded: to nearest even (R98), to nearest with ties away from
zero (R97), stochastically with a 16-bit draw (R99), or toward plus or minus infinity (R90). -/
inductive Rounding where
  | even
  | away
  | stoch (u : Nat)
  | up
  | down
deriving DecidableEq, Repr

/-- Does the magnitude round up to the next neighbour? `q` is the truncated magnitude, `r` of `w` the remainder. -/
def Rounding.goesUp (mode : Rounding) (neg : Bool) (q r w : Nat) : Bool :=
  match mode with
  | .even => decide (w < 2 * r) || (2 * r == w && q % 2 == 1)
  | .away => decide (w ≤ 2 * r) && r != 0
  | .stoch u => decide (u < r * 65536 / w)
  | .up => r != 0 && !neg
  | .down => r != 0 && neg

/-- A non-zero magnitude rounded to `p` significant bits, exponent unbounded. -/
def roundMan (p : Nat) (mode : Rounding) (neg : Bool) (man : Nat) (exp : Int) : Nat × Int :=
  let sh := bitLen man - p
  if sh = 0 then (man, exp)
  else
    let w := 2 ^ sh
    let q := man / w
    let q' := if mode.goesUp neg q (man % w) w then q + 1 else q
    (q', exp + sh)

/-- A floating format: precision, exponent of the smallest normal, largest finite value, field widths and bias. -/
structure FloatFmt where
  prec : Nat
  emin : Int
  maxMan : Nat
  maxExp : Int
  expBits : Nat
  bias : Int
  infs : Bool
deriving DecidableEq, Repr

/-- FP64 of R65. -/
def FloatFmt.fp64 : FloatFmt := ⟨53, -1022, 2 ^ 53 - 1, 971, 11, 1023, true⟩
/-- FP32 of R65. -/
def FloatFmt.fp32 : FloatFmt := ⟨24, -126, 2 ^ 24 - 1, 104, 8, 127, true⟩
/-- BF16 of R65. -/
def FloatFmt.bf16 : FloatFmt := ⟨8, -126, 2 ^ 8 - 1, 120, 8, 127, true⟩
/-- FP16 of R65. -/
def FloatFmt.fp16 : FloatFmt := ⟨11, -14, 2 ^ 11 - 1, 5, 5, 15, true⟩
/-- E4M3 of R65: largest finite 448. -/
def FloatFmt.e4m3 : FloatFmt := ⟨4, -6, 14, 5, 4, 7, false⟩
/-- E5M2 of R65: largest finite 57,344. -/
def FloatFmt.e5m2 : FloatFmt := ⟨3, -14, 7, 13, 5, 15, true⟩
/-- E2M1 of R65: largest finite 6, smallest normal 1. -/
def FloatFmt.e2m1 : FloatFmt := ⟨2, 0, 3, 1, 2, 1, false⟩

/-- Largest finite value with a sign. -/
def FloatFmt.largest (f : FloatFmt) (neg : Bool) : Num := .fin neg f.maxMan f.maxExp

/-- Smallest normal magnitude. -/
def FloatFmt.smallest (f : FloatFmt) : Num := .fin false 1 f.emin

/-- What a computation did on its way to one written element (R87): saturated somewhere, turned a non-zero value into
zero somewhere, dropped a NaN. -/
structure Ev where
  sat : Bool := false
  flush : Bool := false
  nanDrop : Bool := false
deriving DecidableEq, Repr

/-- Both histories together. -/
def Ev.or (a b : Ev) : Ev := ⟨a.sat || b.sat, a.flush || b.flush, a.nanDrop || b.nanDrop⟩

/-- Rounding onto a floating format's grid with unbounded exponent, then saturation and flush (R72, R73, R98). -/
def FloatFmt.round (f : FloatFmt) (mode : Rounding) : Num → Num × Ev
  | .nan => (.nan, {})
  | .fin neg man exp =>
    if man = 0 then (.zero neg, {})
    else
      let (m, e) := roundMan f.prec mode neg man exp
      let r := Num.fin neg m e
      if (f.largest false).lt r.abs then (f.largest neg, { sat := true })
      else if r.abs.lt f.smallest then (.zero neg, { flush := true })
      else (r, {})

/-- Bit width of a floating format. -/
def FloatFmt.width (f : FloatFmt) : Nat := f.expBits + f.prec

/-- The canonical NaN of R74, for the formats that have one. -/
def FloatFmt.nanCode (f : FloatFmt) : Nat :=
  let fr := f.prec - 1
  if f.infs then (2 ^ f.expBits - 1) * 2 ^ fr + 2 ^ (fr - 1) else (2 ^ f.expBits - 1) * 2 ^ fr + (2 ^ fr - 1)

/-- The code of a value that lies on the format's grid of normal numbers, or of a signed zero; NaN gives R74's code. -/
def FloatFmt.encode (f : FloatFmt) : Num → Nat
  | .nan => f.nanCode
  | .fin neg man exp =>
    let s := if neg then 2 ^ (f.expBits + f.prec - 1) else 0
    if man = 0 then s
    else
      let l := bitLen man
      let e : Int := exp + l - 1
      let norm := if l < f.prec then man * 2 ^ (f.prec - l) else man / 2 ^ (l - f.prec)
      s + ((e + f.bias).toNat * 2 ^ (f.prec - 1) + (norm - 2 ^ (f.prec - 1)))

/-- What reading one element did (R71): counted as flushed on input, or as saturated. -/
structure InEv where
  sat : Bool := false
  flush : Bool := false
deriving DecidableEq, Repr

/-- The value of an element of a floating format, under R71: subnormals read as zero, infinities as the largest finite
value, NaN stays NaN. -/
def FloatFmt.decode (f : FloatFmt) (code : Nat) : Num × InEv :=
  let fr := f.prec - 1
  let neg := bit code (f.expBits + fr)
  let e := bits code (f.expBits + fr - 1) fr
  let m := code % 2 ^ fr
  let top := 2 ^ f.expBits - 1
  if e = 0 then (.zero neg, { flush := m != 0 })
  else if e = top && f.infs then (if m = 0 then (f.largest neg, { sat := true }) else (.nan, {}))
  else if e = top && f.prec == 4 && m == 2 ^ fr - 1 then (.nan, {})
  else (.fin neg (2 ^ fr + m) ((e : Int) - f.bias - fr), {})

/-- The 16-bit draw of the counter-based generator (R100). -/
def drawU (seed : DWord) (task ctx dseq elem : Nat) : Nat :=
  let counter : DWord := BitVec.ofNat 64
    (task % 4096 * 2 ^ 52 + ctx % 32 * 2 ^ 47 + dseq % 2 ^ 23 * 2 ^ 24 + elem / 4 % 2 ^ 24)
  let z : DWord := seed + 0x9E3779B97F4A7C15#64 * (counter + 1#64)
  let z := (z ^^^ (z >>> 30)) * 0xBF58476D1CE4E5B9#64
  let z := (z ^^^ (z >>> 27)) * 0x94D049BB133111EB#64
  let z := z ^^^ (z >>> 31)
  (z >>> (16 * (elem % 4))).toNat % 65536

/-- A value in the course of a computation, with its history for R87. -/
structure FV where
  v : Num
  ev : Ev := {}
deriving DecidableEq, Repr

/-- A plain value. -/
def FV.of (x : Num) : FV := ⟨x, {}⟩

/-- One rounding to a format's grid, to nearest even (R98), keeping the history. -/
def FloatFmt.rne (f : FloatFmt) (x : Num) (ev : Ev := {}) : FV :=
  let (y, e) := f.round .even x
  ⟨y, ev.or e⟩

/-- RNE(a + b). -/
def FloatFmt.add (f : FloatFmt) (a b : FV) : FV := f.rne (a.v.add b.v) (a.ev.or b.ev)

/-- RNE(a * b). -/
def FloatFmt.mul (f : FloatFmt) (a b : FV) : FV := f.rne (a.v.mul b.v) (a.ev.or b.ev)

/-- RNE(a * b + c), one rounding. -/
def FloatFmt.fma (f : FloatFmt) (a b c : FV) : FV := f.rne ((a.v.mul b.v).add c.v) ((a.ev.or b.ev).or c.ev)

/-- RNE(a - b). -/
def FloatFmt.sub (f : FloatFmt) (a b : FV) : FV := f.rne (a.v.sub b.v) (a.ev.or b.ev)

/-- One level of the fixed binary tree of adjacent pairs (R118, R145). -/
def pairUp {α : Type} (op : α → α → α) : List α → List α
  | a :: b :: rest => op a b :: pairUp op rest
  | l => l

/-- The fixed binary tree of adjacent pairs, `n` levels at most; none for an empty list. -/
def treeFold {α : Type} (op : α → α → α) : Nat → List α → Option α
  | _, [] => none
  | _, [a] => some a
  | 0, a :: _ => some a
  | n + 1, l => treeFold op n (pairUp op l)

/-- RNE sum by the tree; the empty sum is +0. -/
def FloatFmt.treeSum (f : FloatFmt) (l : List FV) : FV := (treeFold f.add 20 l).getD (FV.of (.zero false))

end Sys2Proof.Machine
end

