-- ==== Sys2Proof/Machine/Formats.lean ====
section
/-! DEFINITION. The eleven number formats (R65 to R78): codes, decoded values, conversion, block scales (R93). -/

namespace Sys2Proof.Machine

/-- The operand formats of R65. -/
inductive Fmt where
  | fp64 | fp32 | bf16 | fp16 | e4m3 | e5m2 | int8 | int4 | e2m1 | girder8 | girder4
deriving DecidableEq, Repr

/-- The format of a code; 0x00 and 0x0C to 0xFF name none (R66). -/
def Fmt.ofCode : Nat → Option Fmt
  | 1 => some .fp64 | 2 => some .fp32 | 3 => some .bf16 | 4 => some .fp16
  | 5 => some .e4m3 | 6 => some .e5m2 | 7 => some .int8 | 8 => some .int4
  | 9 => some .e2m1 | 10 => some .girder8 | 11 => some .girder4
  | _ => none

/-- The one-byte code of a format (R65). -/
def Fmt.code : Fmt → Nat
  | .fp64 => 1 | .fp32 => 2 | .bf16 => 3 | .fp16 => 4 | .e4m3 => 5 | .e5m2 => 6
  | .int8 => 7 | .int4 => 8 | .e2m1 => 9 | .girder8 => 10 | .girder4 => 11

/-- Bits of one element. -/
def Fmt.width : Fmt → Nat
  | .fp64 => 64 | .fp32 => 32 | .bf16 => 16 | .fp16 => 16
  | .e4m3 => 8 | .e5m2 => 8 | .int8 => 8 | .girder8 => 8
  | .int4 => 4 | .e2m1 => 4 | .girder4 => 4

/-- Elements of one tile: 8,192, 4,096, 2,048, 1,024 or 512. -/
def Fmt.elems (f : Fmt) : Nat := 32768 / f.width

/-- Elements of one 64-byte payload row (R67): the K-width of R110. -/
def Fmt.rowElems (f : Fmt) : Nat := 512 / f.width

/-- Does the format take block scales (codes 0x05 to 0x0B)? -/
def Fmt.scaled (f : Fmt) : Bool := decide (5 ≤ f.code)

/-- Is it one of the 4-bit weight formats? -/
def Fmt.four (f : Fmt) : Bool := f.width == 4

/-- Is it Girder-8 or Girder-4? -/
def Fmt.girder (f : Fmt) : Bool := f == .girder8 || f == .girder4

/-- Is it INT8 or INT4? -/
def Fmt.int (f : Fmt) : Bool := f == .int8 || f == .int4

/-- Elements that one block scale covers (R36): 32, or 64 in 4-bit formats. -/
def Fmt.block (f : Fmt) : Nat := if f.four then 64 else 32

/-- The floating format behind a code, where it is one. -/
def Fmt.float? : Fmt → Option FloatFmt
  | .fp64 => some .fp64 | .fp32 => some .fp32 | .bf16 => some .bf16 | .fp16 => some .fp16
  | .e4m3 => some .e4m3 | .e5m2 => some .e5m2 | .e2m1 => some .e2m1
  | _ => none

/-- M of R93: the largest finite magnitude before scaling (block-scaled formats). -/
def Fmt.maxMag : Fmt → Nat
  | .e4m3 => 448 | .e5m2 => 57344 | .e2m1 => 6 | .int8 => 127 | .girder8 => 127
  | .int4 => 7 | .girder4 => 7
  | _ => 0

/-- The escape code of a Girder format (R77). -/
def Fmt.escape : Fmt → Nat
  | .girder8 => 0x80
  | .girder4 => 0x8
  | _ => 0

/-- R71 steps 3 and 4 for a block-scaled element: above the FP32 range it reads as the largest finite value, below
2^-126 it reads as zero. -/
def clampScaled (x : Num) : Num × InEv :=
  match x with
  | .nan => (.nan, {})
  | .fin neg m _ =>
    if m = 0 then (.zero neg, {})
    else if (FloatFmt.fp32.largest false).lt x.abs then (FloatFmt.fp32.largest neg, { sat := true })
    else if x.abs.lt FloatFmt.fp32.smallest then (.zero neg, { flush := true })
    else (x, {})

/-- The element itself, before its block scale: the value, after the zero point (R68, R112), and what reading did. -/
def Fmt.rawValue (f : Fmt) (code : Nat) (zp : Int) : Num × InEv :=
  match f with
  | .int8 => (.ofInt (signed 8 code - zp), {})
  | .int4 => (.ofInt (signed 4 code), {})
  | .girder8 => (.fin (bit code 7) (code % 128) 0, {})
  | .girder4 => (.fin (bit code 3) (code % 8) 0, {})
  | g => match g.float? with
    | some ff => ff.decode code
    | none => (.nan, {})

/-- The value an element that is not escaped denotes, under R68, R69 and R71. `scale` is the E8M0 code of its block
(127 for the formats that have none). -/
def Fmt.value (f : Fmt) (code scale : Nat) (zp : Int) : Num × InEv :=
  let (x, e) := f.rawValue code zp
  if !f.scaled then (x, e)
  else if scale = 255 then (.nan, {})
  else
    let (y, e') := clampScaled (x.scale ((scale : Int) - 127))
    (y, { sat := e.sat || e'.sat, flush := e.flush || e'.flush })

/-- Round to an integer: value and mode (R73). -/
def Num.toIntR (mode : Rounding) : Num → Int
  | .nan => 0
  | .fin neg m e =>
    let mag : Nat :=
      if 0 ≤ e then m * 2 ^ e.toNat
      else
        let w := 2 ^ (-e).toNat
        let q := m / w
        if mode.goesUp neg q (m % w) w then q + 1 else q
    if neg then -(mag : Int) else mag

/-- What a conversion writes (R73): an element code, or an escape with the side-list value (R77, R78). -/
inductive Conv where
  | code (c : Nat) (ev : Ev)
  | escape (bf16 : Nat) (ev : Ev)
deriving DecidableEq, Repr

/-- The event flags of a conversion. -/
def Conv.ev : Conv → Ev
  | .code _ e => e
  | .escape _ e => e

/-- The side-list value of R78: the source converted to BF16 with the conversion's rounding mode, R73 applied. -/
def sideValue (mode : Rounding) (x : Num) : Nat × Ev :=
  let (y, e) := FloatFmt.bf16.round mode x
  (FloatFmt.bf16.encode y, e)

/-- convert(x, fmt, s) of R73, with R74 for NaN and R95 for a zero point. -/
def Fmt.convert (f : Fmt) (mode : Rounding) (s : Int) (zp : Option Int) (x : Num) : Conv :=
  match x with
  | .nan =>
    if f.girder then .escape 0x7FC0 {}
    else match f with
      | .int8 | .int4 | .e2m1 => .code 0 { nanDrop := true }
      | g => match g.float? with
        | some ff => .code ff.nanCode {}
        | none => .code 0 {}
  | .fin neg m e =>
    let y := Num.fin neg m (e - s)
    match f with
    | .int8 =>
      let q := y.toIntR mode
      match zp with
      | none =>
        if 127 < q.natAbs then .code (if neg then 0x81 else 0x7F) { sat := true }
        else .code (q % 256).toNat {}
      | some z =>
        let t := q + z
        if 127 < t then .code 0x7F { sat := true }
        else if t < -128 then .code 0x80 { sat := true }
        else .code (t % 256).toNat {}
    | .int4 =>
      let q := y.toIntR mode
      if 7 < q.natAbs then .code (if neg then 0x9 else 0x7) { sat := true } else .code (q % 16).toNat {}
    | .girder8 =>
      let q := (y.toIntR mode).natAbs
      if 127 < q then let (b, ev) := sideValue mode x; .escape b ev
      else .code (if neg && q != 0 then 0x80 + q else q) {}
    | .girder4 =>
      let q := (y.toIntR mode).natAbs
      if 7 < q then let (b, ev) := sideValue mode x; .escape b ev
      else .code (if neg && q != 0 then 0x8 + q else q) {}
    | g => match g.float? with
      | some ff => let (r, ev) := ff.round mode y; .code (ff.encode r) ev
      | none => .code 0 {}

/-- Expansion of a 4-bit code to its 8-bit counterpart (R76). -/
def Fmt.expand : Fmt → Nat → Nat
  | .int4, c => if c < 8 then c else 0xF0 + c
  | .e2m1, c =>
    let t := [0x00, 0x00, 0x38, 0x3C, 0x40, 0x44, 0x48, 0x4C].getD (c % 8) 0
    if 8 ≤ c then 0x80 + t else t
  | .girder4, c => if 8 ≤ c then 0x80 + c % 8 else c
  | _, c => c

/-- One block entry of an amax record (R90): amax and amax2, or max and min in asymmetric mode. -/
structure AmaxEntry where
  hi : Num
  lo : Num
deriving DecidableEq, Repr

/-- The smallest integer s with a <= M * 2^s, for a > 0 (R93). -/
def smallestScale (a : Num) (mmag : Nat) : Int :=
  match a with
  | .nan => 0
  | .fin _ m e =>
    if m = 0 || mmag = 0 then 0
    else
      let s0 : Int := e + (Nat.log2 m : Int) - (Nat.log2 mmag : Int)
      if a.abs.le (.fin false mmag s0) then (if a.abs.le (.fin false mmag (s0 - 1)) then s0 - 1 else s0) else s0 + 1

/-- block_scale of R93: the E8M0 code of a block from its record entry, the outlier gap and the zero point. -/
def blockScale (ent : AmaxEntry) (f : Fmt) (gap : Nat) (zp : Option Int) : Nat :=
  let s : Int :=
    match f, zp with
    | .int8, some z =>
      let a := if (Num.zero false).lt ent.hi then some (smallestScale ent.hi (127 - z).toNat) else none
      let b := if ent.lo.lt (.zero false) then some (smallestScale ent.lo (z + 128).toNat) else none
      match a, b with
      | some x, some y => max x y
      | some x, none => x
      | none, some y => y
      | none, none => 0
    | _, _ =>
      let a := if f.girder && decide (0 < gap) && (ent.lo.scale gap).lt ent.hi then ent.lo else ent.hi
      if a.isZero then 0 else smallestScale a f.maxMag
  (max 0 (min (s + 127) 254)).toNat

/-- Can no amax pass have written this entry (R92)? The fields are read from their FP32 codes. DESIGN CHOICE (log entry 115): -0 and a
negative subnormal code, on which the rule is silent, read as zero and count as no negative field. -/
def amaxMalformed (asym : Bool) (hiCode loCode : Nat) : Bool :=
  let bad (c : Nat) : Bool := bits c 30 23 == 255
  let h := (FloatFmt.fp32.decode hiCode).1
  let l := (FloatFmt.fp32.decode loCode).1
  if bad hiCode || bad loCode then true
  else if asym then h.lt l
  else h.lt (.zero false) || l.lt (.zero false) || h.lt l

end Sys2Proof.Machine
end

