-- ==== Sys2Proof/Machine/Tile.lean ====
section
/-! DEFINITION. The tile (R34 to R39): addresses, trailer, side list, keystone, zero tile, forwarding tile, spill
header. A tile is held as the cells in which it differs from the zero tile of R297. -/

namespace Sys2Proof.Machine

/-- Bytes of a tile with its trailer. -/
def tileBytes : Nat := 4352

/-- Tiles of a page (R34). -/
def pageTiles : Nat := 481

/-- Bytes of a page (R32). -/
def pageBytes : Nat := 2097152

/-- One byte into the CRC-32C register (reflected polynomial of 0x1EDC_6F41, R38), `n` bits left. -/
def crcBits : Nat → Nat → Nat
  | 0, c => c
  | n + 1, c => crcBits n (if c % 2 = 1 then (c / 2) ^^^ 0x82F63B78 else c / 2)

/-- CRC-32C register after a list of bytes. -/
def crcFold : List Byte → Nat → Nat
  | [], c => c
  | b :: bs, c => crcFold bs (crcBits 8 (c ^^^ b.toNat))

/-- CRC-32C of R38: initial value and final XOR all ones. -/
def crc32c (bs : List Byte) : Nat := crcFold bs 0xFFFFFFFF ^^^ 0xFFFFFFFF

/-- The keystone of the zero tile, computed under R38. -/
def zeroKeystone : Nat := 0xA9175680

/-- Byte `o` of the zero tile (R297): payload zero, format code 0x02, every other trailer field zero, keystone. -/
def zeroTileByte (o : Nat) : Byte :=
  if o < 4096 then 0#8
  else if o = 4096 then 0x80#8
  else if o = 4097 then 0x56#8
  else if o = 4098 then 0x17#8
  else if o = 4099 then 0xA9#8
  else if o = 4100 then 0x02#8
  else 0#8

/-- A tile: its cells that differ from the zero tile, in the canonical form of `Sparse`. -/
abbrev Tile := List Host.Cell

/-- Byte `o` of a tile. -/
def Tile.byte (t : Tile) (o : Nat) : Byte := Sparse.get zeroTileByte t o

/-- `n` bytes of a tile from offset `o`, as a number. -/
def Tile.num (t : Tile) (o n : Nat) : Nat :=
  (List.range n).foldr (fun i acc => (t.byte (o + i)).toNat + 256 * acc) 0

/-- `n` bytes of a tile from offset `o`. -/
def Tile.slice (t : Tile) (o n : Nat) : List Byte := (List.range n).map fun i => t.byte (o + i)

/-- Write bytes into a tile. -/
def Tile.setBytes (t : Tile) (o : Nat) : List Byte → Tile
  | [] => t
  | b :: bs => Tile.setBytes (Sparse.put zeroTileByte t o b) (o + 1) bs

/-- Write a number into a tile, little-endian. -/
def Tile.setNum (t : Tile) (o n v : Nat) : Tile := t.setBytes o (leBytes n v)

/-- A tile from its 4,352 bytes. -/
def Tile.ofBytes (bs : List Byte) : Tile :=
  (bs.take tileBytes).zipIdx.filterMap fun (b, i) => if b = zeroTileByte i then none else some (i, b)

/-- All 4,352 bytes. -/
def Tile.bytes (t : Tile) : List Byte := t.slice 0 tileBytes

/-- Keystone field (R36). -/
def Tile.keystone (t : Tile) : Nat := t.num 4096 4
/-- Format code field (R36). -/
def Tile.format (t : Tile) : Nat := t.num 4100 1
/-- Flags byte (R36). -/
def Tile.flags (t : Tile) : Nat := t.num 4101 1
/-- Poison flag (R36, R42). -/
def Tile.poison (t : Tile) : Bool := bit t.flags 0
/-- Escape-overflow flag: a forwarding tile (R80). -/
def Tile.overflow (t : Tile) : Bool := bit t.flags 1
/-- Rotated flag (R162). -/
def Tile.rotated (t : Tile) : Bool := bit t.flags 2
/-- Gradient flag (R103). -/
def Tile.gradient (t : Tile) : Bool := bit t.flags 3
/-- Generation field (R39). -/
def Tile.generation (t : Tile) : Nat := t.num 4102 2
/-- Escape count (R36). -/
def Tile.escapes (t : Tile) : Nat := t.num 4104 2
/-- amax field as its FP32 code (R36). -/
def Tile.amaxCode (t : Tile) : Nat := t.num 4106 4
/-- Block scale k (R36). -/
def Tile.scale (t : Tile) (k : Nat) : Nat := t.num (4110 + k) 1
/-- Side-list entry n (R37). -/
def Tile.side (t : Tile) (n : Nat) : Nat := t.num (4238 + 4 * n) 4

/-- Element position of a side-list entry (R37). -/
def sidePos (e : Nat) : Nat := bits e 28 16
/-- BF16 code of a side-list entry (R37). -/
def sideCode (e : Nat) : Nat := e % 65536

/-- The keystone computed over payload and trailer bytes 4 to 255 (R36, R38). -/
def Tile.crc (t : Tile) : Nat :=
  if t = [] then zeroKeystone else crc32c (t.slice 0 4096 ++ t.slice 4100 252)

/-- Does the stored keystone match? -/
def Tile.keystoneOk (t : Tile) : Bool := t.keystone == t.crc

/-- The tile with its keystone computed anew (R40, R42). -/
def Tile.seal (t : Tile) : Tile := t.setNum 4096 4 t.crc

/-- The tile with its poison flag set and its keystone recomputed over the bytes delivered (R42). -/
def Tile.poisoned (t : Tile) : Tile :=
  (t.setNum 4101 1 (if t.poison then t.flags else t.flags + 1)).seal

/-- The tile with another generation field, keystone recomputed (R39, R207). -/
def Tile.withGeneration (t : Tile) (g : Nat) : Tile := (t.setNum 4102 2 (g % 65536)).seal

/-- A tile whose bytes the near-memory update unit changes (R179): the generation field counted up, the keystone updated from the old
and new bytes alone. CRC-32C is linear, so a keystone that held holds, and one that did not does not. -/
def Tile.rewritten (old new : Tile) : Tile :=
  let t := new.setNum 4102 2 ((old.generation + 1) % 65536)
  t.setNum 4096 4 (old.keystone ^^^ old.crc ^^^ t.crc)

/-- Code of element i of a payload (R67). -/
def Tile.elem (t : Tile) (f : Fmt) (i : Nat) : Nat :=
  if f.four then bits (t.num (i / 2) 1) (if i % 2 = 0 then 3 else 7) (if i % 2 = 0 then 0 else 4)
  else t.num (i * (f.width / 8)) (f.width / 8)

/-- The side-list entries in use, at most 24 (R36, R37). -/
def Tile.sides (t : Tile) : List Nat :=
  (List.range (min t.escapes 24)).map t.side

/-- The side-list value at element position i, if an entry names it. -/
def Tile.sideAt (t : Tile) (i : Nat) : Option Nat :=
  (t.sides.find? fun e => sidePos e == i).map sideCode

/-- Is a Girder tile malformed (R77): an escape code without an entry, or an entry without its escape code? -/
def Tile.malformed (t : Tile) (f : Fmt) : Bool :=
  f.girder &&
    ((List.range f.elems).any (fun i => t.elem f i == f.escape && (t.sideAt i).isNone) ||
     t.sides.any (fun e => decide (f.elems ≤ sidePos e) || t.elem f (sidePos e) != f.escape))

/-- Value of element i under R68, R71 and R78, with what reading it did. An escaped element denotes its side value. -/
def Tile.value (t : Tile) (f : Fmt) (zp : Int) (i : Nat) : Num × InEv :=
  let c := t.elem f i
  if f.girder && c == f.escape then
    match t.sideAt i with
    | some b => FloatFmt.bf16.decode b
    | none => (.nan, {})
  else f.value c (if f.scaled then t.scale (i / f.block) else 127) zp

/-- A tile address: page base plus 4,352 * i, i from 0 to 480, below 2^48 (R34). -/
def isTileAddr (a : Nat) : Bool :=
  decide (a < 2 ^ 48) && a % pageBytes % tileBytes == 0 && decide (a % pageBytes / tileBytes < pageTiles)

/-- The j-th tile after the tile at `a` (R113). -/
def tileAfter (a j : Nat) : Nat :=
  let s := a % pageBytes / tileBytes + j
  (a / pageBytes + s / pageTiles) * pageBytes + s % pageTiles * tileBytes

/-- Number of a tile address in device order (R113). -/
def tileNo (a : Nat) : Nat := a / pageBytes * pageTiles + a % pageBytes / tileBytes
/-- The tile address with a number. -/
def tileOfNo (i : Nat) : Nat := tileAfter 0 i

/-- The forwarding record of R80: signed offset, spill format code, spill count. -/
def Tile.forward (t : Tile) : Int × Nat × Nat := (signed 64 (t.num 0 8), t.num 8 1, t.num 9 1)

/-- Is it a spill pair that R79 allows for the forwarding tile's own format code? -/
def spillOk (own fmt count : Nat) : Bool :=
  (own == 11 && fmt == 10 && count == 2) || (own == 11 && fmt == 3 && count == 4) ||
    (own == 10 && fmt == 3 && count == 2)

end Sys2Proof.Machine
end

