-- ==== Sys2Proof/Machine/Types.lean ====
section
/-! DEFINITION. The data of the BN2-48 that commands carry and the state holds: packets, replies, records, programs,
tables, adapters. Plain data throughout. -/

namespace Sys2Proof.Machine

/-! ### Replies (R261, R262, R269) -/

/-- The status codes of R269. -/
inductive Status where
  | ok | accepted | refusedFit | refusedFormat | refusedContract | refusedPermission
  | poisoned | keystone | computeCheck
  | squashed | adapterEvicted | spanGone | preempted
  | retryLater | trestleLimit | deviceFault
deriving DecidableEq, Repr

/-- The code of a status (R269). -/
def Status.code : Status → Nat
  | .ok => 0x00 | .accepted => 0x01
  | .refusedFit => 0x10 | .refusedFormat => 0x11 | .refusedContract => 0x12 | .refusedPermission => 0x13
  | .poisoned => 0x20 | .keystone => 0x21 | .computeCheck => 0x22
  | .squashed => 0x30 | .adapterEvicted => 0x31 | .spanGone => 0x32 | .preempted => 0x33
  | .retryLater => 0x40 | .trestleLimit => 0x41 | .deviceFault => 0x50

/-- The detail of a reply, by its kind under R262. -/
inductive Detail where
  | none
  | addr (a : Nat)
  | index (what i : Nat)
  | token (core ctx token : Nat) (pier : Bool)
  | rank (r : Nat)
  | count (n : Nat)
  | expectSeq (n : Nat)
  | pipeline (f b : Nat)
deriving DecidableEq, Repr

/-- DETAIL as its 64 bits: kind in [63:56], value in [55:0] (R262). -/
def Detail.bits64 : Detail → Nat
  | .none => 0
  | .addr a => 1 * 2 ^ 56 + a % 2 ^ 48
  | .index w i => 2 * 2 ^ 56 + w % 2 ^ 8 * 2 ^ 32 + i % 2 ^ 32
  | .token c x t p => 3 * 2 ^ 56 + (if p then 2 ^ 23 else 0) + c % 2 ^ 7 * 2 ^ 16 + x % 2 ^ 5 * 2 ^ 8 + t % 2 ^ 8
  | .rank r => 4 * 2 ^ 56 + r % 2 ^ 16
  | .count n => 5 * 2 ^ 56 + n % 2 ^ 56
  | .expectSeq n => 6 * 2 ^ 56 + n % 2 ^ 24
  | .pipeline f b => 7 * 2 ^ 56 + b % 2 ^ 16 * 2 ^ 16 + f % 2 ^ 16

/-- A status reply without its phase (R261). -/
structure Reply where
  tag : Word
  seq : Nat
  status : Status
  detail : Detail := .none
  result0 : Nat := 0
  result1 : Nat := 0
deriving DecidableEq, Repr

/-- The 32 bytes of a reply as one number, phase in bit 255 (R261). -/
def Reply.bits256 (r : Reply) (phase : Bool) : Nat :=
  r.tag.toNat + r.seq % 2 ^ 24 * 2 ^ 32 + r.status.code * 2 ^ 56 + r.detail.bits64 * 2 ^ 64
    + r.result0 % 2 ^ 64 * 2 ^ 128 + r.result1 % 2 ^ 63 * 2 ^ 192 + (if phase then 2 ^ 255 else 0)

/-! ### What comes in -/

/-- A command packet as the BN2 reads it from a ring (R257, R258), with the bytes of the host buffer or parameter block
that it points to (R260). `body` holds packet bytes 12 to 63. -/
structure Pkt where
  fn : Nat
  ring : Nat
  flags : BitVec 16
  span : BitVec 8
  seq : BitVec 24
  tag : Word
  body : List Byte
  block : List Byte
deriving DecidableEq, Repr

/-- Parameter at packet byte `o`, `n` bytes long (R266). -/
def Pkt.arg (p : Pkt) (o n : Nat) : Nat := rd p.body (o - 12) n

/-- IRQ_NOW (R258). -/
def Pkt.irqNow (p : Pkt) : Bool := p.flags.getLsbD 1
/-- FORCE (R258). -/
def Pkt.force (p : Pkt) : Bool := p.flags.getLsbD 2
/-- PBLK (R258). -/
def Pkt.pblk (p : Pkt) : Bool := p.flags.getLsbD 0
/-- OPFLAGS bit 8 of the packet: THAW of SPAN_FREEZE, FINAL of SPAN_SAVE. -/
def Pkt.opflag8 (p : Pkt) : Bool := p.flags.getLsbD 8

/-- A parapet packet written into a mailbox slot (R271). -/
structure MboxCmd where
  fn : Nat
  slot : Nat
  flags : BitVec 16
  span : BitVec 8
  seq : BitVec 24
  tag : Word
  body : List Byte
deriving DecidableEq, Repr

/-- Parameter at packet byte `o`. -/
def MboxCmd.arg (p : MboxCmd) (o n : Nat) : Nat := rd p.body (o - 12) n

/-- The context that issues a descriptor: step, task, context within the task. `piers` lists the READY contexts of its core that stand at
a pier barrier then, as step, task and context: they want no engine (R17, R20; no field of a descriptor says so, log entry 48). -/
structure CtxRef where
  step : Nat
  task : Nat
  ctx : Nat
  piers : List (Nat × Nat × Nat) := []
deriving DecidableEq, Repr

/-- A fault of the array on one output block (R126): `product` is 0 for a MATMUL or base product, 1 and 2 for the
adapter products, `block` counts output blocks; `again` says that the recomputation mismatches too. -/
structure Upset where
  product : Nat
  block : Nat
  again : Bool
deriving DecidableEq, Repr

/-- An EMB_LOOKUP that a context issues, and those of its indices whose row the gather engine cannot read (R42, R184). -/
structure LookRef where
  ctx : CtxRef
  bad : List Nat
deriving DecidableEq, Repr

/-- A step whose deadlock timer ends (R21), and its READY contexts that wait at a pier barrier: task, context, barrier (log entry 48). -/
structure StuckStep where
  id : Nat
  piers : List (Nat × Nat × Nat)
deriving DecidableEq, Repr

/-- A page whose migration flips (R58), and whether its old home could not be read while it was evacuated (R61). -/
structure CopiedPage where
  page : Nat
  unreadable : Bool
deriving DecidableEq, Repr

/-- A held look-up that is served (R189), and whether its row cannot be read (R42, R184). -/
structure ServedLook where
  held : Nat
  bad : Bool
deriving DecidableEq, Repr

/-- What a tile fetch met on its way (R41, R42, R57): a good copy, a good copy after beat groups were corrected, a damaged first
copy, both copies damaged, or an uncorrectable read. -/
inductive FetchOutcome where
  | good | corrected | firstBad | bothBad | uncorrectable
deriving DecidableEq, Repr

/-- A Viaduct frame (R307). -/
structure Frame where
  ty : Nat
  ctrl : Bool
  ackreq : Bool
  enc : Bool
  srcRank : Nat
  dstRank : Nat
  srcSpan : Nat
  dstSpan : Nat
  group : Word
  psn : Nat
  key : Nat
  flow : Nat
  arg : Nat
  payload : List Byte
deriving DecidableEq, Repr

/-- What the checks of a frame that comes in find (R307, R323): nothing; an FCS, UDP checksum or CRC-32C that fails; a codeword that FEC
cannot correct, on which the FCS fails. -/
inductive FrameCheck where
  | good | failed | uncorrectable
deriving DecidableEq, Repr

/-- A frame as it comes in: the port, whether a switch has marked it CE (R315), and what its checks find. -/
structure Arrival extends Frame where
  port : Nat
  ce : Bool
  check : FrameCheck
deriving DecidableEq, Repr

/-- How a frame goes out (R307, R309): its port, the base address of its rank, the UDP port, the DSCP of its channel, its VLAN tag, the
hop limit, and the ECN field, ECT(0). -/
structure Wire where
  port : Nat
  base : BitVec 128
  udp : Nat
  dscp : Nat
  vlan : Option Nat
  hops : Nat := 64
  ecn : Nat := 2
deriving DecidableEq, Repr

/-- A GET_REQ frame, and whether the row that it asks for cannot be read (R42, R184). -/
structure GetRequest where
  frame : Arrival
  bad : Bool
deriving DecidableEq, Repr

/-- A stream of tiles as it comes from outside (R206): its plaintext, and the key under which it was encrypted. -/
structure TileStream where
  tiles : List Tile
  under : BitVec 512
deriving DecidableEq, Repr

/-- An acknowledgement's contents (R312, R315): cumulative PSN, selective ranges, fraction of CE marks in 1024ths, RTT
in ns and the number of CE marks. -/
structure AckInfo where
  cum : Nat
  ranges : List (Nat × Nat)
  ce1024 : Nat
  rtt : Nat
  marks : Nat
deriving DecidableEq, Repr

/-- The three paths of SPDM (R395). -/
inductive SpdmPath where
  | doe | mctp | ring (fn : Nat)
deriving DecidableEq, Repr

/-- Sensor readings of one health refresh (R417, R432). Mean of the hottest diode over 60 s in 1024ths of a degree. -/
structure Sensors where
  hotMean1024 : Nat
  temps : List (BitVec 8)
  slow : List Nat
  volts : List Nat
  excursions : Nat
  inlet : BitVec 8
  outlet : BitVec 8
deriving DecidableEq, Repr

/-! ### Step programs (R232 to R234, R435, R438) -/

/-- A range of the prefetch schedule (R438). -/
structure SchedRange where
  addr : Nat
  task : Nat
  tiles : Nat
deriving DecidableEq, Repr

/-- A task of a program: its contexts' descriptor streams (R233). -/
structure TaskDef where
  contexts : Nat
  tokens : Nat
  layer0 : Nat
  streams : List (List (List Byte))
deriving DecidableEq, Repr

/-- The step kinds of R232. -/
inductive StepKind where
  | serve | fwd | bwd | update | eval | embed | secure
deriving DecidableEq, Repr

/-- KIND code to step kind. -/
def StepKind.ofCode : Nat → Option StepKind
  | 0 => some .serve | 1 => some .fwd | 2 => some .bwd | 3 => some .update
  | 4 => some .eval | 5 => some .embed | 6 => some .secure
  | _ => none

/-- A loaded program (R233, R234). -/
structure Program where
  span : Nat
  handle : Nat
  image : List Byte
  kind : StepKind
  pipelined : Bool
  minCores : Nat
  slots : Nat
  deckMask : Nat
  pfDepth : Nat
  warmup : Nat
  maxSeq : Nat
  maxRows : Nat
  maxBag : Nat
  evalEvery : Nat
  evalRing : Nat
  piers : Nat
  tables : List Nat
  tasks : List TaskDef
  sched : List (List SchedRange)
  unload : List Nat
deriving DecidableEq, Repr

/-! ### Counts of R86 -/

/-- The format events of one descriptor or step (R86). -/
structure Counts where
  sat : Nat := 0
  flin : Nat := 0
  flout : Nat := 0
  esc : Nat := 0
  ovf : Nat := 0
  sr : Nat := 0
  nan : Nat := 0
deriving DecidableEq, Repr

/-- Both counts together. -/
def Counts.add (a b : Counts) : Counts :=
  ⟨a.sat + b.sat, a.flin + b.flin, a.flout + b.flout, a.esc + b.esc, a.ovf + b.ovf, a.sr + b.sr, a.nan + b.nan⟩

/-! ### Steps in the machine (R16 to R28, R434) -/

/-- The states of a hardware context. -/
inductive CtxState where
  | ready | waitToken | waitFetch (addr : Nat) (gen : Option Nat) | full
deriving DecidableEq, Repr

/-- A hardware context of a task: next descriptor of its stream, its VLEN register (unset when the task starts, R138),
the stamp of when it last became READY (R17), and the operand tiles its waiting descriptor has read so far. -/
structure Ctx where
  next : Nat
  vlen : Option Nat
  state : CtxState
  since : Nat
  captured : List (Nat × Tile)
deriving DecidableEq, Repr

/-- A task of an admitted step: the logical core it runs on, its contexts, its tokens (R434), and the tiles it has written
(R51). -/
structure Task where
  idx : Nat
  core : Option Nat
  ctxs : List Ctx
  tokens : List Nat
  ended : Bool
  written : List Nat
deriving DecidableEq, Repr

/-- The phases of a step (R23 to R28): read, staged by run-ahead, compute, commit, and ended with its reply still owed in ring
order (R188). -/
inductive StepPhase where
  | read | staged | compute | commit | ended
deriving DecidableEq, Repr

/-- A learning-rate entry a step uses: tile address and byte offset, E read at admission, the largest |u'| so far as an
FP32 code, and whether a scaled update saturated (R106, R107). -/
structure LrUse where
  addr : Nat
  e : Int
  amax : Num
  sat : Bool
deriving DecidableEq, Repr

/-- A barrier ticket (R187): table, epoch; `update` when the step holds an EMB_GRAD for the table. -/
structure Ticket where
  table : Nat
  epoch : Nat
  update : Bool
deriving DecidableEq, Repr

/-- A binding of a deck slot (R212): slot, generation, image. -/
structure Bind where
  slot : Nat
  gen : Nat
  image : Nat
deriving DecidableEq, Repr

/-- A request entry of a step (R213), with what the BN2 writes back. -/
structure ReqEntry where
  reqId : Nat
  handle : Nat
  flags : Nat
  rstatus : Nat
  rnote : Nat
deriving DecidableEq, Repr

/-- A step the BN2 has read and not yet answered (R23 to R28, R235). -/
structure Step where
  id : Nat
  cmd : Nat
  span : Nat
  ring : Nat
  seq : Nat
  handle : Nat
  seedValid : Bool
  seedIn : DWord
  nreq : Nat
  addrReq : Nat
  addrTok : Nat
  addrArg : Nat
  nadp : Nat
  addrAdp : Nat
  phase : StepPhase
  seed : DWord
  counts : Counts
  binds : List Bind
  adapters : List Nat
  requests : List ReqEntry
  taken : List Nat
  tickets : List Ticket
  tasks : List Task
  written : List Nat
  genChanged : Bool
  lr : List LrUse
  adpThresh : Nat
  aborting : Option Nat
  failed : Option (Status × Detail)
  stagedBinds : List Bind
  stagedTiles : List (Nat × Nat)
  sched : List (List SchedRange)
  putsOpen : Nat
  accepts : List (Nat × Nat × Nat)
  reloads : List Nat
  /-- COLD adapters whose factors have come for this step (R226). -/
  reloaded : List Nat := []
  /-- Requests that the step opened and that close at its reply, since it does not commit (R213). -/
  closes : List Nat := []
  /-- The home cores of its tasks: where the ring's previous step of the program ran them (R237). -/
  homes : List (Nat × Nat) := []
  adpUsed : List (Nat × Nat)
deriving DecidableEq, Repr

/-- The four engines of a core. -/
inductive Engine where
  | matrix | vector | gather | mover
deriving DecidableEq, Repr

/-- A collective that a descriptor runs (R318): all-gather or reduce-scatter, this rank's place in the list, the list,
format, tiles, first local tile, its own tiles as read, and whether its conversion is stochastic. -/
structure Coll where
  gather : Bool
  idx : Nat
  ranks : List Nat
  fmt : Nat
  tiles : Nat
  addrL : Nat
  own : List Tile
  stoch : Bool
  /-- The descriptor fields that every rank of the list gives alike. -/
  fields : List Byte
  /-- Neighbours whose fields have been found the same. -/
  heard : List Nat
deriving DecidableEq, Repr

/-- The look-ups of an EMB_LOOKUP (R184, R185): table, its D, epoch and kind; row id of every index, bag offsets (none without
POOL), FP32 weights (none without WEIGHTED); output format and address; look-ups not answered, as number, index and whether
asked again, at most 512 of them; indices whose request waits for one of those to end (R22), and indices whose reads are
uncorrectable; vectors read, by index, and whether a tile read carried the gradient flag (R103), streams' tiles under `flags`. -/
structure Look where
  table : Nat
  dim : Nat
  epoch : Nat
  update : Bool
  ids : List Nat
  offs : List Nat
  weights : List Nat
  fmt : Nat
  addr : Nat
  pend : List (Nat × Nat × Bool)
  rest : List Nat
  bad : List Nat
  rows : List (Nat × List Byte × Bool)
  flags : List Bool
deriving DecidableEq, Repr

/-- A descriptor that an engine holds: its results wait for DESCRIPTOR_COMPLETE (R17, R19, R148). `parts` gives, for a tile
that is only partly covered, the payload bytes that are and the zero point (R140); the rest stays as it stands at
completion. `cnts` and `lr` are what
it adds to counters and learning-rate entries, `remote` counts answers it waits for, `gets` lists remote tiles awaited (rank,
remote address, local address), `refs` the tile-map entries it names. `attn` marks an attention descriptor, whose operations pass
through the queues of three engines (R155). -/
structure InFlight where
  step : Nat
  task : Nat
  ctx : Nat
  dseq : Nat
  core : Nat
  engine : Engine
  sig : Option Nat
  writes : List (Nat × Tile)
  parts : List (Nat × Nat × Int)
  counts : Counts
  cnts : List (Nat × Nat)
  lr : List LrUse
  fail : Option (Status × Detail)
  remote : Nat
  refs : List (Nat × Option Nat)
  gets : List (Nat × Nat × Nat)
  coll : Option Coll
  look : Option Look
  attn : Bool := false
deriving DecidableEq, Repr

/-! ### Scratchpad (R46 to R49) -/

/-- State of a tile-map entry. -/
inductive SlotState where
  | fetching | clean | dirty | writingBack
deriving DecidableEq, Repr

/-- Pin class of a tile-map entry. -/
inductive Pin where
  | none | stay | hot
deriving DecidableEq, Repr

/-- A tile-map entry of a core, with the tile that its slot holds. `gen` is the generation tag of DECK tiles (R203). -/
structure TileEnt where
  addr : Nat
  slot : Nat
  state : SlotState
  pin : Pin
  gen : Option Nat
  refs : Nat
  age : Nat
  prefetch : Bool
  data : Tile
deriving DecidableEq, Repr

/-- A PIN or HOTSET_REFRESH some of whose fetches wait for a slot (R47, R437): command, span, class, what remains to be pinned
(core, tile address), the table of a hot set, and the number that its reply gives: tiles pinned poisoned, or rows skipped. -/
structure PinJob where
  cmd : Nat
  span : Nat
  cls : Pin
  left : List (Nat × Nat)
  table : Option Nat
  count : Nat
deriving DecidableEq, Repr

/-- A logical core: its tile map. -/
structure Core where
  tiles : List TileEnt := []
deriving DecidableEq, Repr

/-- Service state of a physical core (R334, R335). -/
inductive PhysState where
  | active | spare | quarantined | testing | retired
deriving DecidableEq, Repr

/-- A physical core: service state, redundant rows left in each of its 16 banks, the slots withdrawn (R337). -/
structure Phys where
  state : PhysState
  rows : List Nat
  withdrawn : List Nat
deriving DecidableEq, Repr

/-! ### Pages (R32, R33, R56) -/

/-- A mapped page of a span: its frame (none for DECK window pages, R203, and withdrawn pages, R61) and attributes. -/
structure PageEnt where
  frame : Option Nat
  writable : Bool
  deck : Bool
  gone : Bool
deriving DecidableEq, Repr

/-- What a page frame of HBM is used for. -/
inductive FrameUse where
  | scrubWait | free | page | image | spare | poolUsed | oldHome | withdrawn
deriving DecidableEq, Repr

/-- A page in migration (R58): span and page number (span 64 and the old frame for a page of an image), old and new frame,
whether the flip is done, and whether the old home leaves service afterwards (R60, R61). -/
structure PageMove where
  span : Nat
  page : Nat
  old : Nat
  new : Nat
  flipped : Bool
  evac : Bool
deriving DecidableEq, Repr

/-- Service state of a channel (R64). -/
inductive ChanState where
  | inService | retiring | retired | lost
deriving DecidableEq, Repr

/-- A channel: state, low margin, repairs used, free pool pages (R56, R64), windows above the high mark, corrections of the stacks' own
ECC as last read (R327). -/
structure Chan where
  state : ChanState
  low : Bool
  ppr : Nat
  pool : Nat
  highWindows : Nat
  onDie : Nat := 0
deriving DecidableEq, Repr

/-- State of a stack's bring-up (R378). -/
inductive StackState where
  | training | retry | joined | lost
deriving DecidableEq, Repr

/-! ### Decks, adapters, requests (R202 to R229) -/

/-- A resident image (R205 to R217). `source` is 0 HOST or 1 PEER. -/
structure Image where
  id : Nat
  owner : Nat
  charge : Nat
  digest : BitVec 256
  tiles : Nat
  frames : List Nat
  shareable : Bool
  preserve : Bool
  norefetch : Bool
  damaged : Bool
  source : Nat
  key : Nat
  /-- Handle of the key under which the stream was loaded (R295). -/
  handle : Nat
  peer : Nat
  hostAddr : Nat
  refetched : List Nat
  /-- Tiles whose refetch failed (R221): every read of one ends with ST_POISONED. -/
  bad : List Nat
  loading : Bool
  /-- Kept through a module reset under PRESERVE, and not yet bound anew by the span that loaded it (R217). -/
  kept : Bool := false
  /-- The generation that the image was assigned when its load started (R204). -/
  gen : Nat := 0
  /-- Tiles asked of the peer again and not yet come (R220). -/
  asked : List Nat := []
deriving DecidableEq, Repr

/-- A generation of a slot that is not its current one: its number, its image, and the window it resolves through, with its pages (R202,
R217; two of them can stand after a retirement under R219). -/
structure OldGen where
  gen : Nat
  image : Nat
  window : Option Nat
  pages : Nat := 0
deriving DecidableEq, Repr

/-- A deck slot (R202, R204, R217, R218): current generation and image, older generations, newest first, the window, a fixed range
with its first address and its pages, the staged image, the load and the switch in progress, and the retirements whose final reply is owed, each with the generations it waits for. -/
structure DeckSlot where
  gen : Nat := 0
  current : Option Nat := none
  olds : List OldGen := []
  window : Option Nat := none
  pages : Nat := 0
  staged : Option Nat := none
  load : Option Nat := none
  waiting : Option (Nat × Nat) := none
  retiring : List (Nat × List Nat) := []
deriving DecidableEq, Repr

/-- A load of a deck image in progress (R205). -/
structure DeckLoad where
  cmd : Nat
  span : Nat
  slot : Nat
  image : Nat
  switch : Bool
  expect : Option (BitVec 256)
  block : Nat
deriving DecidableEq, Repr

/-- A site of an adapter (R223). -/
structure Site where
  wAddr : Nat
  k : Nat
  n : Nat
  addrA : Nat
  addrB : Nat
deriving DecidableEq, Repr

/-- A resident adapter descriptor (R222, R226, R227). -/
structure Adapter where
  handle : Nat
  span : Nat
  deckDigest : BitVec 256
  digest : BitVec 256
  fmt : Nat
  cls : Nat
  rank : Nat
  trainable : Bool
  key : Nat
  /-- Handle of the key under which the stream was loaded (R295). -/
  keyed : Nat
  source : Nat
  peer : Nat
  hostAddr : Nat
  sites : List Site
  loading : Option Nat
  block : Nat
  lastBound : Nat
  valid : Bool
  evict : List Nat
  evicting : Bool
  force : Bool
  boundary : List Nat
deriving DecidableEq, Repr

/-- An open request (R213, R214, R228). `grace` holds the digests recorded at a forced eviction. -/
structure OpenReq where
  span : Nat
  reqId : Nat
  handle : Nat
  hold : Bool
  binds : List Bind
  adapterDigest : BitVec 256
  deckDigest : BitVec 256
  grace : Bool
deriving DecidableEq, Repr

/-! ### Embedding tables (R177 to R201) -/

/-- State of a directory entry (R197). -/
inductive DirState where
  | home | moving
deriving DecidableEq, Repr

/-- A directory entry (R197). -/
structure DirEnt where
  row : Nat
  state : DirState
  oldLocal : Nat
  oldRank : Nat
  newLocal : Nat
  newRank : Nat
  /-- Its place in the directory region: the lowest that was free (log entry 103). -/
  place : Nat := 0
deriving DecidableEq, Repr

/-- The tag of a row-update record (R186). -/
structure RecTag where
  rank : Nat
  task : Nat
  ctx : Nat
  dseq : Nat
  window : Nat
deriving DecidableEq, Repr

/-- A row-update record, or a coalescing entry (R186, R191): FP32 codes of the sums, and what forming each did on this rank (R87). -/
structure RowRecord where
  table : Nat
  epoch : Nat
  row : Nat
  tag : RecTag
  sums : List Nat
  evs : List Ev := []
deriving DecidableEq, Repr

/-- A look-up that an owner holds (R189): its number, epoch and kind, the row, and the rank and span that ask. -/
structure HeldLook where
  id : Nat
  epoch : Nat
  update : Bool
  row : Nat
  src : Nat
  span : Nat
deriving DecidableEq, Repr

/-- Rows on the move (R198). -/
structure RowMove where
  cmd : Nat
  rows : List DirEnt
  epoch : Nat
  copied : Bool
  acked : Bool
  flipped : Bool
deriving DecidableEq, Repr

/-- A HOTSET_REFRESH under way (R196): its command, the tiles of the new set, rows skipped. -/
structure Refresh where
  cmd : Nat
  vas : List Nat
  skipped : Nat
deriving DecidableEq, Repr

/-- An embedding table of a span (R180 to R196). `closes` are the CLOSE messages held, `closing` those this module still owes
(R319), both as epoch and rank. -/
structure Table where
  id : Nat
  dim : Nat
  opt : Nat
  range : Bool
  idBits : Nat
  determ : Bool
  stale : Nat
  seed : Nat
  coalEntries : Nat
  addrRows : Nat
  group : Nat
  addrMap : Nat
  mapEntries : Nat
  addrCoal : Nat
  localRows : Nat
  addrDir : Nat
  dirLog2 : Nat
  addrUpd : Nat
  ticket : Nat
  applied : Nat
  applying : Option Nat
  closes : List (Nat × Nat)
  closing : List (Nat × Nat)
  voids : List Nat
  voidBy : List (Nat × Nat)
  overflow : List Nat
  records : List RowRecord
  snaps : List (Nat × List Byte)
  dir : List DirEnt
  held : List HeldLook
  stalled : Bool
  moves : List RowMove
  hot : List (Nat × Nat)
  fold : Option (Nat × Bool)
  lastA : Num
  lastSat : Bool
  /-- Entries discarded because their row failed its checks or was poisoned (R194), and records discarded because their epoch was
  over (R190): counted here, since R201's table of counters names none for them (log entry 104). -/
  discarded : Nat := 0
  /-- Has the flip of the folded rows fallen: has an epoch closed since their restore (R365)? -/
  foldFlipped : Bool := false
  /-- Records of an epoch that were sent to a rank and dropped with no acknowledgement, as (epoch, rank): no CLOSE follows them
  (R319). -/
  lost : List (Nat × Nat) := []
  /-- HOTSET_REFRESH commands that wait for an application to complete (R196). -/
  refresh : List Refresh := []
deriving DecidableEq, Repr

/-! ### Viaduct (R305 to R326) -/

/-- A packet a flow has sent and not seen acknowledged: frame, retransmissions so far, port it was striped to. -/
structure SentPkt where
  frame : Frame
  tries : Nat
  port : Nat
  step : Option Nat
deriving DecidableEq, Repr

/-- An open flow of this module (R311 to R315). The rate is in units of 0.1 MB/s; `cut` is the number of the first packet sent after the rate
last fell (log entry 78). -/
structure Flow where
  id : Nat
  span : Nat
  rank : Nat
  dstSpan : Nat
  key : Nat
  ctrl : Bool
  psn : Nat
  sent : List SentPkt
  rate : Nat
  minRtt : Nat
  cut : Option Nat
  /-- The first port that the next packet may take (R311). -/
  stripe : Nat := 0
deriving DecidableEq, Repr

/-- A packet that waits for a free flow (R311). -/
structure Unsent where
  span : Nat
  rank : Nat
  dstSpan : Nat
  key : Nat
  ctrl : Bool
  ty : Nat
  arg : Nat
  payload : List Byte
  step : Option Nat
deriving DecidableEq, Repr

/-- What a receiver holds of a flow (R312): next PSN, packets ahead of a gap, packets since the last acknowledgement and those of them
that carried CE (R315), packets refused with their reasons (R317), the parts so far of a message cut in parts (log entry 22). -/
structure RxFlow where
  rank : Nat
  flow : Nat
  ctrl : Bool
  /-- The span that the flow's packets go to. -/
  span : Nat := 0
  /-- The sending span. -/
  srcSpan : Nat := 0
  next : Nat
  held : List Frame
  unacked : Nat
  marks : Nat := 0
  refused : List (Nat × Nat) := []
  part : List Byte := []
deriving DecidableEq, Repr

/-- State of a Viaduct port (R325). -/
inductive PortState where
  | up | training | down | retired
deriving DecidableEq, Repr

/-- A Viaduct port (R325). `overWindows` counts status windows of 10 ms in a row with a bit error ratio above 10^-5 (R322, R332). -/
structure Port where
  state : PortState := .training
  margin : Nat := 0
  ber : Nat := 0
  misaddr : Nat := 0
  retrain : Nat := 0
  overWindows : Nat := 0
deriving DecidableEq, Repr

/-! ### Securing (R350 to R365) -/

/-- The policy record (R350). -/
structure Policy where
  k : Nat
  sync : Bool
  bn1 : Bool
  group : Nat
  index : Nat
  lambda : Nat
  bearPages : Nat
  addrBear : Nat
  secKey : Nat
  ranges : List (Nat × Nat)
  drainAddr : Nat
  drainBytes : Nat
  ranks : List Nat
  addrBn1 : Nat
  bn1Tiles : Nat
deriving DecidableEq, Repr

/-- An entry of the bearing log (R355, R356). -/
inductive LogEntry where
  | tile (point addr : Nat) (t : Tile)
  | row (point table row : Nat) (record : List Byte)
  | state (point : Nat) (seed : DWord) (n : Nat) (tables : List (Nat × Nat × Nat × List Byte)) (rings : List (Nat × Nat × Nat))
  | bn1 (point addr : Nat) (t : Tile)
  | mark (point entries : Nat)
deriving DecidableEq, Repr

/-- A log segment (R358): sequence number, bearing row, entries, acknowledged, drained. -/
structure Segment where
  seq : Nat
  row : Nat
  entries : List LogEntry
  acked : Bool
  drained : Bool
  /-- A packet of its parity was refused: it is never acknowledged. -/
  lost : Bool := false
deriving DecidableEq, Repr

/-- The securing state of a span with a policy (R352 to R360): counts, the secure point, what waits for one, the log's segments, what
has changed since the last point, the drain position, bearing rows written so far, and pauses in us. -/
structure SecState where
  policy : Policy
  n : Nat
  nSec : Nat
  nSeal : Nat
  point : Nat
  due : Bool
  nowCmds : List Nat
  sealCmds : List (Nat × Nat)
  pointN : List (Nat × Nat)
  segs : List Segment
  nextSeg : Nat
  touched : List Nat
  rowsTouched : List (Nat × Nat)
  produced : Nat
  used : List Nat
  pauses : List Nat
  /-- A point was abandoned by an abort: the next counted commit makes it due again (R357). -/
  again : Bool := false
deriving DecidableEq, Repr

/-! ### Saving a span (R298 to R303) -/

/-- The state record of a save (R301). -/
structure StateRec where
  keyBase : Nat
  keyCount : Nat
  cores : List Nat
  spadSlots : Nat
  hbmPages : Nat
  vectors : Nat
  drainMs : Nat
  weights : List Nat
  seedInit : DWord
  slots : List DeckSlot
  slotDigests : List (Nat × BitVec 256)
  programs : List Program
  tables : List Table
  adapters : List Adapter
  requests : List OpenReq
  pins : List (Nat × Nat × Pin × Option Nat)
  policy : Option SecState
  seed : DWord
  rank : Nat
  images : List (Image × List Nat)
deriving DecidableEq, Repr

/-- The header of a record of a save stream or a drain stream (R300, R360): MAGIC, TYPE, VA, DCRC, DLEN, PASS, HCRC, RECORDS. -/
structure RecHead where
  magic : Nat := 0x56533242
  ty : Nat
  va : Nat
  dcrc : Nat := 0
  dlen : Nat
  pass : Nat
  hcrc : Nat := 0
  records : Nat := 0
deriving DecidableEq, Repr

/-- Bytes 0 to 27 of the header, over which HCRC is computed. -/
def RecHead.bytes (h : RecHead) : List Byte :=
  leBytes 4 h.magic ++ leBytes 1 h.ty ++ leBytes 3 0 ++ leBytes 6 h.va ++ leBytes 2 0 ++ leBytes 4 h.dcrc ++ leBytes 4 h.dlen ++ leBytes 4 h.pass

/-- The header with both check values computed. -/
def RecHead.close (h : RecHead) (dcrc : Nat) : RecHead :=
  let h := { h with dcrc := dcrc }
  { h with hcrc := crc32c h.bytes }

/-- A record of the save stream as the crypto engine hands it on (R300): its header and its data: a page, the handle pairs of the end
record, or the state record. The layout of the state record is not given: `stateCrc` is the CRC-32C of its bytes. -/
structure SaveRec extends RecHead where
  page : List Host.Cell := []
  state : Option StateRec := none
  handles : List (Nat × Nat) := []
  stateCrc : Nat := 0
deriving DecidableEq, Repr

/-- A drained log record with its header, or (with the row it came from) an undrained segment, whose header then gives its sequence number
alone (R360, R363). `acked` tells that every packet of an undrained segment had been acknowledged. -/
structure DrainRec extends RecHead where
  row : Option Nat
  entries : List LogEntry
  acked : Bool := true
deriving DecidableEq, Repr

/-! ### Firmware and keys (R388 to R399) -/

/-- A firmware image in a slot (R389). -/
structure FwImage where
  version : Word
  svn : Nat
  commit : Bool
  sirevMask : Word
  digest : BitVec 384
  header : List Byte
  sig : List Byte
  cosig : List Byte
  bodyLen : Nat
  bodyDigest : BitVec 384
deriving DecidableEq, Repr

/-- State of a key slot (R399). -/
inductive KeyState where
  | empty | installed | revoking
deriving DecidableEq, Repr

/-- A key slot: state, the 20-bit count of its handle (R295), the key. -/
structure KeySlot where
  state : KeyState := .empty
  count : Nat := 0
  key : BitVec 512 := 0#512
  cmds : List Nat := []
deriving DecidableEq, Repr

/-- Management roles (R402), rising. -/
inductive Role where
  | none | reader | operator | administrator
deriving DecidableEq, Repr

/-- Rank of a role: it holds every right of the roles above it in R402's table. -/
def Role.level : Role → Nat
  | .none => 0 | .reader => 1 | .operator => 2 | .administrator => 3

/-! ### Faults (R332, R333, R341, R345) -/

/-- The events of R332, class by class, and after them what else has a part leave service: a core that is above THRESH after its
quarantine test (R334) or has too few slots left (R337), and a core of a cluster with no PLL (R341). -/
inductive BktEvent where
  | computeTransient | padParity | coreKeystone | computeDouble | controlParity | testFailure
  | rowParity
  | correctedSymbol | uncorrectable
  | rowRepair | lowMargin | doubleFetch | retrainFailure | unresponsive
  | linkLoss | bitErrors | retrainings | codeword | badFrame
  | ingressKeystone | selfTest
  | lockLoss | frequency
  | phaseTrip | phaseShort
  | aboveThresh | slots | noPll
deriving DecidableEq, Repr

/-- The weight of an event (R332); none: "at once". -/
def BktEvent.weight : BktEvent → Option Nat
  | .computeTransient => some 2 | .padParity => some 1 | .coreKeystone => some 4 | .computeDouble => some 8
  | .controlParity => some 8 | .testFailure => none
  | .rowParity => some 1
  | .correctedSymbol => some 1 | .uncorrectable => none
  | .rowRepair => some 1 | .lowMargin => some 2 | .doubleFetch => some 2 | .retrainFailure => some 8 | .unresponsive => none
  | .linkLoss => some 4 | .bitErrors => some 8 | .retrainings => none
  | .codeword => some (Config.frameWeight true) | .badFrame => some (Config.frameWeight false)
  | .ingressKeystone => some 4 | .selfTest => none
  | .lockLoss => some 8 | .frequency => some 4
  | .phaseTrip => some 8 | .phaseShort => none
  | .aboveThresh => some 0 | .slots => some 0 | .noPll => some 0

/-- Where a scratchpad parity error falls (R328, R337): the slot, none for descriptor staging or token state, and the other slots that
its row covers, for the manual does not say where in the rows of a bank the slots lie (log entry 21). -/
structure ParitySite where
  slot : Option Nat
  others : List Nat
deriving DecidableEq, Repr

/-- How a background retraining of a channel ends (R59, R327, R332): a failure, a channel that did not respond twice, and the number of
corrections that the stack's own ECC has made since the last reading of its count. -/
structure RetrainEnd where
  failed : Bool
  silent : Bool
  onDie : Nat
deriving DecidableEq, Repr

/-- What a PLL of a cluster does (R332, R341): the running one or its partner in standby, lost lock or left its frequency window. -/
structure PllFault where
  standby : Bool
  lost : Bool
deriving DecidableEq, Repr

/-! ### Event records (R406, R407) -/

/-- What an event record names, where a rule says that it names something: a tile or a page of a span, a silent rank and its
table, a stalled table, a deck tile, a request, the range that a debug read has read (R404), an instance judged with its level and the
event (R333), what is left of a class after a loss (R343), the results of a test core by core (R440), who cleared records (R411). -/
inductive Subject where
  | none
  | tile (addr : Nat)
  | page (vp : Nat)
  | rank (table r : Nat)
  | table (id : Nat)
  | deckTile (digest : BitVec 256) (tile : Nat)
  | request (id : Nat)
  | range (what a b len : Nat)
  | judged (cls inst level : Nat) (event : BktEvent)
  | rating (cls left : Nat)
  | results (rs : List (Nat × Nat × Nat))
  | clearer (mgmt : Bool)
deriving DecidableEq, Repr

/-- An event record (R406). `names` is what its payload names; how the payload lays that out the manual does not say. -/
structure EvRec where
  ty : Nat
  payload : List Byte
  span : Nat
  device : Bool
  unit : Nat
  seq : Nat
  time : DWord
  names : Subject := .none
deriving DecidableEq, Repr

/-- A leaky bucket (R332). -/
structure Bucket where
  level : Nat := 0
  events : Nat := 0
deriving DecidableEq, Repr

/-- The resource classes of R332. -/
inductive BktClass where
  | core | sramRow | hbmRow | hbmChannel | vdtPort | crypto | pll | powerPhase
deriving DecidableEq, Repr

/-- Class number (R332). -/
def BktClass.num : BktClass → Nat
  | .core => 0 | .sramRow => 1 | .hbmRow => 2 | .hbmChannel => 3
  | .vdtPort => 4 | .crypto => 5 | .pll => 6 | .powerPhase => 7

/-! ### What goes out -/

/-- What the block sends out. The list of them is the model's window on the pins, the host and the fabric. -/
inductive Out where
  | reply (fn ring addr : Nat) (phase : Bool) (r : Reply)
  | parReply (fn addr : Nat) (phase : Bool) (r : Reply)
  | irq (fn vector : Nat)
  | hostWrite (fn addr : Nat) (data : List Byte)
  | saveStream (fn addr key unit : Nat) (recs : List SaveRec)
  | drainStream (fn key unit : Nat) (pieces : List (Nat × Nat)) (head : RecHead) (entries : List LogEntry)
  | drainRead (fn addr len key unit : Nat)
  | readData (fn : Nat) (data : List Byte)
  | frame (f : Frame) (wire : Wire)
  | ackFrame (header : Frame) (info : AckInfo) (wire : Wire)
  | redfish (http : Nat) (data : List Byte)
  | spdm (path : SpdmPath) (code : Nat) (items : List (Nat × List Byte)) (extra : List Byte)
  | spdmNotReady (path : SpdmPath) (rdtExponent : Nat)
  | wakePin (asserted : Bool)
  | linkState (up : Bool)
deriving DecidableEq, Repr

end Sys2Proof.Machine
end

