-- ==== Sys2Proof/Syntax.lean ====
section
/-! DEFINITION. The commands of the BN2-48: one constructor per row of spec/opcode_table.json, with the operands the
rules give it. -/

namespace Sys2Proof

open Machine

/-- The commands of the block, in the table's order. -/
inductive Instr where
  /-- NOP (R266). -/
  | nop (p : Pkt)
  /-- FENCE (R265). -/
  | fence (p : Pkt)
  /-- FENCE_COMPLETE (R265). -/
  | fenceComplete (fn : Nat) (ring : Nat)
  /-- QUERY (R268). -/
  | query (p : Pkt)
  /-- SPAN_CREATE (R285). -/
  | spanCreate (p : Pkt)
  /-- SPAN_RESIZE (R288). -/
  | spanResize (p : Pkt)
  /-- SPAN_FREEZE (R298). -/
  | spanFreeze (p : Pkt)
  /-- SPAN_THAW (R298). -/
  | spanThaw (p : Pkt)
  /-- FREEZE_COMPLETE (R298). -/
  | freezeComplete (span : Nat)
  /-- SPAN_SAVE (R299). -/
  | spanSave (p : Pkt)
  /-- SPAN_RESTORE (R302). -/
  | spanRestore (p : Pkt)
  /-- SPAN_DESTROY (R297). -/
  | spanDestroy (p : Pkt)
  /-- SPAN_QOS (R290). -/
  | spanQos (p : Pkt)
  /-- MAP (R33). -/
  | map (p : Pkt)
  /-- UNMAP (R35). -/
  | unmap (p : Pkt)
  /-- UNMAP_COMPLETE (R35). -/
  | unmapComplete (cmd : Nat)
  /-- PREFETCH_PLAN (R438). -/
  | prefetchPlan (p : Pkt)
  /-- PIN (R437). -/
  | pin (p : Pkt)
  /-- MIGRATE (R58). -/
  | migrate (p : Pkt)
  /-- DECK_LOAD (R205). -/
  | deckLoad (p : Pkt)
  /-- DECK_LOAD_COMPLETE (R208). -/
  | deckLoadComplete (image : Nat) (stream : TileStream)
  /-- DECK_SWITCH (R218). -/
  | deckSwitch (p : Pkt)
  /-- DECK_SWITCH_EFFECT (R218). -/
  | deckSwitchEffect (span : Nat) (slot : Nat)
  /-- DECK_RETIRE (R219). -/
  | deckRetire (p : Pkt)
  /-- GENERATION_RELEASE (R217). -/
  | generationRelease (span : Nat) (slot : Nat)
  /-- DECK_TILE_REFETCH_DONE (R220). -/
  | deckTileRefetchDone (image : Nat) (tile : Nat) (data : Option (Tile × BitVec 512))
  /-- ADAPTER_LOAD (R222). -/
  | adapterLoad (p : Pkt)
  /-- ADAPTER_LOAD_COMPLETE (R222). -/
  | adapterLoadComplete (handle : Nat) (stream : TileStream)
  /-- ADAPTER_EVICT (R227). -/
  | adapterEvict (p : Pkt)
  /-- ADAPTER_REMOVE (R227). -/
  | adapterRemove (handle : Nat)
  /-- ADAPTER_CONTRACT (R225). -/
  | adapterContract (p : Pkt)
  /-- ADAPTER_RELOAD_DONE (R226). -/
  | adapterReloadDone (handle : Nat) (stream : TileStream)
  /-- GRACE_EXPIRY (R228). -/
  | graceExpiry (span : Nat) (reqId : Nat)
  /-- PROGRAM_LOAD (R29). -/
  | programLoad (p : Pkt)
  /-- PROGRAM_UNLOAD (R234). -/
  | programUnload (p : Pkt)
  /-- STEP_SUBMIT (R267). -/
  | stepSubmit (p : Pkt)
  /-- STEP_CANCEL (R439). -/
  | stepCancel (p : Pkt)
  /-- TABLE_CREATE (R180). -/
  | tableCreate (p : Pkt)
  /-- HOTSET_REFRESH (R196). -/
  | hotsetRefresh (p : Pkt)
  /-- ROW_MIGRATE (R198). -/
  | rowMigrate (p : Pkt)
  /-- ROW_MIGRATE_COPY (R198). -/
  | rowMigrateCopy (span : Nat) (table : Nat)
  /-- ROW_MIGRATE_RELEASE (R198). -/
  | rowMigrateRelease (span : Nat) (table : Nat)
  /-- SECURE_POLICY (R350). -/
  | securePolicy (p : Pkt)
  /-- SECURE_NOW (R357). -/
  | secureNow (p : Pkt)
  /-- RESTORE (R363). -/
  | restore (p : Pkt)
  /-- RANK_ADOPT (R364). -/
  | rankAdopt (p : Pkt)
  /-- RESHARD (R365). -/
  | reshard (p : Pkt)
  /-- LOADTEST_PACK (R344). -/
  | loadtestPack (p : Pkt)
  /-- LOADTEST_RUN (R345). -/
  | loadtestRun (p : Pkt)
  /-- KAT_RUN (R347). -/
  | katRun (p : Pkt)
  /-- HEALTH_QUERY (R416). -/
  | healthQuery (p : Pkt)
  /-- KEY_INSTALL (R399). -/
  | keyInstall (p : Pkt)
  /-- KEY_REVOKE (R296). -/
  | keyRevoke (p : Pkt)
  /-- KEY_ZEROISE (R296). -/
  | keyZeroise (slot : Nat)
  /-- ATTEST (R395). -/
  | attest (p : Pkt)
  /-- FW_STAGE (R392). -/
  | fwStage (p : Pkt)
  /-- FW_ACTIVATE (R393). -/
  | fwActivate (p : Pkt)
  /-- FW_ACTIVATE_WINDOW (R393). -/
  | fwActivateWindow
  /-- FW_SWITCH (R393). -/
  | fwSwitch
  /-- FW_ACTIVATE_TIMEOUT (R393). -/
  | fwActivateTimeout
  /-- HALT_SPAN (R272). -/
  | haltSpan (m : MboxCmd)
  /-- HALT_SPAN_RESUME (R272). -/
  | haltSpanResume (m : MboxCmd)
  /-- ABORT_STEP (R28). -/
  | abortStep (m : MboxCmd)
  /-- STOP_TRAFFIC (R275). -/
  | stopTraffic (m : MboxCmd)
  /-- STOP_TRAFFIC_RESUME (R272). -/
  | stopTrafficResume (m : MboxCmd)
  /-- RESET_SPAN (R293). -/
  | resetSpan (m : MboxCmd)
  /-- FUNCTION_LEVEL_RESET (R293). -/
  | functionLevelReset (fn : Nat)
  /-- SPAN_RESET_DRAIN_END (R293). -/
  | spanResetDrainEnd (span : Nat)
  /-- VF_REMOVE (R283). -/
  | vfRemove (numVfs : Nat) (enable : Bool)
  /-- SQ_TAIL (R254). -/
  | sqTail (fn : Nat) (ring : Nat) (value : Word)
  /-- CQ_HEAD (R256). -/
  | cqHead (fn : Nat) (ring : Nat) (value : Word)
  /-- RING_ENABLE (R253). -/
  | ringEnable (fn : Nat) (ring : Nat) (value : Word)
  /-- RING_DISABLE (R253). -/
  | ringDisable (fn : Nat) (ring : Nat)
  /-- RING_DISABLED (R253). -/
  | ringDisabled (fn : Nat) (ring : Nat)
  /-- CNT_LO_READ (R89). -/
  | cntLoRead (fn : Nat) (off : Nat)
  /-- CNT_FMT_CTL_WRITE (R89). -/
  | cntFmtCtlWrite (fn : Nat) (value : Word)
  /-- TRC_EV_SEL (R410). -/
  | trcEvSel (fn : Nat) (seq : Word)
  /-- EVENT_RECORD_LATCHED (R410). -/
  | eventRecordLatched (fn : Nat)
  /-- TRC_EV_CLEAR_RING (R411). -/
  | trcEvClearRing (fn : Nat)
  /-- TRC_EV_CLEAR_FLASH (R411). -/
  | trcEvClearFlash (fn : Nat)
  /-- TRACE_ENABLE (R413). -/
  | traceEnable (fn : Nat) (value : Word)
  /-- TRACE_DISABLE (R414). -/
  | traceDisable (fn : Nat)
  /-- RANK_TABLE_COMMIT (R309). -/
  | rankTableCommit (fn : Nat) (value : Word)
  /-- STANDBY_REQUEST (R384). -/
  | standbyRequest (fn : Nat) (value : Word)
  /-- STANDBY_ENTRY (R384). -/
  | standbyEntry
  /-- STANDBY_EXIT (R384). -/
  | standbyExit
  /-- THERMAL_STANDBY_EXIT (R375). -/
  | thermalStandbyExit (hottest : Int)
  /-- REGISTER_WRITE (R8). -/
  | registerWrite (fn : Nat) (off : Nat) (value : Word)
  /-- BAR4_READ (R45). -/
  | bar4Read (fn : Nat) (off : Nat) (len : Nat)
  /-- BAR4_WRITE (R45). -/
  | bar4Write (fn : Nat) (off : Nat) (data : List Byte)
  /-- MATMUL (R110). -/
  | matmul (at_ : CtxRef) (upsets : List Upset)
  /-- ADAPTER (R127). -/
  | adapter (at_ : CtxRef) (upsets : List Upset)
  /-- VECTOR (R137). -/
  | vector (at_ : CtxRef)
  /-- GATHER_GEMV (R150). -/
  | gatherGemv (at_ : CtxRef)
  /-- UPDATE (R151). -/
  | update (at_ : CtxRef)
  /-- ATTN_FWD (R165). -/
  | attnFwd (at_ : CtxRef) (upsets : List Upset)
  /-- ATTN_BWD (R167). -/
  | attnBwd (at_ : CtxRef) (upsets : List Upset)
  /-- KV_APPEND (R170). -/
  | kvAppend (at_ : CtxRef)
  /-- EMB_LOOKUP (R184). -/
  | embLookup (at_ : LookRef)
  /-- EMB_GRAD (R186). -/
  | embGrad (at_ : CtxRef)
  /-- PUT (R317). -/
  | put (at_ : CtxRef)
  /-- GET (R317). -/
  | get (at_ : CtxRef)
  /-- RSCAT (R318). -/
  | rscat (at_ : CtxRef)
  /-- AGATH (R318). -/
  | agath (at_ : CtxRef)
  /-- DESCRIPTOR_COMPLETE (R19). -/
  | descriptorComplete (at_ : CtxRef) (dseq : Nat)
  /-- TILE_FETCH_COMPLETE (R41); the generation tag of a DECK tile (R203). -/
  | tileFetchComplete (core : Nat) (addr : Nat) (gen : Option Nat) (outcome : FetchOutcome)
  /-- PREFETCH (R52). -/
  | prefetch (step : Nat) (layer : Nat)
  /-- PIER_BARRIER_RELEASE (R51). -/
  | pierBarrierRelease (step : Nat) (pier : Nat) (tasks : List Nat)
  /-- STEP_DEADLOCK_TIMEOUT (R21); the contexts that wait at a pier barrier: task, context, barrier. -/
  | stepDeadlockTimeout (step : StuckStep)
  /-- RUN_AHEAD_STAGE (R246). -/
  | runAheadStage (span : Nat) (ring : Nat)
  /-- STEP_ADMIT (R235). -/
  | stepAdmit (span : Nat) (ring : Nat)
  /-- TASK_PLACE_DEFERRED (R237). -/
  | taskPlaceDeferred (step : Nat) (task : Nat)
  /-- COMPUTE_PHASE_END (R24). -/
  | computePhaseEnd (step : Nat)
  /-- STEP_COMMIT (R24). -/
  | stepCommit (step : Nat)
  /-- CLUSTER_SLEEP (R239). -/
  | clusterSleep (cluster : Nat)
  /-- CLUSTER_WAKE_DONE (R239). -/
  | clusterWakeDone (cluster : Nat)
  /-- DIE_SLEEP (R383). -/
  | dieSleep (die : Nat)
  /-- MIGRATION_SAMPLE_WINDOW (R58). -/
  | migrationSampleWindow (occupancy : List (Nat × Nat)) (span : Nat) (page : Nat)
  /-- PAGE_MIGRATION_FLIP (R58). -/
  | pageMigrationFlip (span : Nat) (page : CopiedPage)
  /-- OLD_HOME_RELEASE (R58). -/
  | oldHomeRelease (span : Nat) (page : Nat)
  /-- PATROL_SCRUB (R57). -/
  | patrolScrub (channel : Nat) (frame : Nat) (tile : Nat) (correctable : Bool)
  /-- HBM_RETRAIN (R59). -/
  | hbmRetrain (channel : Nat) (low : Bool) (ends : RetrainEnd)
  /-- PAGE_SCRUB_DONE (R297). -/
  | pageScrubDone (frame : Nat)
  /-- BUCKET_LEAK (R332). -/
  | bucketLeak (cls : BktClass) (inst : Nat)
  /-- BUCKET_LEVEL_SAVE (R333). -/
  | bucketLevelSave
  /-- SCRATCHPAD_PARITY_ERROR (R328). -/
  | scratchpadParityError (core : Nat) (site : ParitySite) (bank : Nat) (row : Nat)
  /-- CONTROL_PARITY_ERROR (R329). -/
  | controlParityError (core : Nat)
  /-- SHARED_STATE_ERROR (R330). -/
  | sharedStateError (die : Nat) (iodie : Bool)
  /-- DIE_RESET_DONE (R382). -/
  | dieResetDone (die : Nat)
  /-- QUARANTINE_TEST (R334). -/
  | quarantineTest (core : Nat)
  /-- CORE_RETIRE (R335). -/
  | coreRetire (core : Nat)
  /-- CORE_MOVE (R288). -/
  | coreMove (core : Nat)
  /-- LOADTEST_AUTO (R346). -/
  | loadtestAuto (cluster : Bool) (unit : Nat)
  /-- CRYPTO_SELF_TEST (R327). -/
  | cryptoSelfTest (engine : Nat) (pass : Bool)
  /-- PLL_LOCK_LOSS (R341). -/
  | pllLockLoss (cluster : Nat) (fault : PllFault)
  /-- POWER_PHASE_TRIP (R342). -/
  | powerPhaseTrip (phase : Nat) (shorted : Bool)
  /-- DROOP_DETECT (R372). -/
  | droopDetect (cluster : Nat)
  /-- RAIL_EXCURSION (R371). -/
  | railExcursion (rail : Nat) (die : Nat)
  /-- POWER_GOVERNOR_TICK (R373). -/
  | powerGovernorTick (watts : Nat) (volts : Nat) (busiest : List Nat) (hotDies : List (Nat × Int)) (overDies : List (Nat × Nat))
  /-- THERMAL_TRIP (R375). -/
  | thermalTrip
  /-- THERMAL_COOLDOWN (R375). -/
  | thermalCooldown (hottest : Int)
  /-- SUPPLY_VALID (R366). -/
  | supplyValid (main : Bool)
  /-- AUX_LOSS (R366). -/
  | auxLoss
  /-- MAIN_POWER_FAIL (R368). -/
  | mainPowerFail
  /-- OVER_VOLTAGE_TRIP (R367). -/
  | overVoltageTrip
  /-- MAIN_RETURN (R367). -/
  | mainReturn
  /-- BOOT_ROM_VERIFY (R388). -/
  | bootRomVerify
  /-- DIE_POWER_UP (R376). -/
  | diePowerUp
  /-- TRESTLE_START (R376). -/
  | trestleStart
  /-- STACK_TRAIN_DONE (R378). -/
  | stackTrainDone (stack : Nat) (ok : Bool)
  /-- PORT_JOIN (R378). -/
  | portJoin (port : Nat)
  /-- FULL_SERVICE (R379). -/
  | fullService
  /-- PERST_ASSERT (R377). -/
  | perstAssert
  /-- PERST_RELEASE (R376). -/
  | perstRelease
  /-- PCIE_HOT_RESET (R380). -/
  | pcieHotReset
  /-- DATA_LINK_DOWN (R380). -/
  | dataLinkDown
  /-- INT_MOD_TIMER (R276). -/
  | intModTimer (fn : Nat) (ring : Nat)
  /-- PUT_FRAME (R317). -/
  | putFrame (f : Arrival)
  /-- GET_REQ (R317). -/
  | getReq (f : GetRequest)
  /-- GET_RESP (R317). -/
  | getResp (f : Arrival)
  /-- ROW_REC (R191). -/
  | rowRec (f : Arrival)
  /-- COLL (R318). -/
  | coll (f : Arrival)
  /-- PARITY_DELTA (R359). -/
  | parityDelta (f : Arrival) (row : Nat)
  /-- ACK (R312). -/
  | ack (f : Arrival) (info : AckInfo)
  /-- NACK (R317). -/
  | nack (f : Arrival) (reason : Nat)
  /-- CLOSE (R188). -/
  | close (f : Arrival)
  /-- VOID (R188). -/
  | void (f : Arrival)
  /-- ACCEPT (R188). -/
  | accept (f : Arrival)
  /-- EPOCH_CLOSE (R188). -/
  | epochClose (span : Nat) (table : Nat)
  /-- EPOCH_APPLY_DONE (R194). -/
  | epochApplyDone (span : Nat) (table : Nat)
  /-- LOOKUP_SERVE (R189). -/
  | lookupServe (span : Nat) (table : Nat) (look : ServedLook)
  /-- EMB_BARRIER_TIMEOUT (R190). -/
  | embBarrierTimeout (span : Nat) (table : Nat)
  /-- DIR_UPDATE (R197). -/
  | dirUpdate (f : Arrival)
  /-- REDIRECT (R198). -/
  | redirect (f : Arrival)
  /-- FLOW_RESET (R321). -/
  | flowReset (f : Arrival)
  /-- RANK_MOVED (R310). -/
  | rankMoved (f : Arrival)
  /-- RETX_TIMER (R313). -/
  | retxTimer (flow : Nat) (psn : Nat)
  /-- ACK_TIMER (R312). -/
  | ackTimer (rank : Nat) (flow : Nat)
  /-- CC_INCREASE (R315). -/
  | ccIncrease (flow : Nat)
  /-- FLOW_UNREACHABLE (R314). -/
  | flowUnreachable (flow : Nat)
  /-- FLOW_IDLE_CLOSE (R311). -/
  | flowIdleClose (flow : Nat)
  /-- PORT_LINK_LOSS (R323). -/
  | portLinkLoss (port : Nat) (attemptsFailed : Nat)
  /-- PORT_STATUS_UPDATE (R322). -/
  | portStatusUpdate (status : List (Nat × Nat))
  /-- SECURE_CAPTURE (R357). -/
  | secureCapture (span : Nat) (pauseUs : Nat)
  /-- SECURE_SEAL (R357). -/
  | secureSeal (span : Nat)
  /-- DRAIN_WRITE (R360). -/
  | drainWrite (span : Nat) (consumed : Nat)
  /-- HEALTH_REFRESH (R416). -/
  | healthRefresh (sensors : Sensors)
  /-- EVENT_FLUSH (R409). -/
  | eventFlush
  /-- MGMT_ENROL_ANCHOR (R401). -/
  | mgmtEnrolAnchor (anchor : List Byte)
  /-- MGMT_READ (R402). -/
  | mgmtRead (client : Nat) (what : Nat)
  /-- MGMT_DEBUG_READ (R403). -/
  | mgmtDebugRead (client : Nat) (what : Nat) (a : Nat) (b : Nat) (len : Nat)
  /-- MGMT_MODULE_RESET (R380). -/
  | mgmtModuleReset (client : Nat)
  /-- MGMT_LOADTEST_RUN (R402). -/
  | mgmtLoadtestRun (client : Nat) (scope : Nat) (unit : Nat)
  /-- MGMT_TRACE_CONFIG (R402). -/
  | mgmtTraceConfig (client : Nat) (span : Nat) (base : Nat) (pages : Nat) (value : Word)
  /-- MGMT_FW_UPLOAD (R402). -/
  | mgmtFwUpload (client : Nat) (image : List Byte)
  /-- MGMT_FW_ACTIVATE (R393). -/
  | mgmtFwActivate (client : Nat)
  /-- MGMT_SVN_COMMIT (R391). -/
  | mgmtSvnCommit (client : Nat)
  /-- MGMT_COSIGN_ENROL (R390). -/
  | mgmtCosignEnrol (client : Nat) (key : List Byte)
  /-- MGMT_PART_RETURN (R333). -/
  | mgmtPartReturn (client : Nat) (cls : BktClass) (inst : Nat)
  /-- MGMT_PACK_UPLOAD (R402). -/
  | mgmtPackUpload (client : Nat) (pack : List Byte)
  /-- MGMT_CREDENTIALS (R402). -/
  | mgmtCredentials (client : Nat) (anchors : List (List Byte)) (roles : List (Nat × Role))
  /-- MGMT_EVENT_CLEAR (R411). -/
  | mgmtEventClear (client : Nat) (ring : Bool) (flash : Bool)
  /-- MGMT_DISABLE_MCTP (R400). -/
  | mgmtDisableMctp (client : Nat) (disable : Bool)
  /-- MGMT_DISABLE_WINDOW (R44). -/
  | mgmtDisableWindow (client : Nat) (disable : Bool)
  /-- GET_VERSION (R395). -/
  | getVersion (path : SpdmPath) (request : List Byte)
  /-- GET_CAPABILITIES (R395). -/
  | getCapabilities (path : SpdmPath) (request : List Byte)
  /-- NEGOTIATE_ALGORITHMS (R395). -/
  | negotiateAlgorithms (path : SpdmPath) (request : List Byte)
  /-- GET_DIGESTS (R395). -/
  | getDigests (path : SpdmPath) (request : List Byte)
  /-- GET_CERTIFICATE (R395). -/
  | getCertificate (path : SpdmPath) (request : List Byte)
  /-- CHALLENGE (R395). -/
  | challenge (path : SpdmPath) (request : List Byte)
  /-- GET_MEASUREMENTS (R397). -/
  | getMeasurements (path : SpdmPath) (request : List Byte) (indices : List Nat)
  /-- HOLD_UP_EXPIRY (R368). -/
  | holdUpExpiry
  /-- PCIE_LINK_UP (R376). -/
  | pcieLinkUp
  /-- VF_ENABLE (R282). -/
  | vfEnable (numVfs : Nat) (enable : Bool)
  /-- FW_STAGE_DONE (R392). -/
  | fwStageDone
  /-- LOADTEST_RUN_DONE (R345). -/
  | loadtestRunDone (results : List (Nat × Option Nat)) (pllFault : Bool)
  /-- SPAN_SAVE_DONE (R299). -/
  | spanSaveDone (span : Nat)
  /-- SPAN_RESTORE_DONE (R302). -/
  | spanRestoreDone (span : Nat) (records : List SaveRec)
  /-- RESTORE_DONE (R363). -/
  | restoreDone (span : Nat) (records : List DrainRec) (unreachable : List Nat)
  /-- SEGMENT_RECONSTRUCT (R363). -/
  | segmentReconstruct (f : Arrival) (row : Nat)
  /-- ADAPTIVE_VOLTAGE_STEP (R371). -/
  | adaptiveVoltageStep (slower : List Nat) (faster : List Nat)
  /-- MAILBOX_WRITE (R271). -/
  | mailboxWrite (fn : Nat) (slot : Nat) (off : Nat) (data : List Byte)
  /-- UNKNOWN_OPCODE_PACKET (R259). -/
  | unknownOpcodePacket (p : Pkt) (opcode : BitVec 16)
  /-- MSIX_VECTOR_UNMASK (R276). -/
  | msixVectorUnmask (fn : Nat) (vector : Nat)
deriving DecidableEq, Repr

end Sys2Proof
end

