-- ==== Sys2Proof/Decode.lean ====
section
/-! DEFINITION. Words of the table, and the command that a ring packet's OPCODE names. The table gives no row any bits: a command is not
an encoded word but an event on the block's interfaces, so no word spells one; packets that host software writes into a ring are 64
bytes (R257). -/

namespace Sys2Proof

/-- The command that a word spells by the table's bits: none, since no row gives bits. -/
def decodeTableWord (_nbits _w : Nat) : Option Instr := none

namespace Machine

/-- The header and the parameters of a ring packet of 64 bytes (R257), with the host buffer or parameter block that it points to (R260). -/
def Pkt.ofBytes (fn ring : Nat) (b block : List Byte) : Pkt :=
  { fn := fn, ring := ring, flags := BitVec.ofNat 16 (rd b 2 2), span := BitVec.ofNat 8 (rd b 4 1), seq := BitVec.ofNat 24 (rd b 5 3),
    tag := BitVec.ofNat 32 (rd b 8 4), body := (b.drop 12).take 52, block := block }

end Machine

/-- The command of a ring packet, by its OPCODE [15:0] (R257, R259, R266). OPFLAGS bit 8 of SPAN_FREEZE is THAW. -/
def ringCommand (fn ring : Nat) (b block : List Byte) : Instr :=
  let p := Machine.Pkt.ofBytes fn ring b block
  match Machine.rd b 0 2 with
  | 0x0000 => .nop p
  | 0x0001 => .fence p
  | 0x0002 => .query p
  | 0x0100 => .spanCreate p
  | 0x0101 => .spanResize p
  | 0x0102 => if p.opflag8 then .spanThaw p else .spanFreeze p
  | 0x0103 => .spanSave p
  | 0x0104 => .spanRestore p
  | 0x0105 => .spanDestroy p
  | 0x0106 => .spanQos p
  | 0x0200 => .map p
  | 0x0201 => .unmap p
  | 0x0202 => .prefetchPlan p
  | 0x0203 => .pin p
  | 0x0204 => .migrate p
  | 0x0300 => .deckLoad p
  | 0x0301 => .deckSwitch p
  | 0x0302 => .deckRetire p
  | 0x0310 => .adapterLoad p
  | 0x0311 => .adapterEvict p
  | 0x0312 => .adapterContract p
  | 0x0400 => .programLoad p
  | 0x0401 => .stepSubmit p
  | 0x0402 => .stepCancel p
  | 0x0403 => .programUnload p
  | 0x0500 => .tableCreate p
  | 0x0501 => .hotsetRefresh p
  | 0x0502 => .rowMigrate p
  | 0x0600 => .securePolicy p
  | 0x0601 => .secureNow p
  | 0x0602 => .restore p
  | 0x0603 => .rankAdopt p
  | 0x0604 => .reshard p
  | 0x0700 => .loadtestPack p
  | 0x0701 => .loadtestRun p
  | 0x0702 => .katRun p
  | 0x0703 => .healthQuery p
  | 0x0800 => .keyInstall p
  | 0x0801 => .keyRevoke p
  | 0x0802 => .attest p
  | 0x0810 => .fwStage p
  | 0x0811 => .fwActivate p
  | op => .unknownOpcodePacket p (BitVec.ofNat 16 op)

end Sys2Proof
end

