-- ==== Sys2Proof/Machine/State.lean ====
section
/-! DEFINITION. The state of the BN2-48, whole: plain data, grouped by chapter. Numbered arrays are sparse maps with the
default named beside them (what an unlisted index holds is what it holds at reset). -/

namespace Sys2Proof.Machine

open Sys2Proof

/-! ### Command interface (chapter 11) -/

/-- The moving part of a command ring (R253 to R256, R279). Its bases and RING_CFG fields stand in `Dev.regs`. -/
structure Ring where
  /-- EN, 1 bit (R253, R279); reset 0. -/
  en : Bool := false
  /-- STATE STOPPING (R253, R279); reset no. -/
  stopping : Bool := false
  /-- BADBELL, 6 bits (R254, R279); reset 0. -/
  badBell : Nat := 0
  /-- NEXT_SEQ, 24 bits (R259, R279); reset 0. -/
  nextSeq : Nat := 0
  /-- RING_SQ_HEAD, 16 bits (R279); reset 0. -/
  sqHead : Nat := 0
  /-- Index of the last SQ_TAIL, 16 bits (R254); reset 0. -/
  sqTail : Nat := 0
  /-- RING_CQ_TAIL [15:0] (R256, R279); reset 0. -/
  cqTail : Nat := 0
  /-- RING_CQ_TAIL bit 16, PHASE (R256, R279); reset 1. -/
  cqPhase : Bool := true
  /-- Index up to which the host has returned completion entries (R254); reset 0. -/
  cqHead : Nat := 0
  /-- Completion entries written and not returned (R256); reset 0. -/
  cqUsed : Nat := 0
  /-- Replies held while the completion ring is full (R256), oldest first, each with IRQ_NOW and, where it is a command's final
  reply, that command's number; reset none. -/
  held : List (Reply × Bool × Option Nat) := []
  /-- Replies not yet signalled (R276); reset 0. -/
  unsig : Nat := 0
  /-- The FENCE this ring waits for, by command number (R265); reset none. -/
  fence : Option Nat := none
deriving DecidableEq, Repr

/-- A parapet mailbox slot (R271): its 64 bytes, and the parapet job that keeps it busy. -/
structure Mbox where
  /-- 64 bytes (R271, R280); WO, no reset value: DESIGN CHOICE zero. -/
  bytes : List Byte := List.replicate 64 0#8
  /-- PAR_STATUS [3:0], slot busy (R280); reset 0. -/
  busy : Option Nat := none
deriving DecidableEq, Repr

/-- Parapet status of a function (R273, R280). -/
structure Par where
  /-- PAR_STATUS DROPS, 8 bits (R280); reset 0. -/
  drops : Nat := 0
  /-- PAR_LAST_TAG, 32 bits (R280); reset 0. -/
  lastTag : Word := 0#32
  /-- Span the last accepted command named, behind PAR_STATUS [17:16] (R280); reset the function's own. -/
  target : Option Nat := none
  /-- PAR_REPLY_TAIL [3:0] (R280); reset 0. -/
  tail : Nat := 0
  /-- PAR_REPLY_TAIL bit 4, PHASE (R280); reset 1. -/
  phase : Bool := true
deriving DecidableEq, Repr

/-- An accepted parapet command that has not had its final reply (R273). -/
structure ParJob where
  id : Nat
  fn : Nat
  slot : Nat
  op : Nat
  tag : Word
  seq : Nat
  target : Nat
  count : Nat
  /-- The packet, while its effect waits for the end of standby or of an activation window (R384, R393). -/
  later : List Byte
deriving DecidableEq, Repr

/-- A command read from a ring that has not had its final reply (R264, R265). `holds` marks an immediate command that waits for its
effect: its ring is not read meanwhile (R264). -/
structure Cmd where
  id : Nat
  fn : Nat
  ring : Nat
  seq : Nat
  tag : Word
  irq : Bool
  op : Nat
  holds : Bool := false
deriving DecidableEq, Repr

/-- The command interface. -/
structure CmdSys where
  /-- 1,024 rings, key 16 * fn + ring (R252, R279); default `Ring` at reset. -/
  rings : List (Nat × Ring)
  /-- 4 mailbox slots a function, key 4 * fn + slot (R271). -/
  mboxes : List (Nat × Mbox)
  /-- Parapet status, key fn (R280). -/
  pars : List (Nat × Par)
  /-- Parapet commands in progress (R273); reset none. -/
  parJobs : List ParJob
  /-- Commands in progress, oldest first (R264); reset none. -/
  cmds : List Cmd
  /-- INT_PBA: pending bits, numbers 64 * fn + vector, rising (R276, R281); reset none. -/
  pba : List Nat
  /-- Number of the next command or step (the model's own counter, log entry 7); reset 0. -/
  nextId : Nat
  /-- What has gone out, newest first (the model's own, log entry 8); reset none. -/
  outbox : List Out
deriving DecidableEq, Repr

/-! ### Spans (chapter 12) -/

/-- Span states (R284). -/
inductive SpanMode where
  | absent | active | frozen | restoring | resetting | destroying
deriving DecidableEq, Repr

/-- STATE field of SPN_STATE (R304). -/
def SpanMode.code : SpanMode → Nat
  | .absent => 0 | .active => 1 | .frozen => 2 | .restoring => 3 | .resetting => 4 | .destroying => 5

/-- A pending SPAN_CREATE or SPAN_RESIZE (R289). -/
structure Resize where
  cmd : Nat
  create : Bool
  /-- Moves still waiting: logical core, receiving span (R288). -/
  cores : List (Nat × Nat)
  /-- The quota a decrease waits for (R288). -/
  pages : Option Nat
deriving DecidableEq, Repr

/-- Where a span reset or destruction stands (R293, R297). -/
inductive ResetStage where
  | keysFirst | draining | keysLast
deriving DecidableEq, Repr

/-- A span reset or destruction in progress (R293, R297). -/
structure ResetJob where
  stage : ResetStage
  destroy : Bool
  vfRemoved : Bool
  flr : Bool
  cmds : List Nat
  pars : List Nat
  againDestroy : List Nat
deriving DecidableEq, Repr

/-- A save in progress (R299, R300). -/
structure Save where
  pass : Nat
  unit : Nat
  records : Nat
  dirty : List Nat
  job : Option (Nat × Nat × Nat × Nat × Bool)
deriving DecidableEq, Repr

/-- A restore in progress by SPAN_RESTORE (R302), with the records and the data units of 4,096 bytes read so far. -/
structure RestoreJob where
  cmd : Option Nat
  hostAddr : Nat
  key : Nat
  records : Nat
  unit : Nat
  pages : List (Nat × List Host.Cell)
  stateRec : Option StateRec
deriving DecidableEq, Repr

/-- A restore by RESTORE or RANK_ADOPT in progress (R363, R364). -/
structure RestoreRun where
  cmd : Nat
  image : Bool
  table : Nat
  srcRank : Nat
  point : Nat
  ranks : List Nat
  key : Nat := 4096
  /-- Drained log in host memory (R362): address, 0 for none, and bytes. -/
  hostAddr : Nat := 0
  length : Nat := 0
deriving DecidableEq, Repr

/-- A span (R284 to R289, R294, R304). -/
structure Span where
  /-- SPN_STATE STATE, 3 bits (R284, R304); reset ACTIVE for span 0, ABSENT for the others. -/
  mode : SpanMode := .absent
  /-- KEY_BASE, 12 bits (R285); reset 0. -/
  keyBase : Nat := 0
  /-- KEY_COUNT, 13 bits (R285); reset 0 (span 0 holds what no VF holds, R287). -/
  keyCount : Nat := 0
  /-- VECTORS, 7 bits (R285); reset 64 in the PF. -/
  vectors : Nat := 0
  /-- DRAIN_MS, 7 bits (R285, R287); reset 20 in the PF. -/
  drainMs : Nat := 0
  /-- HBM_PAGES of a VF span, 18 bits (R285); reset 0. -/
  hbmPages : Nat := 0
  /-- SPAD_SLOTS, 12 bits (R285, R287); reset 2,880 in the PF. -/
  spadSlots : Nat := 0
  /-- W_HBM, 8 bits (R285, R290); reset 16 (R287, SPN_QOS of R304). -/
  wHbm : Nat := 16
  /-- W_VDT, 8 bits; reset 16. -/
  wVdt : Nat := 16
  /-- W_PCIE, 8 bits; reset 16. -/
  wPcie : Nat := 16
  /-- W_SCHED, 8 bits; reset 16. -/
  wSched : Nat := 16
  /-- SEED_INIT, 64 bits (R285); reset 0. -/
  seedInit : DWord := 0#64
  /-- Seed counter, 64 bits (R101); reset 0. -/
  seed : DWord := 0#64
  /-- Intake and admission stopped by the parapet lane (R272); reset no. -/
  halted : Bool := false
  /-- STOP_TRAFFIC WHAT bit 0, host-memory transfers (R272); reset no. -/
  stopHost : Bool := false
  /-- STOP_TRAFFIC WHAT bit 1, Viaduct egress (R272); reset no. -/
  stopVdt : Bool := false
  /-- SPAN_FREEZE accepted and not complete, by command number (R298); reset none. -/
  freezing : Option Nat := none
  /-- Pending create or resize (R289; CORE_WAIT, HBM_WAIT of SPN_STATE); reset none. -/
  resize : Option Resize := none
  /-- Reset or destruction in progress (R293, R297); reset none. -/
  reset : Option ResetJob := none
  /-- Save in progress and SPN_DIRTY (R299); reset none. -/
  save : Option Save := none
  /-- SPAN_RESTORE in progress (R302); reset none. -/
  restore : Option RestoreJob := none
  /-- RESTORE or RANK_ADOPT in progress (R363); reset none. -/
  run : Option RestoreRun := none
  /-- Channel after which the next SPREAD MAP starts (R56); reset none yet. -/
  lastChan : Option Nat := none
  /-- Stamps in ns of the last 65 counted commits (R353); reset none. -/
  gaps : List Nat := []
  /-- Has a span reset lost the log of a member of a parity group (R361); reset no. -/
  parityLost : Bool := false
  /-- SPN_WIN_DROPS, 32 bits (R45, R304); reset 0. -/
  winDrops : Nat := 0
deriving DecidableEq, Repr

/-- What span n is at reset (R287, R304). -/
def Span.atReset (n : Nat) : Span :=
  if n = 0 then { mode := .active, vectors := 64, drainMs := 20, spadSlots := 2880 } else {}

/-- Spans and functions. -/
structure SpanSys where
  /-- NumVFs of the SR-IOV capability, 0 to 63 (R282); the manual gives no reset value: DESIGN CHOICE 0. -/
  numVfs : Nat
  /-- VF Enable (R282); the manual gives no reset value: DESIGN CHOICE 0. -/
  vfEnable : Bool
  /-- 64 spans, key n; default `Span.atReset`. -/
  spans : List (Nat × Span)
  /-- Span that each logical core belongs to, key 0 to 127 (R15, R285 CORE_MASK); default span 0 (R287). -/
  owner : List (Nat × Nat)
deriving DecidableEq, Repr

/-! ### HBM (chapter 02) -/

/-- What a page frame is used for before anything has happened to it: visible pages wait for their scrub (R381), the last
32 pages of each channel are the spare pool (R56). -/
def frameAtReset (frame : Nat) : FrameUse := if frame % 768 < 736 then .scrubWait else .spare

/-- A channel at reset (R64, R56). -/
def Chan.atReset : Chan := { state := .inService, low := false, ppr := 0, pool := 32, highWindows := 0 }

/-- An UNMAP that waits for earlier steps (R35). -/
structure UnmapJob where
  cmd : Nat
  span : Nat
  pages : List (Nat × Nat)
  steps : List Nat
deriving DecidableEq, Repr

/-- The memory system, but for the bytes themselves. -/
structure HbmSys where
  /-- Page tables, key span * 2^27 + virtual page (R32, R33); default unmapped. -/
  pages : List (Nat × Option PageEnt)
  /-- Use of each page frame, key channel * 768 + page (R56, R60, R297); default `frameAtReset`. -/
  frames : List (Nat × FrameUse)
  /-- 256 channels, HBM_CH_STATE (R64); default `Chan.atReset`. -/
  chans : List (Nat × Chan)
  /-- 8 stacks (R378); default training (ID_STATE stacks joined 0 at reset). -/
  stackSt : List (Nat × StackState)
  /-- Pages in migration (R58); reset none. -/
  moves : List PageMove
  /-- Visible pages withdrawn under R61; reset 0. -/
  withdrawn : Nat
  /-- UNMAPs in progress (R35); reset none. -/
  unmaps : List UnmapJob
deriving DecidableEq, Repr

/-! ### Cores, clusters, dies (chapters 01, 14, 16) -/

/-- The physical core behind logical core l at reset: positions 0 to 7 of each cluster (R11). -/
def physAtReset (l : Nat) : Option Nat := if l < 128 then some (36 * (l / 32) + 9 * (l % 32 / 8) + l % 8) else none

/-- A physical core at reset: position 8 is the spare (R11, R335); 32 redundant rows in each of 16 banks (R337). -/
def Phys.atReset (c : Nat) : Phys :=
  { state := if c % 9 = 8 then .spare else .active, rows := List.replicate 16 32, withdrawn := [] }

/-- A cluster (R239, R341, R371 to R373). -/
structure Cluster where
  /-- Cluster sleep (R239); reset awake. -/
  asleep : Bool := false
  /-- A wake has been started (R239); reset no. -/
  waking : Bool := false
  /-- Clock raised to 2.2 GHz after trestle mode (R379); reset 1.2 GHz. -/
  fast : Bool := false
  /-- Clock steps of 68.75 MHz taken off by the governor (R373, R374); reset 0. -/
  lowered : Nat := 0
  /-- Cluster voltage in mV, 600 to 900 (R371); no reset value given: DESIGN CHOICE 750. -/
  millivolts : Nat := 750
  /-- PLL in use, 0 or 1 (R341); no reset value given: DESIGN CHOICE 0. -/
  pll : Nat := 0
  /-- No PLL left: the cluster never wakes (R341); reset no. -/
  dead : Bool := false
deriving DecidableEq, Repr

/-- A compute die (R382, R383, R342). -/
structure Die where
  /-- Die sleep (R383); reset awake. -/
  asleep : Bool := false
  /-- In a die reset (R382); reset no. -/
  resetting : Bool := false
  /-- CLEAN pins to fetch again when the die returns (R382): core, address, pin, generation. -/
  pins : List (Nat × Nat × Pin × Option Nat) := []
  /-- The governor lowers the die's clock for its temperature (R374); reset no. -/
  hot : Bool := false
deriving DecidableEq, Repr

/-- A core under test (R345, R347): what the final reply is owed to. -/
structure TestJob where
  /-- Ring command, if one waits. -/
  cmd : Option Nat
  /-- 0 LOADTEST_RUN core, 1 LOADTEST_RUN cluster, 2 KAT_RUN, 3 automatic, 4 management, 5 quarantine test (R334), 6 a run that waits for
  one (R347). -/
  kind : Nat
  /-- Physical cores under test, ascending; of a KAT_RUN those whose run has not ended. -/
  cores : List Nat
  /-- VERSION of the pack in force when the test began; 0 none (R344). -/
  pack : Nat
  cluster : Option Nat
  /-- Of a KAT_RUN: the cores that have run, in order, with their RESULT (R347). -/
  ran : List (Nat × Nat × Nat) := []
  /-- Of a KAT_RUN: the first core that failed, by its logical number then (R347). -/
  bad : Option Nat := none
  /-- The cluster under test was asleep, and returns to sleep after its test (R346). -/
  slept : Bool := false
deriving DecidableEq, Repr

/-- Cores and their surroundings. -/
structure CoreSys where
  /-- 128 logical cores, key 0 to 127: the tile map with its slots' contents (R46); default empty. -/
  cores : List (Nat × Core)
  /-- 144 physical cores (R334, R335, R337); default `Phys.atReset`. -/
  phys : List (Nat × Phys)
  /-- Logical to physical core, HLT_MAP (R11, R335); default `physAtReset`. -/
  logical : List (Nat × Option Nat)
  /-- 16 clusters (R239, R371); default `Cluster` at reset. -/
  clusters : List (Nat × Cluster)
  /-- 4 dies (R382, R383). -/
  dies : List (Nat × Die)
  /-- Tests in progress (R345 to R347); reset none. -/
  tests : List TestJob
  /-- PINs and HOTSET_REFRESHes with a fetch that waits for a slot (R47, R437); reset none. -/
  pinJobs : List PinJob
  /-- Use stamp for the least-recently-used order of R47 and the waiting order of R17 (the model's counter); reset 0. -/
  clock : Nat
deriving DecidableEq, Repr

/-! ### Steps and programs (chapters 01, 10) -/

/-- What the scheduler keeps of a ring (R236, R243, R244, R216, R237). -/
structure RingSched where
  /-- F, FWD steps admitted since the last UPDATE (R243); reset 0. -/
  fwd : Nat := 0
  /-- B, BWD steps admitted since the last UPDATE (R243); reset 0. -/
  bwd : Nat := 0
  /-- W declared by the ring's PIPELINED programs (R243); reset none yet. -/
  warmup : Option Nat := none
  /-- The order of R243 has been broken: every later step is refused; reset no. -/
  broken : Bool := false
  /-- UPDATE steps committed since the last evaluation (R244); reset 0. -/
  updates : Nat := 0
  /-- Evaluation due before the next step of this ring: ring to evaluate (R244); reset none. -/
  evalDue : Option Nat := none
  /-- Evaluation step that this ring waits for (R244); reset none. -/
  evalStep : Option Nat := none
  /-- Stamp of the last admission (R236); reset 0. -/
  lastAdmit : Nat := 0
  /-- Bindings of the previous step admitted (R216); reset none. -/
  prevBinds : List Bind := []
  /-- Home cores: program handle, task, core of the previous step (R237); reset none. -/
  homes : List (Nat × Nat × Nat) := []
deriving DecidableEq, Repr

/-- Steps and programs. -/
structure StepSys where
  /-- Loaded programs (R234); reset none. -/
  programs : List Program
  /-- Steps read and not answered, in order of reading (R23, R235); reset none. -/
  steps : List Step
  /-- Descriptors that engines hold (R17); reset none. -/
  inflight : List InFlight
  /-- Scheduler state of each ring, key 16 * span + ring. -/
  rings : List (Nat × RingSched)
deriving DecidableEq, Repr

/-! ### Decks (chapter 09) -/

/-- Decks, adapters, requests. -/
structure DeckSys where
  /-- Images of the module (R209); reset none. -/
  images : List Image
  /-- 16 slots a span, key 16 * span + slot (R202); default EMPTY, generation 0. -/
  slots : List (Nat × DeckSlot)
  /-- Deck loads in progress (R205); reset none. -/
  loads : List DeckLoad
  /-- Resident adapter descriptors (R222); reset none. -/
  adapters : List Adapter
  /-- Open requests (R213); reset none. -/
  requests : List OpenReq
  /-- Number of the next image (the model's own); reset 0. -/
  nextImage : Nat
deriving DecidableEq, Repr

/-! ### Viaduct (chapter 13) -/

/-- The fabric. -/
structure VdtSys where
  /-- Rank table, 16,384 entries of 128 bits, key rank (R309); default 0. -/
  ranks : List (Nat × BitVec 128)
  /-- 9 ports (R305, R325); default `Port` at reset. -/
  ports : List (Nat × Port)
  /-- Open flows (R311); reset none. -/
  flows : List Flow
  /-- Flows received (R312); reset none. -/
  rxs : List RxFlow
  /-- The first port that the next acknowledgement or refusal may take, which belong to no flow (R311); reset 0. -/
  stripe : Nat
  /-- COLL frames that wait for their descriptor (R318); reset none. -/
  colls : List Frame
  /-- Packets that wait for a free flow (R311), oldest first; reset none. -/
  waiting : List Unsent
  /-- Refusals held back while their span's egress is stopped (R272), oldest first; reset none. -/
  nacks : List Frame := []
  /-- PSN at which a closed flow stopped: rank, index, control channel, PSN (the model's own, log entry 26); reset none. -/
  closed : List (Nat × Nat × Bool × Nat)
deriving DecidableEq, Repr

/-! ### Integrity (chapter 14) -/

/-- Fault accounting. -/
structure IntegSys where
  /-- Leaky buckets, key class * 2^28 + instance (R332, ABT_BKT_LEVEL); default level 0, events 0. -/
  buckets : List (Nat × Bucket)
  /-- Bucket levels in module flash (R333); reset: none written. -/
  saved : List (Nat × Bucket)
  /-- Crypto engines retired, rising (R340); reset none. -/
  crypto : List Nat
  /-- PLLs retired, numbers 2 * cluster + k, rising (R341); reset none. -/
  plls : List Nat
  /-- Power phases shed, numbers 14 * die + n, rising (R342); reset none. -/
  phases : List Nat
  /-- VERSION of the loaded load-test pack, ABT_LT_VER; 0 none (R344, R348); reset 0. -/
  pack : Nat
  /-- Digest input of the loaded pack (R396 index 10); reset none. -/
  packBytes : List Byte
deriving DecidableEq, Repr

/-! ### Securing (chapter 15) -/

/-- Securing state of each span with a policy. -/
structure SecSys where
  /-- Key span; default no policy (R350). -/
  secs : List (Nat × Option SecState)
deriving DecidableEq, Repr

/-! ### Power and bring-up (chapter 16) -/

/-- Supplies, phases, standby, reset cause. -/
structure PwrSys where
  /-- The Abutment has power (R366); reset yes. -/
  alive : Bool
  /-- ID_STATE [2:0], 0 to 6 (R278, R376); reset 3. -/
  phase : Nat
  /-- ID_STATE bit 3, TRESTLE (R270, R278); reset 1. -/
  trestle : Bool
  /-- MAIN_OK (R387); reset 0. -/
  mainOk : Bool
  /-- AUX_OK (R387); reset 0. -/
  auxOk : Bool
  /-- THERMAL (R374, R387); reset 0. -/
  thermal : Bool
  /-- CAPPED (R373, R387); reset 0. -/
  capped : Bool
  /-- V_IN, 9 bits (R387); reset 0. -/
  vIn : Nat
  /-- P_IN, 12 bits (R387); reset 0. -/
  pIn : Nat
  /-- ABT_RESET_CAUSE DIE_MASK, 4 bits (R387); reset 0. -/
  dieMask : Nat
  /-- DIE_RESETS, 8 bits (R387); reset 0. -/
  dieResets : Nat
  /-- SOURCE, 4 bits (R387); reset 0. -/
  source : Nat
  /-- KIND, 4 bits (R387); reset 0. -/
  kind : Nat
  /-- IN_STANDBY (R384, R387); reset 0. -/
  standby : Bool
  /-- TRIPPED (R375, R387); reset 0. -/
  tripped : Bool
  /-- STANDBY_REQ (R384, R387); reset 0. -/
  standbyReq : Bool
  /-- The exit from requested standby has started (R384); reset no. -/
  exiting : Bool
  /-- Pins recorded at standby entry (R384): core, address, pin, generation; reset none. -/
  pins : List (Nat × Nat × Pin × Option Nat)
  /-- PERST# asserted (R377); reset no (ID_STATE shows B3, which needs its release). -/
  perst : Bool
  /-- PCIe link in L0 (R376); reset yes. -/
  linkUp : Bool
  /-- WAKE# asserted (R425); reset no. -/
  wake : Bool
  /-- The sequence of R368 has run and the main input has not returned; reset no. -/
  mainLost : Bool
  /-- A cold thermal trip waits for the diodes (R375); reset no. -/
  hot : Bool
  /-- No firmware slot verified: the module stays in B1 (R388); reset no. -/
  bootFailed : Bool
  /-- B2 has ended (R376); reset yes. -/
  b2Done : Bool
  /-- Trained values in module flash, by stack (R378): starting points of the next training, whose contents the manual does not give; reset
  none. -/
  trained : List (Nat × BitVec 64) := []
deriving DecidableEq, Repr

/-! ### Firmware, keys, management (chapter 17) -/

/-- Firmware slots, key slots, management settings. -/
structure FwSys where
  /-- Slot A (R388). -/
  slotA : Option FwImage
  /-- Slot B (R388); reset empty. -/
  slotB : Option FwImage
  /-- ABT_SPARE_MISC bits 26, 27: slot invalid (R348, R388); reset 0. -/
  invalidA : Bool
  invalidB : Bool
  /-- RUN_SLOT (R405): the slot that runs and is marked active; boot state: DESIGN CHOICE A. -/
  runB : Bool
  /-- ACT, 2 bits (R405); reset 0. -/
  act : Nat
  /-- Who activates: a ring command, or management (R393); reset none. -/
  actCmd : Option (Option Nat)
  /-- STAGE, 2 bits (R405); reset 0. -/
  stage : Nat
  /-- Who stages: a ring command, or management (R392); reset none. -/
  stageCmd : Option (Option Nat)
  /-- The bytes being staged (R392); reset none. -/
  stageImage : List Byte
  /-- Enrolled co-signing key (R390); reset none (shipped so). -/
  cosign : Option (List Byte)
  /-- Trust anchors (R401); reset none (shipped so). -/
  anchors : List (List Byte)
  /-- Role map: client certificate to role (R402); reset none. -/
  roles : List (Nat × Role)
  /-- MCTP path disabled (R400); reset no. -/
  mctpOff : Bool
  /-- BAR4 disabled from the next module reset (R44); reset no. -/
  windowOffNext : Bool
  /-- BAR4 disabled now (R44); reset no. -/
  windowOff : Bool
  /-- 4,096 key slots, key slot number (R399); default EMPTY. -/
  keys : List (Nat × KeySlot)
  /-- SPDM responses given (the model's counter for `Config.spdmBytes`); reset 0. -/
  spdmCount : Nat
deriving DecidableEq, Repr

/-! ### Event recorder, trace, counters, health (chapter 18) -/

/-- A function's event latch (R410). -/
structure Latch where
  /-- TRC_EV_SEL, 32 bits (R418); reset 0. -/
  sel : Nat := 0
  /-- TRC_EV_STAT BUSY (R418); reset 0. -/
  busy : Bool := false
  /-- TRC_EV_REC, 256 bytes (R410, R418); reset 0: none. -/
  record : Option EvRec := none
deriving DecidableEq, Repr

/-- A span's trace set-up at its enable (R413). -/
structure Trace where
  cores : List Nat
  share : Nat
  base : Nat
  pages : Nat
  stop : Bool
  mask : Nat
deriving DecidableEq, Repr

/-- Observability. -/
structure ObsSys where
  /-- The volatile ring of 4 MiB, oldest first (R409); reset none. -/
  ring : List EvRec
  /-- Records at the ring's end that are not flushed (R409); reset 0. -/
  unflushed : Nat
  /-- The flash log of 64 MiB, oldest first (R409); reset none. -/
  flash : List EvRec
  /-- TRC_EV_NEXT, 32 bits (R409, R418); reset 0. -/
  nextSeq : Nat
  /-- Records refused since the last DROPPED record (R409); reset 0. -/
  refused : Nat
  /-- A flush is due (R409); reset no. -/
  flushDue : Bool
  /-- Event latches, key fn (R410). -/
  latches : List (Nat × Latch)
  /-- 64-bit counters, key span * 4096 + low offset of the pair (R415); default 0. -/
  cnt : List (Nat × DWord)
  /-- Latched high words, key fn * 65536 + offset of _LO (R89); default none. -/
  hi : List (Nat × Option Word)
  /-- CNT_EPOCH, 16 bits (R415, R419); reset 0. -/
  epoch : Nat
  /-- The health view, key offset (R416, R418); default the reset column (0; HLT_RATE_CRYPTO 0x7D0). -/
  hlt : List (Nat × Word)
  /-- TRC_WPTR, key logical core (R413, R418); default 0. -/
  wptr : List (Nat × Nat)
  /-- Trace set-ups, key span (R413); default off. -/
  traces : List (Nat × Option Trace)
  /-- TRC_CFG ERR, key fn (R413, R418); default 0. -/
  trcErr : List (Nat × Bool)
  /-- TRC_DROPS, key fn (R414, R418); default 0. -/
  trcDrops : List (Nat × Nat)
deriving DecidableEq, Repr

/-! ### The whole -/

/-- Everything but the bytes of HBM, the fuses and the queue. -/
structure Dev where
  cmd : CmdSys
  span : SpanSys
  hbm : HbmSys
  core : CoreSys
  step : StepSys
  deck : DeckSys
  /-- Embedding tables, key span * 1024 + id (R180); default none. -/
  tables : List (Nat × Option Table)
  vdt : VdtSys
  integ : IntegSys
  sec : SecSys
  pwr : PwrSys
  fw : FwSys
  obs : ObsSys
  /-- The RW and RWS registers of BAR0, key fn * 65536 + offset (R8, R277); default the reset column of their tables. -/
  regs : List (Nat × Word)
  /-- Uses of free values so far (the model's own, log entry 3); reset 0: DESIGN CHOICE. -/
  free : Nat
deriving DecidableEq, Repr

/-- The state of the block. -/
structure State where
  dev : Dev
  /-- The bytes of HBM: address = frame * 2 MiB + offset (R32, R56, R297). -/
  mem : List Host.Cell
  /-- Anti-rollback fuses blown, 0 to 63 (R391); reset 0 (none blown: DESIGN CHOICE). -/
  fuses : Nat
  /-- Commands that wait, first in, first out (the model's own). -/
  pending : List Instr
deriving DecidableEq, Repr

/-- Why a step can stop with a fault. No command raises one: the manual gives every row of the table an effect, and an
error of the device is a status, a poison flag or an event, all of them state. -/
inductive Fault where
  /-- Raised by no command. Safe. -/
  | none
deriving DecidableEq, Repr

/-- Why a step can be refused. -/
inductive Refusal where
  /-- Raised by the dispatch alone, for a row that has no meaning yet. Safe: nothing can be proved of it. -/
  | notModelled (mnemonic : String)
deriving DecidableEq, Repr

/-! ### Memory -/

/-- What a byte of HBM reads as when nothing is listed: the byte that a scrub leaves there (R297), since no page is mapped
before its scrub (R33, R381). -/
def memBlank (a : Nat) : Byte :=
  let o := a % pageBytes
  if o < pageTiles * tileBytes then zeroTileByte (o % tileBytes) else 0#8

/-- The canonical form of the memory. -/
def Memory.wf (m : List Host.Cell) : Bool := Sparse.wf memBlank m

/-! ### Reset -/

/-- The firmware image that runs at reset: the manual gives no version (DESIGN CHOICE, log entry 12). -/
def FwImage.atReset : FwImage :=
  { version := 0x01000000#32, svn := 0, commit := false, sirevMask := 0xFFFFFFFF#32, digest := 0#384, header := [],
    sig := [], cosig := [], bodyLen := 0, bodyDigest := 0#384 }

/-- Everything but memory, fuses and queue, as the reset columns give it: the start of phase B3 (ID_STATE 0x0B). -/
def Dev.atReset : Dev :=
  { cmd := { rings := [], mboxes := [], pars := [], parJobs := [], cmds := [], pba := [], nextId := 0, outbox := [] }
    span := { numVfs := 0, vfEnable := false, spans := [], owner := [] }
    hbm := { pages := [], frames := [], chans := [], stackSt := [], moves := [], withdrawn := 0, unmaps := [] }
    core := { cores := [], phys := [], logical := [], clusters := [], dies := [], tests := [], pinJobs := [], clock := 0 }
    step := { programs := [], steps := [], inflight := [], rings := [] }
    deck := { images := [], slots := [], loads := [], adapters := [], requests := [], nextImage := 0 }
    tables := []
    vdt := { ranks := [], ports := [], flows := [], rxs := [], stripe := 0, colls := [], waiting := [], closed := [] }
    integ := { buckets := [], saved := [], crypto := [], plls := [], phases := [], pack := 0, packBytes := [] }
    sec := { secs := [] }
    pwr := { alive := true, phase := 3, trestle := true, mainOk := false, auxOk := false, thermal := false,
             capped := false, vIn := 0, pIn := 0, dieMask := 0, dieResets := 0, source := 0, kind := 0,
             standby := false, tripped := false, standbyReq := false, exiting := false, pins := [], perst := false, linkUp := true,
             wake := false, mainLost := false, hot := false, bootFailed := false, b2Done := true }
    fw := { slotA := some FwImage.atReset, slotB := none, invalidA := false, invalidB := false, runB := false, act := 0,
            actCmd := none, stage := 0, stageCmd := none, stageImage := [], cosign := none, anchors := [], roles := [],
            mctpOff := false, windowOffNext := false, windowOff := false, keys := [], spdmCount := 0 }
    obs := { ring := [], unflushed := 0, flash := [], nextSeq := 0, refused := 0, flushDue := false, latches := [],
             cnt := [], hi := [], epoch := 0, hlt := [], wptr := [], traces := [], trcErr := [], trcDrops := [] }
    regs := []
    free := 0 }

/-- The machine right after reset. -/
def State.reset : State := { dev := Dev.atReset, mem := [], fuses := 0, pending := [] }

end Sys2Proof.Machine
end

