-- ==== Sys2Proof/Machine/Work.lean ====
section
/-! DEFINITION. The working copy on which a command acts, and the one way from it to the next state: everything but the
bytes and the fuses is taken over, the bytes change only by the listed memory operations, and fuses are only ever blown. -/

namespace Sys2Proof.Machine

open Sys2Proof

/-- A change of the bytes of HBM. -/
inductive MemOp where
  /-- A tile is written at a physical address. -/
  | tile (a : Nat) (t : Tile)
  /-- A page (481 tiles and padding) is written: what it holds beside the scrubbed bytes. -/
  | page (a : Nat) (cells : List Host.Cell)
  /-- Bytes are written from an address on. -/
  | bytes (a : Nat) (bs : List Byte)
deriving DecidableEq, Repr

/-- The bytes after a change, in canonical form. -/
def MemOp.run : MemOp → List Host.Cell → List Host.Cell
  | .tile a t, m => Sparse.putAll memBlank (Sparse.clear m a tileBytes) (t.map fun c => (a + c.1, c.2))
  | .page a cells, m => Sparse.putAll memBlank (Sparse.clear m a pageBytes) (cells.map fun c => (a + c.1, c.2))
  | .bytes a bs, m => Sparse.putAll memBlank m (bs.zipIdx.map fun (b, i) => (a + i, b))

/-- The working copy: everything of `Dev`, the bytes as the command found them, the changes it has made to them (newest
first), and the fuses blown. -/
structure W extends Dev where
  mem0 : List Host.Cell
  ops : List MemOp
  fuses : Nat

/-- The bytes as they stand. -/
def W.mem (w : W) : List Host.Cell := w.ops.foldr MemOp.run w.mem0

/-- The working copy of a state. -/
def State.work (s : State) : W := { s.dev with mem0 := s.mem, ops := [], fuses := s.fuses }

/-- The state that a working copy leaves: the queue stays, fuses blown stay blown (R391: 0 to 63). -/
def State.take (s : State) (w : W) : State :=
  { dev := w.toDev, mem := w.ops.foldr MemOp.run s.mem, fuses := max s.fuses (min 63 w.fuses), pending := s.pending }

/-- A command's effect: it acts on the working copy and always ends in a next state. -/
def State.act (s : State) (f : W → W) : Host.Outcome State Fault Refusal := .next (s.take (f s.work))

/-- Does `f` when the event's condition holds; an event that cannot occur leaves everything as it is (log entry 9). -/
def W.if (w : W) (c : Bool) (f : W → W) : W := if c then f w else w

/-- The same with a value that has to be there. -/
def W.with {α : Type} (w : W) (o : Option α) (f : α → W → W) : W :=
  match o with
  | none => w
  | some a => f a w

/-- Something goes out. -/
def W.emit (w : W) (o : Out) : W := { w with cmd.outbox := o :: w.cmd.outbox }

/-- A fresh number for a command or a step (log entry 7). -/
def W.fresh (w : W) : Nat × W := (w.cmd.nextId, { w with cmd.nextId := w.cmd.nextId + 1 })

/-- A fresh free value of 64 bits (log entry 3). -/
def W.freeVal (w : W) : BitVec 64 × W := (Config.freeValue w.free, { w with free := w.free + 1 })

/-- Do something for each element. -/
def W.each {α : Type} (w : W) (l : List α) (f : α → W → W) : W := l.foldl (fun w a => f a w) w

/-- The tile stored at a physical address. -/
def W.tileAt (w : W) (a : Nat) : Tile := Sparse.window w.mem a tileBytes

/-- Write a tile at a physical address. -/
def W.putTile (w : W) (a : Nat) (t : Tile) : W := { w with ops := .tile a t :: w.ops }

/-! ### The numbered arrays -/

/-- A ring of a function (R252). -/
def W.ring (w : W) (fn r : Nat) : Ring := Sparse.get (fun _ => {}) w.cmd.rings (16 * fn + r)
/-- Change a ring. -/
def W.modRing (w : W) (fn r : Nat) (f : Ring → Ring) : W :=
  { w with cmd.rings := Sparse.modify (fun _ => {}) w.cmd.rings (16 * fn + r) f }

/-- Parapet status of a function (R280). -/
def W.par (w : W) (fn : Nat) : Par := Sparse.get (fun _ => {}) w.cmd.pars fn
/-- Change the parapet status. -/
def W.modPar (w : W) (fn : Nat) (f : Par → Par) : W :=
  { w with cmd.pars := Sparse.modify (fun _ => {}) w.cmd.pars fn f }

/-- A mailbox slot (R271). -/
def W.mbox (w : W) (fn k : Nat) : Mbox := Sparse.get (fun _ => {}) w.cmd.mboxes (4 * fn + k)
/-- Change a mailbox slot. -/
def W.modMbox (w : W) (fn k : Nat) (f : Mbox → Mbox) : W :=
  { w with cmd.mboxes := Sparse.modify (fun _ => {}) w.cmd.mboxes (4 * fn + k) f }

/-- A span (R284). -/
def W.sp (w : W) (n : Nat) : Span := Sparse.get Span.atReset w.span.spans n
/-- Change a span. -/
def W.modSp (w : W) (n : Nat) (f : Span → Span) : W :=
  { w with span.spans := Sparse.modify Span.atReset w.span.spans n f }

/-- The span that a logical core belongs to (R15). -/
def W.owner (w : W) (l : Nat) : Nat := Sparse.get (fun _ => 0) w.span.owner l
/-- Change the owner of a core. -/
def W.setOwner (w : W) (l n : Nat) : W := { w with span.owner := Sparse.put (fun _ => 0) w.span.owner l n }

/-- Logical cores of a span, rising (R285). -/
def W.coresOf (w : W) (n : Nat) : List Nat := (List.range 128).filter fun l => w.owner l == n

/-- Use of a page frame (R56). -/
def W.frame (w : W) (f : Nat) : FrameUse := Sparse.get frameAtReset w.hbm.frames f
/-- Change the use of a frame. -/
def W.setFrame (w : W) (f : Nat) (u : FrameUse) : W := { w with hbm.frames := Sparse.put frameAtReset w.hbm.frames f u }

/-- A channel (R64). -/
def W.chan (w : W) (c : Nat) : Chan := Sparse.get (fun _ => Chan.atReset) w.hbm.chans c
/-- Change a channel. -/
def W.modChan (w : W) (c : Nat) (f : Chan → Chan) : W :=
  { w with hbm.chans := Sparse.modify (fun _ => Chan.atReset) w.hbm.chans c f }

/-- A stack (R378). -/
def W.stackState (w : W) (k : Nat) : StackState := Sparse.get (fun _ => .training) w.hbm.stackSt k
/-- Change a stack. -/
def W.setStack (w : W) (k : Nat) (x : StackState) : W :=
  { w with hbm.stackSt := Sparse.put (fun _ => .training) w.hbm.stackSt k x }

/-- Key of a virtual page in the page tables. -/
def pageKey (n vp : Nat) : Nat := n * 2 ^ 27 + vp

/-- A page of a span (R33). -/
def W.page (w : W) (n vp : Nat) : Option PageEnt := Sparse.get (fun _ => none) w.hbm.pages (pageKey n vp)
/-- Change a page of a span. -/
def W.setPage (w : W) (n vp : Nat) (e : Option PageEnt) : W :=
  { w with hbm.pages := Sparse.put (fun _ => none) w.hbm.pages (pageKey n vp) e }
/-- Mapped pages of a span, by rising page number. -/
def W.pagesOf (w : W) (n : Nat) : List (Nat × PageEnt) :=
  w.hbm.pages.filterMap fun (k, e) => if k / 2 ^ 27 == n then e.map fun e => (k % 2 ^ 27, e) else none

/-- Tile map of a logical core (R46). -/
def W.core' (w : W) (l : Nat) : Core := Sparse.get (fun _ => {}) w.core.cores l
/-- Change a tile map. -/
def W.modCore (w : W) (l : Nat) (f : Core → Core) : W :=
  { w with core.cores := Sparse.modify (fun _ => {}) w.core.cores l f }

/-- A physical core (R334). -/
def W.phys (w : W) (c : Nat) : Phys := Sparse.get Phys.atReset w.core.phys c
/-- Change a physical core. -/
def W.modPhys (w : W) (c : Nat) (f : Phys → Phys) : W :=
  { w with core.phys := Sparse.modify Phys.atReset w.core.phys c f }

/-- Physical core behind a logical one (R11, R335). -/
def W.physOf (w : W) (l : Nat) : Option Nat := Sparse.get physAtReset w.core.logical l
/-- Change the physical core behind a logical one. -/
def W.setPhysOf (w : W) (l : Nat) (c : Option Nat) : W :=
  { w with core.logical := Sparse.put physAtReset w.core.logical l c }
/-- Logical number of a physical core. -/
def W.logOf (w : W) (c : Nat) : Option Nat := (List.range 128).find? fun l => w.physOf l == some c

/-- A cluster (R239). -/
def W.cluster (w : W) (c : Nat) : Cluster := Sparse.get (fun _ => {}) w.core.clusters c
/-- Change a cluster. -/
def W.modCluster (w : W) (c : Nat) (f : Cluster → Cluster) : W :=
  { w with core.clusters := Sparse.modify (fun _ => {}) w.core.clusters c f }

/-- A compute die (R382). -/
def W.die (w : W) (d : Nat) : Die := Sparse.get (fun _ => {}) w.core.dies d
/-- Change a die. -/
def W.modDie (w : W) (d : Nat) (f : Die → Die) : W :=
  { w with core.dies := Sparse.modify (fun _ => {}) w.core.dies d f }

/-- Scheduler state of a ring. -/
def W.sched (w : W) (n r : Nat) : RingSched := Sparse.get (fun _ => {}) w.step.rings (16 * n + r)
/-- Change the scheduler state of a ring. -/
def W.modSched (w : W) (n r : Nat) (f : RingSched → RingSched) : W :=
  { w with step.rings := Sparse.modify (fun _ => {}) w.step.rings (16 * n + r) f }

/-- A deck slot (R202). -/
def W.slot (w : W) (n k : Nat) : DeckSlot := Sparse.get (fun _ => {}) w.deck.slots (16 * n + k)
/-- Change a deck slot. -/
def W.modSlot (w : W) (n k : Nat) (f : DeckSlot → DeckSlot) : W :=
  { w with deck.slots := Sparse.modify (fun _ => {}) w.deck.slots (16 * n + k) f }

/-- An embedding table of a span (R180). -/
def W.table (w : W) (n id : Nat) : Option Table := Sparse.get (fun _ => none) w.tables (1024 * n + id)
/-- Set or drop a table. -/
def W.setTable (w : W) (n id : Nat) (t : Option Table) : W :=
  { w with tables := Sparse.put (fun _ => none) w.tables (1024 * n + id) t }
/-- Change a table, where there is one. -/
def W.modTable (w : W) (n id : Nat) (f : Table → Table) : W := w.setTable n id ((w.table n id).map f)

/-- A Viaduct port (R325). -/
def W.port (w : W) (p : Nat) : Port := Sparse.get (fun _ => {}) w.vdt.ports p
/-- Change a port. -/
def W.modPort (w : W) (p : Nat) (f : Port → Port) : W :=
  { w with vdt.ports := Sparse.modify (fun _ => {}) w.vdt.ports p f }

/-- A key slot (R399). -/
def W.keySlot (w : W) (k : Nat) : KeySlot := Sparse.get (fun _ => {}) w.fw.keys k
/-- Change a key slot. -/
def W.modKey (w : W) (k : Nat) (f : KeySlot → KeySlot) : W :=
  { w with fw.keys := Sparse.modify (fun _ => {}) w.fw.keys k f }

/-- Securing state of a span (R350). -/
def W.secOf (w : W) (n : Nat) : Option SecState := Sparse.get (fun _ => none) w.sec.secs n
/-- Set or drop the securing state of a span. -/
def W.setSec (w : W) (n : Nat) (x : Option SecState) : W :=
  { w with sec.secs := Sparse.put (fun _ => none) w.sec.secs n x }
/-- Change the securing state, where there is one. -/
def W.modSec (w : W) (n : Nat) (f : SecState → SecState) : W := w.setSec n ((w.secOf n).map f)

/-- A step by its number. -/
def W.stepOf (w : W) (id : Nat) : Option Step := w.step.steps.find? fun x => x.id == id
/-- Change a step. -/
def W.modStep (w : W) (id : Nat) (f : Step → Step) : W :=
  { w with step.steps := updateWhere (fun x => x.id == id) f w.step.steps }
/-- The program with a handle. -/
def W.program (w : W) (n h : Nat) : Option Program := w.step.programs.find? fun p => p.span == n && p.handle == h

/-- An image by its number (R205). -/
def W.image (w : W) (i : Nat) : Option Image := w.deck.images.find? fun x => x.id == i
/-- Change an image. -/
def W.modImage (w : W) (i : Nat) (f : Image → Image) : W :=
  { w with deck.images := updateWhere (fun x => x.id == i) f w.deck.images }
/-- An adapter by its handle (R222). -/
def W.adapter (w : W) (h : Nat) : Option Adapter := w.deck.adapters.find? fun x => x.handle == h
/-- Change an adapter. -/
def W.modAdapter (w : W) (h : Nat) (f : Adapter → Adapter) : W :=
  { w with deck.adapters := updateWhere (fun x => x.handle == h) f w.deck.adapters }

/-- A flow of this module (R311). -/
def W.flow (w : W) (i : Nat) : Option Flow := w.vdt.flows.find? fun x => x.id == i
/-- Change a flow. -/
def W.modFlow (w : W) (i : Nat) (f : Flow → Flow) : W :=
  { w with vdt.flows := updateWhere (fun x => x.id == i) f w.vdt.flows }

/-! ### Counters (R415) -/

/-- Add to the 64-bit counter at a low offset, for a span (R88, R89, R415). The module total is read by summing. -/
def W.count (w : W) (n off k : Nat) : W :=
  { w with obs.cnt := Sparse.modify (fun _ => 0#64) w.obs.cnt (4096 * n + off) (· + BitVec.ofNat 64 k) }

end Sys2Proof.Machine
end

