-- ==== Sys2Proof/Machine/Regs.lean ====
section
/-! DEFINITION. The registers of BAR0 (R8, R277): which bits a write sets, what a register holds at reset, and what a read
returns. -/

namespace Sys2Proof.Machine

open Sys2Proof

/-! ### Writable bits and reset values -/

/-- Bits that a write of ring register `o` sets (R279). EN is kept apart. -/
def ringMask (o : Nat) : Nat :=
  if o = 0 ∨ o = 8 then 0xFFFFF000 else if o = 4 ∨ o = 12 then 0xFFFFFFFF else if o = 16 then 0x003F031F else 0

/-- Bits that a write of a PF-only register of region 0x5000 sets (R64, R133, R200, R230, R249, R348, R387, R418). -/
def pfMask (off : Nat) : Nat :=
  if off = 0x5000 then 0xFFFF
  else if off = 0x5004 then 0x00FFFFF1
  else if off = 0x5008 then 1
  else if off = 0x5200 then 0xFFFFFFFF
  else if off = 0x5204 then 0xFFFF
  else if off = 0x5210 ∨ off = 0x5214 then 0xFFFFFFFF
  else if off = 0x5300 then 0xFFFF
  else if off = 0x5308 then 0x1F3F
  else if off = 0x5400 then 0x00070FFF
  else if 0x5420 ≤ off ∧ off < 0x5440 then 0xFFFF00FF
  else if off = 0x5444 then 0xFFFF0001
  else if off = 0x5500 then 0xFFF
  else if off = 0x550C then 2
  else if off = 0x5700 then 0xFFFFFFFF
  else if 0x5780 ≤ off ∧ off < 0x5800 then 0xFFFFFFFF
  else 0

/-- Bits that a write of a VDT_ register sets (R325). The words of VDT_RT_ADDR3 go through RANK_TABLE_COMMIT. -/
def vdtMask (off : Nat) : Nat :=
  if off = 0x7000 then 0xFFFF
  else if off = 0x7004 then 0xFFF1FFFF
  else if 0x7010 ≤ off ∧ off < 0x7020 then 0xFFFFFFFF
  else if off = 0x7020 then 0x3FFF
  else if 0x7024 ≤ off ∧ off < 0x7030 then 0xFFFFFFFF
  else if 0x7040 ≤ off ∧ off < 0x7064 then 0x3FFF
  else if 0x7100 ≤ off ∧ off < 0x7200 then 0xFFFFFFFF
  else 0

/-- Bits that a write of an RW or RWS register of function `fn` sets (R7, R8). Zero: the register is read-only, absent, or
its writes act through a command of their own. -/
def regMask (fn off : Nat) : Nat :=
  if off % 4 ≠ 0 then 0
  else if 0x0400 ≤ off ∧ off < 0x0600 then ringMask (off % 0x20)
  else if off = 0x1108 then 0xFFFFFE00
  else if off = 0x110C then 0xFFFFFFFF
  else if off = 0x1110 then 0x8000003F
  else if 0x2000 ≤ off ∧ off < 0x2400 then
    (if off % 16 = 0 then 0xFFFFFFFC else if off % 16 = 12 then 1 else 0xFFFFFFFF)
  else if 0x2800 ≤ off ∧ off < 0x2840 then 0xFFFF00FF
  else if off = 0x2840 then 0x8000003F
  else if off = 0x3000 then (if fn = 0 then 0x3F else 0)
  else if off = 0x3038 then 0xFFE00000
  else if off = 0x303C then (if fn = 0 then 0xBF00FFFF else 0x8000FFFF)
  else if off = 0x3040 then 0xFFFF00FF
  else if 0x5000 ≤ off ∧ off < 0x6000 then (if fn = 0 then pfMask off else 0)
  else if 0x7000 ≤ off ∧ off < 0x8000 then (if fn = 0 then vdtMask off else 0)
  else if off = 0x8024 then 0xFFE00000
  else if off = 0x8028 then 0xFFFFFFFF
  else if off = 0x802C then 0xFFF
  else 0

/-- LEAK and THRESH of ABT_BKT_CFG at reset, by class (R348). -/
def bktCfgReset (c : Nat) : Nat :=
  [0x003C0010, 0x05A00003, 0x05A00008, 0x27600040, 0x000A0020, 0x003C0010, 0x05A00010, 0x05A00010].getD c 0

/-- Reset value of an RW or RWS register (the Reset columns). TRC_CFG's bits live here too (R418). -/
def regReset (_fn off : Nat) : Word :=
  BitVec.ofNat 32 <|
    if 0x0400 ≤ off ∧ off < 0x0600 ∧ off % 0x20 = 16 then (off - 0x400) / 0x20 % 4 * 256 + 6
    else if 0x2000 ≤ off ∧ off < 0x2400 ∧ off % 16 = 12 then 1
    else if 0x2800 ≤ off ∧ off < 0x2840 then 1
    else if off = 0x3040 then 0x04000001
    else if off = 0x5000 then 0x2222
    else if off = 0x5004 then 0x0A01
    else if off = 0x5008 then 1
    else if off = 0x5200 then 0x08080808
    else if off = 0x5204 then 0x1388
    else if off = 0x5210 ∨ off = 0x5214 then 0x02000200
    else if off = 0x5300 then 0x03E8
    else if 0x5420 ≤ off ∧ off < 0x5440 then bktCfgReset ((off - 0x5420) / 4)
    else if off = 0x5444 then 0x00A80001
    else if off = 0x5500 then 0x0898
    else if off = 0x550C then 2
    else if off = 0x5700 then 0x00011018
    else if 0x5780 ≤ off ∧ off < 0x5800 then 0xFFFFFFFF
    else if off = 0x7000 then 0xFFFF
    else if off = 0x7004 then 0xC1A0B482
    else if off = 0x802C then 0x80
    else 0

/-- Reset value by key of `Dev.regs`. -/
def regDefault (k : Nat) : Word := regReset (k / 65536) (k % 65536)

/-- What a stored register holds. -/
def W.regv (w : W) (fn off : Nat) : Nat := (Sparse.get regDefault w.regs (65536 * fn + off)).toNat

/-- Set a stored register. -/
def W.setReg (w : W) (fn off v : Nat) : W :=
  { w with regs := Sparse.put regDefault w.regs (65536 * fn + off) (BitVec.ofNat 32 v) }

/-- A host write to a stored register: the writable bits take the new value, the others stay (R7, R8). -/
def W.writeBits (w : W) (fn off v mask : Nat) : W :=
  let old := w.regv fn off
  w.setReg fn off ((v &&& mask) ||| (old - (old &&& mask)))

/-! ### Fields the BN2 uses -/

/-- Base of ring registers. -/
def ringBase (r : Nat) : Nat := 0x400 + 0x20 * r

/-- RING_CFG of a ring. -/
def W.ringCfg (w : W) (fn r : Nat) : Nat := w.regv fn (ringBase r + 16)
/-- SIZE_LOG2 of a ring. -/
def W.sizeLog2 (w : W) (fn r : Nat) : Nat := w.ringCfg fn r % 32
/-- Entries of a ring and of its completion ring (R252). -/
def W.entries (w : W) (fn r : Nat) : Nat := 2 ^ w.sizeLog2 fn r
/-- VECTOR of a ring. -/
def W.ringVector (w : W) (fn r : Nat) : Nat := bits (w.ringCfg fn r) 21 16
/-- HOME_DIE of a ring (R253). -/
def W.homeDie (w : W) (fn r : Nat) : Nat := bits (w.ringCfg fn r) 9 8
/-- Base of a completion ring. -/
def W.cqBase (w : W) (fn r : Nat) : Nat := w.regv fn (ringBase r + 8) + 2 ^ 32 * w.regv fn (ringBase r + 12)

/-- ADP_PATH_THRESH of a die (R133). -/
def W.pathThresh (w : W) (d : Nat) : Nat := w.regv 0 0x5200 / 2 ^ (8 * d) % 256
/-- Prefetch depth limit of a die (R52, R64). -/
def W.pfLimit (w : W) (d : Nat) : Nat := min 8 (w.regv 0 0x5000 / 2 ^ (4 * d) % 16)
/-- CHUNK of a die (R241, R249). -/
def W.chunk (w : W) (d : Nat) : Nat :=
  let v := w.regv 0 (0x5210 + 4 * (d / 2)) / 2 ^ (16 * (d % 2)) % 65536
  if v < 64 then 512 else if 4096 < v then 4096 else v / 64 * 64
/-- TARGET of a span (R250). -/
def W.target (w : W) (n : Nat) : Nat := let t := bits (w.regv n 0x3040) 31 16; if t = 0 then 1024 else t
/-- MIN_CHUNKS of a span (R250). -/
def W.minChunks (w : W) (n : Nat) : Nat := w.regv n 0x3040 % 256
/-- THRESH of a bucket class (R348). -/
def W.thresh (w : W) (c : Nat) : Nat := let t := w.regv 0 (0x5420 + 4 * c) % 256; if t = 0 then 1 else t
/-- CAP of the governor (R387). -/
def W.powerCap (w : W) : Nat := max 600 (min 2200 (w.regv 0 0x5500 % 4096))
/-- This module's rank, where VDT_RANK names one (R325). -/
def W.rank (w : W) : Option Nat := let r := w.regv 0 0x7000 % 65536; if r ≤ 16383 then some r else none
/-- Is a span being reset or destroyed (R293, R297)? -/
def W.ending (w : W) (n : Nat) : Bool := (w.sp n).mode == .resetting || (w.sp n).mode == .destroying

/-- Fabric group of a span (R325). -/
def W.group (w : W) (n : Nat) : Nat := w.regv 0 (0x7100 + 4 * n)

/-! ### Derived quantities -/

/-- Stacks joined (R378). -/
def W.joined (w : W) : Nat := ((List.range 8).filter fun k => w.stackState k == .joined).length
/-- Stacks lost (R62). -/
def W.lost (w : W) : Nat := ((List.range 8).filter fun k => w.stackState k == .lost).length
/-- HBM_CAPACITY (R64). -/
def W.capacity (w : W) : Nat := 23552 * w.joined - w.hbm.withdrawn
/-- HBM_RATED (R64). -/
def W.rated (w : W) : Nat := 23552 * (8 - w.lost) - w.hbm.withdrawn
/-- Channels in service (R63). -/
def W.chansInService (w : W) : Nat := ((List.range 256).filter fun c => (w.chan c).state == .inService).length
/-- HBM_SUST_BW in GB/s (R63). -/
def W.sustained (w : W) : Nat := 14000 * w.chansInService / 256
/-- Free pool pages (R60). -/
def W.poolFree (w : W) : Nat :=
  ((List.range 256).map fun c => if (w.chan c).state == .inService then (w.chan c).pool else 0).sum
/-- Pages that wait for their scrub, in stacks that have joined (R297, SPN_SCRUB). -/
def W.scrubQueue (w : W) : Nat :=
  let listed := w.hbm.frames.filter fun (f, u) => decide (w.stackState (f / 24576) = .joined) && frameAtReset f != u
  let gone := (listed.filter fun (f, _) => frameAtReset f == .scrubWait).length
  let come := (listed.filter fun (_, u) => u == .scrubWait).length
  23552 * w.joined + come - gone

/-- Pages charged to a span: mapped pages that have a home, and images charged to it (R211, R288). -/
def W.charged (w : W) (n : Nat) : Nat :=
  ((w.pagesOf n).filter fun (_, e) => e.frame.isSome).length +
    ((w.deck.images.filter fun i => i.charge == n).map fun i => i.frames.length).sum

/-- Sum of the quotas of all VF spans. -/
def W.vfQuotas (w : W) : Nat :=
  (w.span.spans.map fun (n, x) => if n = 0 ∨ x.mode = .absent then 0 else x.hbmPages).sum
/-- Quota of a span: span 0 has what no VF span has (R287). -/
def W.quota (w : W) (n : Nat) : Nat := if n = 0 then w.rated - w.vfQuotas else (w.sp n).hbmPages
/-- What MAP and DECK_LOAD of a span may reach: its quota, or the new one while a decrease waits for pages (R288). -/
def W.mapLimit (w : W) (n : Nat) : Nat :=
  match (w.sp n).resize.bind (·.pages) with | some q => min q (w.quota n) | none => w.quota n
/-- Do quotas exceed the visible capacity (R287)? -/
def W.overcommit (w : W) : Bool := decide (w.rated < w.vfQuotas)
/-- Does a span hold a key slot (R285, R287)? -/
def W.holdsKey (w : W) (n k : Nat) : Bool :=
  let inVf (x : Nat × Span) : Bool :=
    decide (x.1 ≠ 0) && decide (x.2.mode ≠ .absent) && decide (x.2.keyBase ≤ k) && decide (k < x.2.keyBase + x.2.keyCount)
  if n = 0 then decide (k < 4096) && !(w.span.spans.any inVf) else inVf (n, w.sp n)
/-- Key slots of a span, rising. -/
def W.keysOf (w : W) (n : Nat) : List Nat := (List.range 4096).filter fun k => w.holdsKey n k
/-- Programs of a span. -/
def W.programsOf (w : W) (n : Nat) : List Program := w.step.programs.filter fun p => p.span == n
/-- Largest core reservation of a span (R30). -/
def W.reservedCores (w : W) (n : Nat) : Nat := ((w.programsOf n).map (·.minCores)).foldl max 0
/-- Largest scratchpad reservation of a span, in slots of each core (R30). -/
def W.reservedSlots (w : W) (n : Nat) : Nat := ((w.programsOf n).map (·.slots)).foldl max 0
/-- Stalled tables over all spans (R200). -/
def W.stalledTables (w : W) : Nat := (w.tables.filter fun (_, t) => (t.map (·.stalled)).getD false).length

/-- HALTED or stopped (R272). -/
def Span.stopped (x : Span) : Bool := x.halted || x.stopHost || x.stopVdt

/-- SPN_STATE (R304). KEY_WAIT never shows: a resize never waits on key slots (R288). -/
def W.spnState (w : W) (n : Nat) : Nat :=
  let x := w.sp n
  x.mode.code
    + (match x.resize with
       | some r => (if r.cores.isEmpty then 0 else 16) + (if r.pages.isSome then 32 else 0)
       | none => 0)
    + (if x.save.isSome then 128 else 0) + (if w.overcommit then 256 else 0)

/-- RING_STATUS (R279). -/
def W.ringStatus (w : W) (fn r : Nat) : Nat :=
  let x := w.ring fn r
  let st := if x.stopping then 3 else if !x.en then 0 else if (w.sp fn).stopped then 2 else 1
  st * 2 ^ 30 + x.badBell * 2 ^ 24 + x.nextSeq

/-- PAR_STATUS (R280). -/
def W.parStatus (w : W) (fn : Nat) : Nat :=
  let p := w.par fn
  let t := w.sp (p.target.getD fn)
  let st := if t.mode = .resetting ∨ t.mode = .destroying then 3
    else if t.stopHost || t.stopVdt then 2 else if t.halted then 1 else 0
  ((List.range 4).map fun k => if (w.mbox fn k).busy.isSome then 2 ^ k else 0).sum + p.drops * 256 + st * 65536

/-- Pending bits of vectors `lo` to `lo + 31` (R281). -/
def W.pbaWord (w : W) (fn lo : Nat) : Nat :=
  ((List.range 32).map fun i => if (64 * fn + lo + i) ∈ w.cmd.pba then 2 ^ i else 0).sum

/-- Does a step run a task on a logical core? -/
def Step.usesCore (x : Step) (l : Nat) : Bool := x.tasks.any fun t => t.core == some l && !t.ended

/-- Does a core hold a task? -/
def W.busyCore (w : W) (l : Nat) : Bool := w.step.steps.any fun x => x.phase == .compute && x.usesCore l

/-- Has a KAT_RUN come to this core (R347): the first core of the run still in service, and out of placement once its tasks have ended? -/
def W.katHolds (w : W) (c : Nat) : Bool :=
  w.core.tests.any fun j => j.kind == 2 && (j.cores.find? fun k => (w.phys k).state != .retired) == some c
    && !((w.logOf c).map w.busyCore).getD false

/-- Service state of a bucket's instance (R348). -/
def W.bktState (w : W) (c i : Nat) : Nat :=
  match c with
  | 0 => if 144 ≤ i then 0 else match (w.phys i).state with
    | .active => if w.katHolds i then 1 else 0
    | .spare => 3 | .quarantined => 1 | .testing => 1 | .retired => 2
  | 3 => if (w.chan i).state = .inService then 0 else 2
  | 4 => if (w.port i).state = .retired then 2 else 0
  | 5 => if i ∈ w.integ.crypto then 2 else 0
  | 6 => if i ∈ w.integ.plls then 2 else if i < 32 ∧ (w.cluster (i / 2)).pll ≠ i % 2 then 3 else 0
  | 7 => if i ∈ w.integ.phases then 2 else 0
  | _ => 0

/-- A leaky bucket (R332). -/
def W.bucket (w : W) (c i : Nat) : Bucket := Sparse.get (fun _ => {}) w.integ.buckets (c * 2 ^ 28 + i)

/-- ABT_SPARE_CORE (R348). -/
def W.spareCore (w : W) : Nat :=
  let used c := !((List.range 9).any fun k =>
    (w.logOf (9 * c + k)).isNone && ((w.phys (9 * c + k)).state == .spare || (w.phys (9 * c + k)).state == .testing))
  let empty c := (List.range 8).any fun k => (w.physOf (8 * c + k)).isNone
  ((List.range 16).map fun c => (if used c then 2 ^ c else 0) + (if empty c then 2 ^ (16 + c) else 0)).sum

/-- ABT_SPARE_SRAM (R348): fewest redundant rows left in any core, and the lowest core that has so few. -/
def W.spareSram (w : W) : Nat :=
  let rows c := (w.phys c).rows.sum
  let best := (List.range 144).foldl (fun (b : Nat × Nat) c => if rows c < b.1 then (rows c, c) else b) (rows 0, 0)
  best.1 + best.2 * 65536

/-- VDT_PORT_ST (R325). -/
def W.portStatus (w : W) (p : Nat) : Nat :=
  let x := w.port p
  (match x.state with | .up => 0 | .training => 1 | .down => 2 | .retired => 3) * 2 ^ 30
    + x.margin % 1024 * 2 ^ 20 + min 255 x.ber * 2 ^ 12 + min 255 x.misaddr * 16 + min 15 x.retrain

/-- Byte of HBM_CH_STATE (R64). -/
def W.chanByte (w : W) (c : Nat) : Nat :=
  let x := w.chan c
  (match x.state with | .inService => 0 | .retiring => 1 | .retired => 2 | .lost => 3) * 64
    + (if x.low then 32 else 0) + min 31 x.ppr

/-- The running firmware image (R388, R405). -/
def W.runImage (w : W) : Option FwImage := if w.fw.runB then w.fw.slotB else w.fw.slotA
/-- Does an image verify (R390)? -/
def W.verifies (w : W) (i : FwImage) : Bool :=
  Config.wealoletSigOk (i.header.take 68) i.sig && i.digest == i.bodyDigest && bit i.sirevMask.toNat Config.siliconRev.toNat
    && decide (w.fuses ≤ i.svn)
    && (match w.fw.cosign with | some k => Config.cosignOk k (i.header.take 68) i.cosig | none => true)

/-- The other slot's image, when it verifies (R405). -/
def W.otherImage (w : W) : Option FwImage :=
  (if w.fw.runB then (if w.fw.invalidA then none else w.fw.slotA) else (if w.fw.invalidB then none else w.fw.slotB)).filter w.verifies

/-- ABT_FW_STATUS (R405). -/
def W.fwStatus (w : W) : Nat :=
  w.fw.act * 2 ^ 30 + w.fuses % 64 * 2 ^ 24 + ((w.runImage.map (·.svn)).getD 0) % 64 * 2 ^ 18
    + ((w.otherImage.map (·.svn)).getD 0) % 64 * 2 ^ 12 + (if w.fw.cosign.isSome then 512 else 0)
    + (if w.otherImage.isSome then 256 else 0) + w.fw.stage * 64 + (if w.fw.runB then 1 else 0)

/-- Oldest SEQ in the event ring (R418): the next one when the ring is empty. -/
def W.evFirst (w : W) : Nat := (w.obs.ring.head?.map (·.seq)).getD w.obs.nextSeq
/-- Oldest SEQ in the flash log: the next one when it is empty. -/
def W.flFirst (w : W) : Nat := (w.obs.flash.head?.map (·.seq)).getD w.obs.nextSeq

/-- 256 bytes of an event record as read (R406). -/
def EvRec.bytes (r : EvRec) : List Byte :=
  padTo 256 ([BitVec.ofNat 8 r.ty, BitVec.ofNat 8 r.payload.length]
    ++ leBytes 2 (r.span % 64 + (if r.device then 64 else 0) + r.unit % 256 * 256) ++ leBytes 4 r.seq
    ++ leBytes 8 r.time.toNat ++ r.payload)

/-- Event latch of a function (R410). -/
def W.latch (w : W) (fn : Nat) : Latch := Sparse.get (fun _ => {}) w.obs.latches fn

/-- CNT_SP_BANK and CNT_SP_STALL count what only time shows (R14, R46, R419). -/
def timedCounter (lo : Nat) : Bool := lo == 0x280 || lo == 0x290

/-- A 64-bit counter as a function sees it: its span's total, or the module's in the PF with SCOPE set (R88). One that counts time is a
free value (log entry 31). -/
def W.counter (w : W) (fn lo : Nat) : Nat :=
  if timedCounter lo then (Config.timedCount w.free fn lo).toNat
  else if fn = 0 && bit (w.regv 0 0x40FC) 0 then
    ((w.obs.cnt.filter fun (k, _) => k % 4096 == lo).map fun (_, v) => v.toNat).sum % 2 ^ 64
  else (Sparse.get (fun _ => 0#64) w.obs.cnt (4096 * fn + lo)).toNat

/-- Does the counter window have a counter whose _LO lies at this offset of the window (R88, R134, R154, R176, R201, R231,
R251, R326, R349, R419)? -/
def isCounter (o : Nat) : Bool := o % 8 == 0 && decide (0x100 ≤ o) && decide (o ≤ 0x298) && o != 0x138

/-- Register of the span resource view (R304); `n` is the span viewed. -/
def W.readSpn (w : W) (fn n off : Nat) : Nat :=
  let x := w.sp n
  let gone := x.mode = .absent
  let mask k := ((List.range 32).map fun i => if w.owner (32 * k + i) = n then 2 ^ i else 0).sum
  match off with
  | 0x3000 => n
  | 0x3004 => w.spnState n
  | 0x3008 => if gone then 0 else w.quota n
  | 0x300C => w.charged n
  | 0x3010 => if gone then 0 else x.spadSlots
  | 0x3014 =>
    if gone then 0
    else if n = 0 then (let ks := w.keysOf 0; (ks.head?.getD 0) + ks.length * 65536)
    else x.keyBase + x.keyCount * 65536
  | 0x3018 => if gone then 0 else x.wSched * 2 ^ 24 + x.wPcie * 2 ^ 16 + x.wVdt * 256 + x.wHbm
  | 0x301C => if gone then 0 else x.vectors + x.drainMs * 256
  | 0x3020 => mask 0
  | 0x3024 => mask 1
  | 0x3028 => mask 2
  | 0x302C => mask 3
  | 0x3030 => (x.save.map fun s => s.dirty.length).getD 0
  | 0x3034 => if fn = 0 then w.scrubQueue else 0
  | 0x3044 => (w.sp fn).winDrops
  | _ => w.regv fn off

/-- PF-only registers of region 0x5000. -/
def W.readPf (w : W) (off : Nat) : Nat :=
  if 0x5100 ≤ off ∧ off < 0x5200 then
    ((List.range 4).map fun k => w.chanByte (off - 0x5100 + k) * 2 ^ (8 * k)).sum
  else match off with
  | 0x5010 => w.poolFree
  | 0x5014 => w.capacity
  | 0x5018 => w.sustained
  | 0x501C => w.rated
  | 0x5208 => (w.deck.adapters.filter fun a => a.loading.isNone).length + w.deck.requests.length * 2 ^ 15
  | 0x5304 => w.stalledTables
  | 0x530C =>
    let n := w.regv 0 0x5308 % 64
    let k := bits (w.regv 0 0x5308) 12 8
    ((List.range 32).map fun i => if ((w.table n (32 * k + i)).map (·.stalled)).getD false then 2 ^ i else 0).sum
  | 0x5404 =>
    let i := w.regv 0 0x5400 % 4096
    let c := bits (w.regv 0 0x5400) 18 16
    if c = 1 ∨ c = 2 then 0
    else (w.bucket c i).level + w.bktState c i * 256 + (w.bucket c i).events * 65536
  | 0x5410 => w.spareCore
  | 0x5414 => (w.integ.plls.map fun p => 2 ^ p).sum
  | 0x5418 =>
    w.integ.crypto.length + ((List.range 9).filter fun p => (w.port p).state == .retired).length * 64
      + ((List.range 4).map fun d => (w.integ.phases.filter fun p => p / 14 == d).length * 2 ^ (4 * d + 10)).sum
      + (if w.fw.invalidA then 2 ^ 26 else 0) + (if w.fw.invalidB then 2 ^ 27 else 0)
  | 0x541C => w.spareSram
  | 0x5440 => w.integ.pack
  | 0x5504 =>
    (if w.pwr.mainOk then 2 ^ 24 else 0) + (if w.pwr.auxOk then 2 ^ 23 else 0) + (if w.pwr.thermal then 2 ^ 22 else 0)
      + (if w.pwr.capped then 2 ^ 21 else 0) + min 511 w.pwr.vIn * 2 ^ 12 + min 4095 w.pwr.pIn
  | 0x5508 =>
    w.pwr.dieMask * 65536 + min 255 w.pwr.dieResets * 256 + w.pwr.source * 16 + w.pwr.kind
  | 0x550C =>
    w.regv 0 0x550C + (if w.pwr.standby then 2 ^ 31 else 0) + (if w.pwr.tripped then 2 ^ 30 else 0)
      + (if w.pwr.standbyReq then 1 else 0)
  | 0x5600 => w.fwStatus
  | _ => w.regv 0 off

/-- Event and trace registers (R418). -/
def W.readTrc (w : W) (fn off : Nat) : Nat :=
  if 0x8100 ≤ off ∧ off < 0x8200 then
    (match (w.latch fn).record with
     | some r => rd r.bytes (off - 0x8100) 4
     | none => 0)
  else if 0x8400 ≤ off ∧ off < 0x8600 then Sparse.get (fun _ => 0) w.obs.wptr ((off - 0x8400) / 4)
  else match off with
  | 0x8000 => w.evFirst
  | 0x8004 => w.obs.nextSeq
  | 0x8008 => (w.latch fn).sel
  | 0x8010 => w.flFirst
  | 0x8014 => if (w.latch fn).busy then 1 else 0
  | 0x8020 => w.regv fn off + (if Sparse.get (fun _ => false) w.obs.trcErr fn then 2 ^ 31 else 0)
  | 0x8030 => Sparse.get (fun _ => 0) w.obs.trcDrops fn
  | _ => w.regv fn off

/-- Health view at an offset of 0x6000 (R416, R418): the last refresh. -/
def hltReset (off : Nat) : Word := if off = 0x601C then 0x7D0#32 else 0#32

/-- What a 32-bit read of a function's BAR0 at an aligned offset returns (R8, R277). Offsets outside every region read as
zero, write-only registers too, and what is PF only reads as zero in a VF. DESIGN CHOICE (log entry 100), where R89 is silent: a _HI
read with no latched value gives the present high word, and a latched value stays until the next _LO read or a change of
CNT_FMT_CTL. -/
def W.readReg (w : W) (fn off : Nat) : Nat :=
  if off % 4 ≠ 0 then 0
  else if off < 0x0400 then
    (match off with
     | 0x0000 => 0x2D544C57
     | 0x0004 => 0x2D324E42
     | 0x0008 => 0x4C2D3834
     | 0x000C => Config.siliconRev.toNat
     | 0x0010 => (w.runImage.map fun i => i.version.toNat).getD 0
     | 0x0014 => 0x1000 + fn + (if fn = 0 then 0x40 else 0)
     | 0x0018 =>
       w.pwr.phase + (if w.pwr.trestle then 8 else 0)
         + ((List.range 8).map fun k => if w.stackState k = .joined then 2 ^ (4 + k) else 0).sum
         + ((List.range 9).map fun p => if (w.port p).state = .up then 2 ^ (12 + p) else 0).sum
     | _ => 0)
  else if off < 0x0600 then
    let r := (off - 0x400) / 0x20
    match off % 0x20 with
    | 0x10 => w.regv fn off + (if (w.ring fn r).en then 2 ^ 31 else 0)
    | 0x14 => w.ringStatus fn r
    | 0x18 => (w.ring fn r).sqHead
    | 0x1C => (w.ring fn r).cqTail + (if (w.ring fn r).cqPhase then 65536 else 0)
    | _ => w.regv fn off
  else if off < 0x1100 then 0
  else if off < 0x1200 then
    (match off with
     | 0x1100 => w.parStatus fn
     | 0x1104 => (w.par fn).lastTag.toNat
     | 0x1114 => (w.par fn).tail + (if (w.par fn).phase then 16 else 0)
     | _ => w.regv fn off)
  else if off < 0x3000 then
    (match off with
     | 0x2400 => w.pbaWord fn 0
     | 0x2404 => w.pbaWord fn 32
     | _ => w.regv fn off)
  else if off < 0x4000 then w.readSpn fn (if fn = 0 then w.regv 0 0x3000 else fn) off
  else if off < 0x5000 then
    (if off = 0x4000 then w.obs.epoch
     else if off = 0x40FC then (if fn = 0 then w.regv 0 off else 0)
     else if isCounter (off % 0x1000) then w.counter fn (off % 0x1000) % 2 ^ 32
     else if isCounter (off % 0x1000 - 4) && off % 8 == 4 then
       (match Sparse.get (fun _ => none) w.obs.hi (65536 * fn + (off - 4)) with
        | some h => h.toNat
        | none => w.counter fn (off % 0x1000 - 4) / 2 ^ 32)
     else 0)
  else if off < 0x6000 then (if fn = 0 then w.readPf off else 0)
  else if off < 0x7000 then (Sparse.get hltReset w.obs.hlt off).toNat
  else if off < 0x8000 then
    (if fn ≠ 0 then 0
     else if 0x7080 ≤ off ∧ off < 0x70A4 then w.portStatus ((off - 0x7080) / 4)
     else if 0x7024 ≤ off ∧ off < 0x7034 then
       (Sparse.get (fun _ => 0#128) w.vdt.ranks (w.regv 0 0x7020)).toNat / 2 ^ (32 * ((off - 0x7024) / 4)) % 2 ^ 32
     else w.regv 0 off)
  else if off < 0x10000 then w.readTrc fn off
  else 0

end Sys2Proof.Machine
end

