-- ==== Sys2Proof/Machine/Ops.lean ====
section
/-! DEFINITION. Shared operations of the command interface: replies, interrupts, event records, snapshots, the intake of a
ring packet, parapet replies. -/

namespace Sys2Proof.Machine

open Sys2Proof

/-! ### Interrupts (R276) -/

/-- Signal an MSI-X vector of a function: never one at or above the span's VECTORS (R285); a masked one sets its pending
bit. -/
def W.signal (w : W) (fn v : Nat) : W :=
  if (w.sp fn).vectors ≤ v ∨ 64 ≤ v then w
  else if bit (w.regv fn (0x2000 + 16 * v + 12)) 0 then { w with cmd.pba := insertNat (64 * fn + v) w.cmd.pba }
  else w.emit (.irq fn v)

/-- Signal a ring's unsignalled replies (R276). -/
def W.signalRing (w : W) (fn r : Nat) : W :=
  (w.modRing fn r fun g => { g with unsig := 0 }).signal fn (w.ringVector fn r)

/-- COUNT of INT_MOD, where 0 acts as 1 (R281). -/
def W.modCount (w : W) (fn r : Nat) : Nat := max 1 (w.regv fn (0x2800 + 4 * r) % 256)

/-! ### Replies (R256, R261) -/

/-- Write a reply at the completion ring's tail, and signal it when its moderation says so. -/
def W.writeReply (w : W) (fn r : Nat) (now : Bool) (x : Reply) : W :=
  let g := w.ring fn r
  let n := w.entries fn r
  let w := w.emit (.reply fn r (w.cqBase fn r + 32 * g.cqTail) g.cqPhase x)
  let w := w.modRing fn r fun g =>
    { g with cqTail := (g.cqTail + 1) % n, cqPhase := if g.cqTail + 1 = n then !g.cqPhase else g.cqPhase,
             cqUsed := g.cqUsed + 1, unsig := g.unsig + 1 }
  if now || decide (w.modCount fn r ≤ (w.ring fn r).unsig) then w.signalRing fn r else w

/-- Has the completion ring a free entry? -/
def W.cqFree (w : W) (fn r : Nat) : Bool := decide ((w.ring fn r).cqUsed < w.entries fn r)

/-- Send a reply: held while the completion ring is full; a disabled ring receives none. -/
def W.reply (w : W) (fn r : Nat) (now : Bool) (x : Reply) (final : Option Nat := none) : W :=
  let g := w.ring fn r
  if !g.en && !g.stopping then w
  else if !g.held.isEmpty || !w.cqFree fn r then w.modRing fn r fun g => { g with held := g.held ++ [(x, now, final)] }
  else w.writeReply fn r now x

/-- Write held replies while there is room, at most `n` of them (R256). -/
def W.releaseHeld : Nat → W → Nat → Nat → W
  | 0, w, _, _ => w
  | n + 1, w, fn, r =>
    match (w.ring fn r).held with
    | [] => w
    | (x, now, _) :: rest =>
      if w.cqFree fn r then
        W.releaseHeld n ((w.modRing fn r fun g => { g with held := rest }).writeReply fn r now x) fn r
      else w

/-- Which command a held reply completes for a FENCE: none for a step, which counts as complete when it has committed or failed
(R265). -/
def Cmd.fenced (c : Cmd) : Option Nat := if c.op = 0x0401 then none else some c.id

/-- The final reply of a command read from a ring. -/
def W.answer (w : W) (c : Cmd) (st : Status) (d : Detail := .none) (r0 : Nat := 0) (r1 : Nat := 0) : W :=
  w.reply c.fn c.ring c.irq { tag := c.tag, seq := c.seq, status := st, detail := d, result0 := r0, result1 := r1 } c.fenced

/-- ST_ACCEPTED, the first of two replies (R264); IRQ_NOW concerns the final one only. -/
def W.accepted (w : W) (c : Cmd) : W :=
  w.reply c.fn c.ring false { tag := c.tag, seq := c.seq, status := .accepted }

/-- An immediate command waits for its effect, and its ring with it (R264). -/
def W.beginHeld (w : W) (c : Cmd) : W := { w with cmd.cmds := w.cmd.cmds ++ [{ c with holds := true }] }

/-- A command goes on after this step: it counts as in progress until its final reply (R264, R265). -/
def W.begin (w : W) (c : Cmd) : W := { w with cmd.cmds := w.cmd.cmds ++ [c] }

/-- The final reply of a command in progress. -/
def W.finish (w : W) (id : Nat) (st : Status) (d : Detail := .none) (r0 : Nat := 0) (r1 : Nat := 0) : W :=
  match w.cmd.cmds.find? fun c => c.id == id with
  | none => w
  | some c => { w with cmd.cmds := w.cmd.cmds.filter fun c => c.id != id }.answer c st d r0 r1

/-- Final replies with one status for several commands. -/
def W.finishAll (w : W) (ids : List Nat) (st : Status) : W := w.each ids fun id w => w.finish id st

/-! ### Event records (R406 to R412) -/

/-- Record types of R407. -/
inductive EvTy where
  | health | stepFault | judged | quarantine | secured | loadtest | debugRead | graceEnd | span | firmware | power
  | capacity | snapshot | cleared | dropped | deviceFault
deriving DecidableEq, Repr

/-- Type code and FLUSH mark (R407). -/
def EvTy.code : EvTy → Nat
  | .health => 1 | .stepFault => 2 | .judged => 3 | .quarantine => 4 | .secured => 5 | .loadtest => 6 | .debugRead => 7
  | .graceEnd => 8 | .span => 9 | .firmware => 10 | .power => 11 | .capacity => 12 | .snapshot => 13 | .cleared => 14
  | .dropped => 15 | .deviceFault => 16

/-- Does a record of this type start a flush (R407)? -/
def EvTy.flush : EvTy → Bool
  | .judged | .quarantine | .firmware | .power | .capacity | .cleared | .dropped | .deviceFault => true
  | _ => false

/-- Bytes that a record occupies (R406). -/
def EvRec.size (r : EvRec) : Nat := (16 + r.payload.length + 15) / 16 * 16

/-- Drop records that are flushed from the ring's old end until `room` bytes fit in 4 MiB (R409); `u` of the records are
not flushed and stay. -/
def evTrim : List EvRec → Nat → Nat → List EvRec
  | [], _, _ => []
  | r :: rs, u, room =>
    if rs.length < u then r :: rs
    else if ((r :: rs).map EvRec.size).sum + room ≤ 4194304 then r :: rs
    else evTrim rs u room

/-- Units of R406. -/
def unitIodie : Nat := 0x90
/-- Viaduct. -/
def unitVdt : Nat := 0x91
/-- Crypto. -/
def unitCrypto : Nat := 0x92
/-- Abutment. -/
def unitAbut : Nat := 0xA0
/-- Management. -/
def unitMgmt : Nat := 0xA1

/-- Signal INT_EVT of a function where it is enabled (R276). -/
def W.notice (w : W) (fn : Nat) : W :=
  let v := w.regv fn 0x2840
  if bit v 31 then w.signal fn (v % 64) else w

/-- Tell the functions that a record concerns: the span and the PF, or every function (R292). -/
def W.notices (w : W) (n : Nat) (device : Bool) : W :=
  if device then w.each (List.range 64) fun fn w => w.notice fn
  else if n = 0 then w.notice 0 else (w.notice n).notice 0

/-- Write one record (R409): refused when unflushed records fill the ring, unless its type flushes. A payload the manual
does not lay out is the model's free bytes (log entry 5). -/
def W.record (w : W) (ty : EvTy) (flush : Bool) (n : Nat) (device : Bool) (unit : Nat) (payload : Option (List Byte))
    (names : Subject := .none) : W :=
  let seq := w.obs.nextSeq
  let r : EvRec :=
    { ty := ty.code, payload := (payload.getD (Config.eventPayload seq)).take 240, span := n, device := device,
      unit := unit, seq := seq, time := Config.timeStamp w.free, names := names }
  let u := w.obs.unflushed
  let old := ((w.obs.ring.drop (w.obs.ring.length - u)).map EvRec.size).sum
  if !flush && decide (4194304 < old + r.size) then { w with obs.refused := w.obs.refused + 1 }
  else
    let ring := evTrim w.obs.ring u r.size ++ [r]
    { w with free := w.free + 1, obs.nextSeq := (seq + 1) % 2 ^ 32, obs.ring := ring, obs.unflushed := u + 1,
             obs.flushDue := w.obs.flushDue || flush || decide (2097152 ≤ old + r.size) }

/-- The value that a snapshot holds for one entry of ABT_SNAP_OFF (R412). -/
def W.snapValue (w : W) (k : Nat) : Nat :=
  let o := bits (w.regv 0 (0x5780 + 4 * (k / 2))) (if k % 2 = 0 then 15 else 31) (if k % 2 = 0 then 0 else 16)
  if o = 0xFFFF then 0 else w.readReg 0 o

/-- The two SNAPSHOT records of a trigger (R412). -/
def W.snapshot (w : W) (seq : Nat) (flush : Bool) (n : Nat) (device : Bool) : W :=
  let part (p : Nat) : List Byte :=
    leBytes 4 seq ++ leBytes 1 p ++ leBytes 3 0
      ++ ((List.range 32).map fun k => leBytes 4 (w.snapValue (32 * p + k))).flatten
  (w.record .snapshot flush n device unitAbut (some (part 0))).record .snapshot flush n device unitAbut (some (part 1))

/-- An event record of a span or of the device, with its notices and, where its type is selected, its snapshot. -/
def W.event (w : W) (ty : EvTy) (n : Nat) (device : Bool) (unit : Nat) (payload : Option (List Byte) := none)
    (names : Subject := .none) : W :=
  let seq := w.obs.nextSeq
  let w := w.record ty ty.flush n device unit payload names
  let w := if bit (w.regv 0 0x5700) ty.code then w.snapshot seq ty.flush n device else w
  w.notices n device

/-- A health event of a span (R292), with what it names. -/
def W.health (w : W) (n unit : Nat) (names : Subject := .none) : W := w.event .health n false unit none names
/-- A health event of the device. -/
def W.healthAll (w : W) (unit : Nat) (names : Subject := .none) : W := w.event .health 0 true unit none names

/-! ### Leaky buckets (R332, R333) -/

/-- At most `cap` entries of a class: a new row takes the entry with the lowest level (R332). -/
def bucketRoom (m : List (Nat × Bucket)) (c cap k : Nat) : List (Nat × Bucket) :=
  let mine := m.filter fun e => e.1 / 2 ^ 28 == c
  if mine.length < cap || mine.any (fun e => e.1 == k) then m
  else
    match mine with
    | [] => m
    | e :: es =>
      let low := es.foldl (fun (b : Nat × Bucket) x => if x.2.level < b.2.level then x else b) e
      m.filter fun x => x.1 != low.1

/-- An event on an instance: whether the instance is judged permanently faulty, and its new level. A level that crosses half its THRESH sends the levels to flash (R333). -/
def W.bucketAdd (w : W) (cls : BktClass) (i : Nat) (event : BktEvent) : Bool × W :=
  let c := cls.num
  let b := w.bucket c i
  let t := w.thresh c
  let lvl := match event.weight with | none => 255 | some k => min 255 (b.level + k)
  let k := c * 2 ^ 28 + i
  let m := if c = 1 then bucketRoom w.integ.buckets c 16384 k
    else if c = 2 then bucketRoom w.integ.buckets c 32768 k else w.integ.buckets
  let m := Sparse.put (fun _ => ({} : Bucket)) m k { level := lvl, events := min 65535 (b.events + 1) }
  let w := { w with integ.buckets := m }
  let w := if decide (2 * b.level < t) && decide (t ≤ 2 * lvl) then { w with integ.saved := w.integ.buckets } else w
  (event.weight.isNone || decide (t ≤ lvl), w)

/-- The record of a permanent judgement or a retirement (R333): the class, the instance, its level, and the event that
decided it. -/
def W.judged (w : W) (unit : Nat) (cls : BktClass) (inst : Nat) (event : BktEvent) : W :=
  w.event .judged 0 true unit none (.judged cls.num inst (w.bucket cls.num inst).level event)

/-! ### Intake of a ring packet (R254 to R260, R266, R270, R284) -/

/-- What R266 and the tables of R257, R258 say of an opcode: its code, whether only the PF issues it, whether trestle mode
takes it, whether a frozen span takes it (R284), whether it needs PBLK, the FLAGS bits it uses beside IRQ_NOW, the parameter
bytes it uses, and bits of those bytes that are resv. -/
structure OpInfo where
  code : Nat
  pf : Bool := false
  trestle : Bool := true
  frozen : Bool := false
  pblk : Bool := false
  flags : Nat := 0
  used : List (Nat × Nat) := []
  resvBits : List (Nat × Nat) := []
deriving DecidableEq, Repr

/-! The opcodes (R266, with the tables of R257 and of each command). -/

/-- NOP. -/
def opNop : OpInfo := { code := 0x0000, frozen := true }
/-- FENCE. -/
def opFence : OpInfo := { code := 0x0001, frozen := true }
/-- QUERY. -/
def opQuery : OpInfo := { code := 0x0002, frozen := true, used := [(12, 1), (14, 2)] }
/-- SPAN_CREATE. -/
def opSpanCreate : OpInfo := { code := 0x0100, pf := true, pblk := true }
/-- SPAN_RESIZE. -/
def opSpanResize : OpInfo := { code := 0x0101, pf := true, trestle := false, pblk := true }
/-- SPAN_FREEZE, SPAN_THAW. -/
def opSpanFreeze : OpInfo := { code := 0x0102, pf := true, trestle := false, flags := 0x100, used := [(12, 1)] }
/-- SPAN_SAVE. -/
def opSpanSave : OpInfo := { code := 0x0103, pf := true, trestle := false, flags := 0x100, used := [(12, 1), (14, 2), (16, 16)] }
/-- SPAN_RESTORE. -/
def opSpanRestore : OpInfo := { code := 0x0104, pf := true, trestle := false, used := [(12, 1), (14, 2), (16, 16)] }
/-- SPAN_DESTROY. -/
def opSpanDestroy : OpInfo := { code := 0x0105, pf := true, used := [(12, 1)] }
/-- SPAN_QOS. -/
def opSpanQos : OpInfo := { code := 0x0106, pf := true, used := [(12, 1), (16, 4)] }
/-- MAP. -/
def opMap : OpInfo := { code := 0x0200, used := [(12, 6), (20, 6)], resvBits := [(24, 0xF0)] }
/-- UNMAP. -/
def opUnmap : OpInfo := { code := 0x0201, used := [(12, 6), (20, 4)] }
/-- PREFETCH_PLAN. -/
def opPrefetchPlan : OpInfo := { code := 0x0202, used := [(12, 1), (16, 12)] }
/-- PIN. -/
def opPin : OpInfo := { code := 0x0203, used := [(12, 6), (20, 5), (26, 2)] }
/-- MIGRATE. -/
def opMigrate : OpInfo := { code := 0x0204, trestle := false, used := [(12, 7)] }
/-- DECK_LOAD. -/
def opDeckLoad : OpInfo := { code := 0x0300, trestle := false, pblk := true }
/-- DECK_SWITCH. -/
def opDeckSwitch : OpInfo := { code := 0x0301, trestle := false, used := [(12, 1), (16, 38)] }
/-- DECK_RETIRE. -/
def opDeckRetire : OpInfo := { code := 0x0302, trestle := false, used := [(12, 1)] }
/-- ADAPTER_LOAD. -/
def opAdapterLoad : OpInfo := { code := 0x0310, trestle := false, pblk := true }
/-- ADAPTER_EVICT. -/
def opAdapterEvict : OpInfo := { code := 0x0311, trestle := false, flags := 4, used := [(12, 2)] }
/-- ADAPTER_CONTRACT. -/
def opAdapterContract : OpInfo := { code := 0x0312, trestle := false, used := [(12, 3), (16, 32)] }
/-- PROGRAM_LOAD. -/
def opProgramLoad : OpInfo := { code := 0x0400, used := [(16, 12)] }
/-- STEP_SUBMIT. -/
def opStepSubmit : OpInfo := { code := 0x0401, used := [(12, 38)], resvBits := [(13, 0xFE)] }
/-- STEP_CANCEL. -/
def opStepCancel : OpInfo := { code := 0x0402, used := [(12, 1), (16, 3)] }
/-- PROGRAM_UNLOAD. -/
def opProgramUnload : OpInfo := { code := 0x0403, used := [(12, 1)] }
/-- TABLE_CREATE. -/
def opTableCreate : OpInfo := { code := 0x0500, pblk := true, trestle := false }
/-- HOTSET_REFRESH. -/
def opHotsetRefresh : OpInfo := { code := 0x0501, trestle := false, used := [(12, 2), (16, 6), (24, 4)] }
/-- ROW_MIGRATE. -/
def opRowMigrate : OpInfo := { code := 0x0502, trestle := false, used := [(12, 2), (16, 6), (24, 2)] }
/-- SECURE_POLICY. -/
def opSecurePolicy : OpInfo := { code := 0x0600, pblk := true, trestle := false }
/-- SECURE_NOW. -/
def opSecureNow : OpInfo := { code := 0x0601, trestle := false }
/-- RESTORE. -/
def opRestore : OpInfo := { code := 0x0602, pblk := true, trestle := false }
/-- RANK_ADOPT. -/
def opRankAdopt : OpInfo := { code := 0x0603, pf := true, pblk := true, trestle := false, used := [(12, 2), (14, 1)] }
/-- RESHARD. -/
def opReshard : OpInfo := { code := 0x0604, trestle := false, used := [(12, 2), (14, 2)] }
/-- LOADTEST_PACK. -/
def opLoadtestPack : OpInfo := { code := 0x0700, pf := true, used := [(16, 12)] }
/-- LOADTEST_RUN. -/
def opLoadtestRun : OpInfo := { code := 0x0701, pf := true, trestle := false, used := [(12, 1), (14, 2)] }
/-- KAT_RUN. -/
def opKatRun : OpInfo := { code := 0x0702, pf := true, used := [(14, 2)] }
/-- HEALTH_QUERY. -/
def opHealthQuery : OpInfo := { code := 0x0703, frozen := true, used := [(16, 8)] }
/-- KEY_INSTALL. -/
def opKeyInstall : OpInfo := { code := 0x0800, frozen := true, pblk := true, used := [(12, 2)] }
/-- KEY_REVOKE. -/
def opKeyRevoke : OpInfo := { code := 0x0801, frozen := true, used := [(12, 2)] }
/-- ATTEST. -/
def opAttest : OpInfo := { code := 0x0802, frozen := true, used := [(16, 24)] }
/-- FW_STAGE. -/
def opFwStage : OpInfo := { code := 0x0810, pf := true, used := [(16, 12)] }
/-- FW_ACTIVATE. -/
def opFwActivate : OpInfo := { code := 0x0811, pf := true, trestle := false, used := [(12, 1)] }

/-- The opcodes that rings accept (R266). -/
def ringOpcodes : List OpInfo :=
  [opNop, opFence, opQuery, opSpanCreate, opSpanResize, opSpanFreeze, opSpanSave, opSpanRestore, opSpanDestroy, opSpanQos]
    ++ [opMap, opUnmap, opPrefetchPlan, opPin, opMigrate, opDeckLoad, opDeckSwitch, opDeckRetire, opAdapterLoad, opAdapterEvict]
    ++ [opAdapterContract, opProgramLoad, opStepSubmit, opStepCancel, opProgramUnload, opTableCreate, opHotsetRefresh, opRowMigrate]
    ++ [opSecurePolicy, opSecureNow, opRestore, opRankAdopt, opReshard, opLoadtestPack, opLoadtestRun, opKatRun, opHealthQuery]
    ++ [opKeyInstall, opKeyRevoke, opAttest, opFwStage, opFwActivate]

/-- What a ring makes of an opcode (R259, R266): none for one that is unknown or not accepted on rings. -/
def ringOpcode (code : Nat) : Option OpInfo := ringOpcodes.find? fun o => o.code == code

/-- Are all resv fields of a packet zero (R7, R257, R258)? -/
def OpInfo.resvOk (o : OpInfo) (p : Pkt) : Bool :=
  (p.flags.toNat &&& (0xFFFF - (2 + (if o.pblk then 1 else 0) + o.flags)) == 0)
    && resvZero ((if o.pblk then [(44, 8)] else []) ++ o.used.map fun u => (u.1 - 12, u.2)) p.body
    && o.resvBits.all fun (off, mask) => p.arg off 1 &&& mask == 0

/-- Does BAR0 answer: powered, from B3 on, the PCIe link up (R376, R377)? -/
def W.busUp (w : W) : Bool := w.pwr.alive && decide (3 ≤ w.pwr.phase) && !w.pwr.perst && w.pwr.linkUp

/-- Does the BN2 take commands at all: BAR0 answers, it is out of standby (R384) and not in an activation window (R393)? -/
def W.serving (w : W) : Bool := w.busUp && !w.pwr.standby && w.fw.act != 2

/-- Is a firmware activation draining or in its window (R393)? -/
def W.activating (w : W) : Bool := w.fw.act == 1 || w.fw.act == 2

/-- Would the BN2 read the next packet of this ring: the ring runs and is not empty, its completion ring has room, no FENCE
of it waits (R265), no immediate command of it waits for its effect (R264), its span is one whose rings are read (R284) and is not halted (R272), its home die is not in reset
(R382)? -/
def W.canRead (w : W) (fn r : Nat) : Bool :=
  let g := w.ring fn r
  let m := (w.sp fn).mode
  w.serving && decide (fn < 64) && decide (r < 16) && g.en && !g.stopping && g.sqHead != g.sqTail
    && g.held.isEmpty && w.cqFree fn r && g.fence.isNone
    && !(w.cmd.cmds.any fun c => c.holds && c.fn == fn && c.ring == r)
    && (m == .active || m == .frozen || m == .restoring) && !(w.sp fn).stopped
    && !(w.die (w.homeDie fn r)).resetting

/-- A reply to a packet that R259 refuses: the expected sequence stays. -/
def W.bounce (w : W) (p : Pkt) (st : Status) (d : Detail := .none) : W :=
  w.reply p.fn p.ring p.irqNow { tag := p.tag, seq := p.seq.toNat, status := st, detail := d }

/-- The packet at the head is read: the head moves on (R254). -/
def W.headRead (w : W) (fn r : Nat) : W := w.modRing fn r fun g => { g with sqHead := (g.sqHead + 1) % w.entries fn r }

/-- The packet is a command: the expected sequence moves on and the command has a number of its own (R259). -/
def W.seqTaken (w : W) (fn r : Nat) : W :=
  (w.modRing fn r fun g => { g with nextSeq := (g.nextSeq + 1) % 2 ^ 24 }).fresh.2

/-- What has happened to the ring when a command starts. -/
def W.taken (w : W) (p : Pkt) : W := (w.headRead p.fn p.ring).seqTaken p.fn p.ring

/-- The command that a packet is. -/
def W.cmdOf (w : W) (o : OpInfo) (p : Pkt) : Cmd :=
  { id := w.cmd.nextId, fn := p.fn, ring := p.ring, seq := p.seq.toNat, tag := p.tag, irq := p.irqNow, op := o.code }

/-- Why a packet is refused on being read, before it is a command (R259): status and detail. -/
def W.badPacket (w : W) (o : OpInfo) (p : Pkt) : Option (Status × Detail) :=
  if p.span.toNat ≠ p.fn then some (.refusedPermission, .none)
  else if p.seq.toNat ≠ (w.ring p.fn p.ring).nextSeq then
    some (.refusedFormat, .expectSeq (w.ring p.fn p.ring).nextSeq)
  else if !o.resvOk p then some (.refusedFormat, .none)
  else none

/-- Why a command is refused before it is looked at: by issuer (R266), by trestle mode (R270), by the span's state (R284) or
for a missing block (R260), in that order (log entry 10). -/
def W.turnedAway (w : W) (o : OpInfo) (p : Pkt) : Option Status :=
  if o.pf && p.fn != 0 then some .refusedPermission
  else if w.pwr.trestle && !o.trestle then some .trestleLimit
  else if (w.sp p.fn).mode != .active && !o.frozen then some .retryLater
  else if o.pblk && !p.pblk then some .refusedFormat
  else none

/-- The BN2 reads a packet and checks it (R259); one that passes is a command, which is turned away or else started by
`body`. -/
def W.intake (w : W) (o : OpInfo) (p : Pkt) (body : Cmd → W → W) : W :=
  if !w.canRead p.fn p.ring then w
  else
    match w.badPacket o p with
    | some (st, d) => (w.headRead p.fn p.ring).bounce p st d
    | none =>
      match w.turnedAway o p with
      | some st => (w.taken p).answer (w.cmdOf o p) st
      | none => body (w.cmdOf o p) (w.taken p)

/-- A packet whose opcode is unknown, or is not accepted on rings (R259, R266). -/
def W.intakeUnknown (w : W) (p : Pkt) : W :=
  if !w.canRead p.fn p.ring then w
  else
    let exp := (w.ring p.fn p.ring).nextSeq
    let w := w.modRing p.fn p.ring fun g => { g with sqHead := (g.sqHead + 1) % w.entries p.fn p.ring }
    if p.span.toNat ≠ p.fn then w.bounce p .refusedPermission
    else if p.seq.toNat ≠ exp then w.bounce p .refusedFormat (.expectSeq exp)
    else w.bounce p .refusedFormat

/-- A firmware activation that has not switched yet is abandoned; its command, or its Redfish request, is answered (R393, log entry 19). -/
def W.abandonActivation (w : W) (st : Status) : W :=
  if w.activating then
    let c := w.fw.actCmd
    let w := { w with fw.act := 3, fw.actCmd := none }
    (match c with
      | some (some c) => w.finish c st
      | some none => w.emit (.redfish 409 [])
      | none => w).event .firmware 0 true unitAbut
  else w

/-! ### Parapet replies (R273) -/

/-- Write a reply into a function's parapet reply ring of 16 entries, and signal it, where REPLY_EN is set. -/
def W.parReply (w : W) (fn : Nat) (x : Reply) : W :=
  let cfg := w.regv fn 0x1110
  if !bit cfg 31 then w
  else
    let p := w.par fn
    let base := w.regv fn 0x1108 + 2 ^ 32 * w.regv fn 0x110C
    let w := w.emit (.parReply fn (base + 32 * p.tail) p.phase x)
    let w := w.modPar fn fun p => { p with tail := (p.tail + 1) % 16, phase := if p.tail = 15 then !p.phase else p.phase }
    w.signal fn (cfg % 64)

/-- The final reply of an accepted parapet command, which frees its mailbox slot. -/
def W.parFinish (w : W) (id : Nat) (st : Status) (d : Detail := .none) : W :=
  match w.cmd.parJobs.find? fun j => j.id == id with
  | none => w
  | some j =>
    let w := { w with cmd.parJobs := w.cmd.parJobs.filter fun j => j.id != id }
    let w := w.modMbox j.fn j.slot fun m => { m with busy := none }
    w.parReply j.fn { tag := j.tag, seq := j.seq, status := st, detail := d }

end Sys2Proof.Machine
end

