-- ==== Sys2Proof/Machine/Memory.lean ====
section
/-! DEFINITION. Pages, channels, the spare pool, migration, and the HBM homes of tiles (R32 to R45, R56 to R62). -/

namespace Sys2Proof.Machine

open Sys2Proof

/-! ### Frames and channels -/

/-- Channel of a frame. -/
def chanOf (f : Nat) : Nat := f / 768
/-- Stack of a channel (R56). -/
def stackOf (c : Nat) : Nat := c / 32
/-- Physical address of a frame. -/
def frameAddr (f : Nat) : Nat := f * pageBytes

/-- Is a channel in service, in a stack that has joined? -/
def W.chanUsable (w : W) (c : Nat) : Bool :=
  (w.chan c).state == .inService && w.stackState (stackOf c) == .joined

/-- Lowest frame of a channel with a given use. -/
def W.frameIn (w : W) (c : Nat) (u : FrameUse) : Option Nat :=
  ((List.range 768).find? fun i => w.frame (768 * c + i) == u).map (768 * c + ·)

/-- Free frames (scrubbed, visible, not used) of a channel. -/
def W.freeCount (w : W) (c : Nat) (u : FrameUse) : Nat :=
  if w.chanUsable c then ((List.range 768).filter fun i => w.frame (768 * c + i) == u).length else 0

/-- Free pool pages of a stack (R60). -/
def W.stackPool (w : W) (k : Nat) : Nat :=
  ((List.range 32).map fun i => if w.chanUsable (32 * k + i) then (w.chan (32 * k + i)).pool else 0).sum

/-- The number below `n` with the largest value, the lowest on a tie. -/
def argmax (n : Nat) (f : Nat → Nat) : Nat :=
  (List.range n).foldl (fun best i => if f best < f i then i else best) 0

/-- Take a pool page: from the stack, then the channel, with the most free pool pages (R60); the last one is reported (R343). -/
def W.drawPool (w : W) : Option Nat × W :=
  let k := argmax 8 w.stackPool
  let c := 32 * k + argmax 32 (fun i => if w.chanUsable (32 * k + i) then (w.chan (32 * k + i)).pool else 0)
  if !w.chanUsable c || (w.chan c).pool = 0 then (none, w)
  else
    match w.frameIn c .spare with
    | none => (none, w)
    | some f =>
      let w := (w.setFrame f .poolUsed).modChan c fun x => { x with pool := x.pool - 1 }
      (some f, if w.poolFree = 0 then w.healthAll unitAbut (.rating BktClass.hbmChannel.num w.capacity) else w)

/-- A free visible page on a channel other than `c`, the lowest channel first. -/
def W.freeElsewhere (w : W) (c : Nat) : Option Nat :=
  (List.range 256).findSome? fun k => if k ≠ c && w.chanUsable k then w.frameIn k .free else none

/-- A new home for an evacuated page: a pool page (R60), else a free visible page elsewhere, which withdraws one page from
the visible capacity (R61), else none. -/
def W.newHome (w : W) (old : Nat) (pool : Bool) : Option Nat × W :=
  let (d, w1) := if pool then w.drawPool else (none, w)
  match d with
  | some f => (some f, w1)
  | none =>
    match w.freeElsewhere (chanOf old) with
    | some f => (some f, if pool then { w with hbm.withdrawn := w.hbm.withdrawn + 1 } else w)
    | none => (none, w)

/-- A visible page that nothing uses leaves service: a pool page takes its place in the visible capacity, after its scrub,
or the capacity falls by one page. -/
def W.withdrawFree (w : W) (f : Nat) : W :=
  match w.drawPool with
  | (some g, w) => (w.setFrame g .scrubWait).setFrame f .withdrawn
  | (none, w) => { w with hbm.withdrawn := w.hbm.withdrawn + 1 }.setFrame f .withdrawn

/-! ### Page tables -/

/-- The span and page homed in a frame, or 64 and the frame for a page of an image. -/
def W.userOf (w : W) (f : Nat) : Option (Nat × Nat) :=
  match w.hbm.pages.find? fun (_, e) => (e.map (·.frame)) == some (some f) with
  | some (k, _) => some (k / 2 ^ 27, k % 2 ^ 27)
  | none => if w.deck.images.any fun i => i.frames.contains f then some (64, f) else none

/-- Mark a page of a span for a save in progress (R299). -/
def W.markDirty (w : W) (n vp : Nat) : W :=
  match (w.sp n).save with
  | none => w
  | some s => w.modSp n fun x => { x with save := some { s with dirty := insertNat vp s.dirty } }

/-- A page that has no home left: later accesses end with ST_POISONED (R61); span and PF hear of it, by the page's name. A page
of an image is lost as its tiles (R221). -/
def W.loseHome (w : W) (n vp : Nat) : W :=
  if n = 64 then
    w.each (w.deck.images.filter fun i => i.frames.contains vp) fun i w =>
      let k := pageTiles * i.frames.idxOf vp
      (w.modImage i.id fun i => { i with damaged := true, bad := (List.range pageTiles).map (k + ·) ++ i.bad }).health i.owner
        unitAbut (.deckTile i.digest k)
  else
    let w := w.setPage n vp ((w.page n vp).map fun e => { e with frame := none, gone := true })
    w.health n unitAbut (.page vp)

/-- Give a page a new frame. -/
def W.repoint (w : W) (n vp old new : Nat) : W :=
  if n = 64 then
    { w with deck.images := w.deck.images.map fun (i : Image) => { i with frames := i.frames.map fun f => if f = old then new else f } }
  else w.setPage n vp ((w.page n vp).map fun e => { e with frame := some new })

/-- Use of a frame that holds a page, or an image's page. -/
def useOf (n : Nat) : FrameUse := if n = 64 then .image else .page

/-! ### Migration (R58 to R61) -/

/-- Start moving a page to a frame. -/
def W.startMove (w : W) (n vp old new : Nat) (evac : Bool) : W :=
  let m : PageMove := { span := n, page := vp, old := old, new := new, flipped := false, evac := evac }
  let w := { w with hbm.moves := w.hbm.moves ++ [m] }
  w.setFrame new (useOf n)

/-- Change a migration. -/
def W.modMove (w : W) (m : PageMove) (f : PageMove → PageMove) : W :=
  { w with hbm.moves := updateWhere (fun k => k == m) f w.hbm.moves }

/-- A frame whose page moves away, or has moved, leaves service when its old home is released: a pool page takes its place in the
visible capacity (R60), unless the page moves into the pool already. -/
def W.leaveOld (w : W) (m : PageMove) : W :=
  if m.evac then w
  else
    let w := w.modMove m fun m => { m with evac := true }
    match w.drawPool with
    | (some g, w) => w.setFrame g .scrubWait
    | (none, w) => { w with hbm.withdrawn := w.hbm.withdrawn + 1 }

/-- The new home of a migration leaves service before the flip: the copy starts anew to a page of the pool, or of another
channel; without one the page stays where it is. -/
def W.redirectMove (w : W) (m : PageMove) : W :=
  match w.newHome m.new true with
  | (some g, w) => ((w.modMove m fun m => { m with new := g }).setFrame g (useOf m.span)).setFrame m.new .withdrawn
  | (none, w) => { w with hbm.moves := w.hbm.moves.filter fun k => k != m }.setFrame m.new .withdrawn

/-- Evacuate what a frame holds (R60, R61): nothing for a frame that holds nothing but capacity, the start of a move for a
page, and its loss where no home remains. -/
def W.evacuate (w : W) (f : Nat) : W :=
  match w.frame f with
  | .free => w.withdrawFree f
  | .scrubWait => w.withdrawFree f
  | .spare => (w.setFrame f .withdrawn).modChan (chanOf f) fun x => { x with pool := x.pool - 1 }
  | .withdrawn => w
  | _ =>
    match w.hbm.moves.find? fun m => m.old == f with
    | some m => w.leaveOld m
    | none =>
      match w.hbm.moves.find? fun m => m.new == f && !m.flipped with
      | some m => w.redirectMove m
      | none =>
        match w.userOf f with
        | none => w.withdrawFree f
        | some (n, vp) =>
          match w.newHome f true with
          | (some g, w) => w.startMove n vp f g true
          | (none, w) => (w.loseHome n vp).setFrame f .withdrawn

/-- Every tile of a frame is marked poisoned (R42, R61). -/
def W.poisonFrame (w : W) (f : Nat) : W :=
  w.each (List.range pageTiles) fun i w =>
    let pa := frameAddr f + tileBytes * i
    w.putTile pa (w.tileAt pa).poisoned

/-- A page that cannot be read gets a new home at once, with every tile poisoned there, or loses its home (R61, R62). -/
def W.rehomePoisoned (w : W) (f : Nat) : W :=
  match w.hbm.moves.find? fun m => m.new == f && !m.flipped with
  | some m => w.redirectMove m
  | none =>
    let lost := w.hbm.moves.filter fun m => m.old == f
    let w := { w with hbm.moves := w.hbm.moves.filter fun m => m.old != f }
    let w := match w.userOf f with
      | none => w.setFrame f .withdrawn
      | some (n, vp) =>
        match (match lost.find? fun m => !m.flipped with | some m => (some m.new, w) | none => w.newHome f true) with
        | (some g, w) =>
          ({ w with ops := .page (frameAddr g) [] :: w.ops }.poisonFrame g).setFrame g (useOf n) |>.repoint n vp f g |>.setFrame f .withdrawn
        | (none, w) => (w.loseHome n vp).setFrame f .withdrawn
    w

/-- A channel with nothing left to evacuate is retired (R60). -/
def W.settleChannel (w : W) (c : Nat) : W :=
  if (w.chan c).state == .retiring && !(w.hbm.moves.any fun m => chanOf m.old == c) then
    w.modChan c fun x => { x with state := .retired }
  else w

/-- Retire a channel (R60): its pool pages are withdrawn, every readable page is evacuated. -/
def W.retireChannel (w : W) (c : Nat) (event : BktEvent) : W :=
  if (w.chan c).state != .inService then w
  else
    let w := w.modChan c fun x => { x with state := .retiring }
    let w := w.each (List.range 768) fun i w => w.evacuate (768 * c + i)
    let w := w.count 0 0x278 1
    let w := (w.judged unitAbut .hbmChannel c event).event .capacity 0 true unitAbut none (.rating BktClass.hbmChannel.num w.capacity)
    w.settleChannel c

/-- An event on a channel (class 3 of R332). -/
def W.channelEvent (w : W) (c : Nat) (event : BktEvent) : W :=
  match w.bucketAdd .hbmChannel c event with
  | (true, w) => w.retireChannel c event
  | (false, w) => w

/-- A row judged permanent (R338): repaired in service, or, when the channel has no repair left, its page is remapped into
the pool. A repair counts as an event of the channel (R332). The channel's last repair is reported (R343). -/
def W.repairRow (w : W) (f : Nat) : W :=
  let c := chanOf f
  if (w.chan c).ppr < Config.repairsPerChannel then
    let w := (w.modChan c fun x => { x with ppr := x.ppr + 1 }).channelEvent c .rowRepair
    if (w.chan c).ppr = Config.repairsPerChannel then w.healthAll unitAbut (.rating BktClass.hbmRow.num w.capacity) else w
  else w.evacuate f

/-- An event on the row that holds a tile of a frame (class 2 of R332). A repaired row starts afresh. DESIGN CHOICE (log entry 126): the
manual does not say how many tiles a DRAM row holds; here each tile is a row of its own. -/
def W.rowEvent (w : W) (f tile : Nat) (event : BktEvent) : W :=
  match w.bucketAdd .hbmRow (f * pageTiles + tile) event with
  | (true, w) =>
    let w := w.judged unitAbut .hbmRow (f * pageTiles + tile) event
    { w with integ.buckets := Sparse.erase w.integ.buckets (2 * 2 ^ 28 + f * pageTiles + tile) }.repairRow f
  | (false, w) => w

/-! ### Where an address lies (R34, R203) -/

/-- What a device address of a span resolves to. -/
inductive Loc where
  /-- A page of the span's own: physical address, WRITABLE. -/
  | home (pa : Nat) (writable : Bool)
  /-- A place in a deck slot's window: generation and image bound there, and the physical address. -/
  | deck (gen image : Nat) (pa : Nat)
  | unmapped
  /-- A page unmapped under R61. -/
  | lost
deriving DecidableEq, Repr

/-- The window of one generation of a slot, its first address and its pages: an older one keeps the window it had (R202, R219). -/
def DeckSlot.windowOf (s : DeckSlot) (gen : Nat) : Option (Nat × Nat) :=
  match s.olds.find? fun o => o.gen == gen with
  | some o => o.window.map fun b => (b, o.pages)
  | none => s.window.map fun b => (b, s.pages)

/-- The deck slot whose window holds a page, with the page's number in the window: of two windows the one that begins
higher (R202). A slot of a binding has the window of the generation bound. -/
def W.slotAt (w : W) (n vp : Nat) (binds : List Bind := []) : Option (Nat × Nat) :=
  let c := (List.range 16).filterMap fun k =>
    match (match binds.find? fun b => b.slot == k with
        | some b => (w.slot n k).windowOf b.gen
        | none => (w.slot n k).window.map fun b => (b, (w.slot n k).pages)) with
    | some (b, q) =>
      if b / pageBytes ≤ vp && decide (vp < b / pageBytes + q) && ((w.page n vp).map (·.deck)) == some true
      then some (k, vp - b / pageBytes) else none
    | none => none
  c.foldl (fun best x => match best with | none => some x | some y => if x.2 < y.2 then some x else some y) none

/-- Tile `t` of an image: its physical address. -/
def Image.tileAddr (i : Image) (t : Nat) : Option Nat :=
  if t < i.tiles then (i.frames[t / pageTiles]?).map fun f => frameAddr f + t % pageTiles * tileBytes else none

/-- Byte `o` of page `p` of an image: its physical address. Of the last page what lies behind the image's tiles is not there;
the padding behind the tiles of a full page is (R34). -/
def Image.byteAddr (i : Image) (p o : Nat) : Option Nat :=
  if o / tileBytes < pageTiles then (i.tileAddr (p * pageTiles + o / tileBytes)).map fun pa => pa + o % tileBytes
  else (i.frames[p]?).map fun f => frameAddr f + o

/-- Resolve a device address, of 48 bits (R34); `binds` gives the generation and image that each slot stands for. -/
def W.locate (w : W) (n : Nat) (binds : List Bind) (va : Nat) : Loc :=
  let vp := va / pageBytes
  match (if vp < 2 ^ 27 then w.page n vp else none) with
  | none => .unmapped
  | some e =>
    if e.deck then
      match w.slotAt n vp binds with
      | none => .unmapped
      | some (k, off) =>
        match binds.find? fun b => b.slot == k with
        | none => .unmapped
        | some b =>
          match w.image b.image with
          | none => .unmapped
          | some i =>
            match i.byteAddr off (va % pageBytes) with
            | some pa => .deck b.gen b.image pa
            | none => .unmapped
    else
      match e.frame with
      | some f => .home (frameAddr f + va % pageBytes) e.writable
      | none => if e.gone then .lost else .unmapped

/-- The bindings a host window sees: the current generation of every slot (R45). -/
def W.currentBinds (w : W) (n : Nat) : List Bind :=
  (List.range 16).filterMap fun k =>
    let s := w.slot n k
    s.current.map fun i => { slot := k, gen := s.gen, image := i }

/-- The stored tile at a tile address of a span's own pages. -/
def W.stored (w : W) (n va : Nat) : Option Tile :=
  match w.locate n [] va with
  | .home pa _ => some (w.tileAt pa)
  | _ => none

/-- A tile of a span with a policy has changed since the last secure point (R355). Which tiles are secured is asked when a point is taken, of
the policy then in force. -/
def W.touchSec (w : W) (n va : Nat) : W :=
  if (w.secOf n).isSome then w.modSec n fun s => { s with touched := insertNat va s.touched } else w

/-- A BN1 tile has been written through the host window (R355: such a tile is dirty when written). -/
def W.touchBn1 (w : W) (n va : Nat) : W :=
  match w.secOf n with
  | none => w
  | some s =>
    let p := s.policy
    if p.bn1 && decide (tileNo p.addrBn1 ≤ tileNo va) && decide (tileNo va < tileNo p.addrBn1 + p.bn1Tiles) then w.touchSec n va else w

/-- Write a tile to its HBM home (R39, R299): the write counter goes up, the keystone covers what is written, and the page
counts as dirty for a save. -/
def W.storeTile (w : W) (n va : Nat) (t : Tile) : W :=
  match w.locate n [] va with
  | .home pa _ => ((w.putTile pa (t.withGeneration ((w.tileAt pa).generation + 1))).markDirty n (va / pageBytes)).touchSec n va
  | _ => w

/-- Write a tile to its HBM home bit for bit, generation and keystone included (R356). -/
def W.storeExact (w : W) (n va : Nat) (t : Tile) : W :=
  match w.locate n [] va with
  | .home pa _ => ((w.putTile pa t).markDirty n (va / pageBytes)).touchSec n va
  | _ => w

/-- Mark a tile poisoned in its HBM home (R42). -/
def W.poisonHome (w : W) (n va : Nat) : W :=
  match w.locate n [] va with
  | .home pa _ => ((w.putTile pa (w.tileAt pa).poisoned).markDirty n (va / pageBytes)).touchSec n va
  | _ => w

/-- The near-memory update unit rewrites bytes of a tile in its HBM home (R179). -/
def W.rewriteTile (w : W) (n va : Nat) (t : Tile) : W :=
  match w.locate n [] va with
  | .home pa _ => ((w.putTile pa ((w.tileAt pa).rewritten t)).markDirty n (va / pageBytes)).touchSec n va
  | _ => w

/-- A read of a tile's HBM home is uncorrectable: the row has an event, and the tile carries poison from then on (R42, R57). -/
def W.spoilTile (w : W) (n va : Nat) : W :=
  match w.locate n [] va with
  | .home pa _ => (w.rowEvent (pa / pageBytes) (pa % pageBytes / tileBytes) .uncorrectable).poisonHome n va
  | _ => w

/-- A page joins the scrub queue (R297). -/
def W.freePage (w : W) (f : Nat) : W :=
  if (w.chan (chanOf f)).state == .inService then w.setFrame f .scrubWait else w.setFrame f .withdrawn

/-- Unmap a page: its home joins the scrub queue, a migration of it ends (R35, R297). -/
def W.dropPage (w : W) (n vp : Nat) : W :=
  match w.page n vp with
  | none => w
  | some e =>
    let ms := w.hbm.moves.filter fun m => m.span == n && m.page == vp
    let w := { w with hbm.moves := w.hbm.moves.filter fun m => !(m.span == n && m.page == vp) }
    let w := w.each ms fun m w => (if m.flipped then w.freePage m.old else w.freePage m.new).settleChannel (chanOf m.old)
    let w := match e.frame with | some f => w.freePage f | none => w
    w.setPage n vp none

/-! ### Tracing (R413, R414) -/

/-- Trace set-up of a span. -/
def W.traceOf (w : W) (n : Nat) : Option Trace := Sparse.get (fun _ => none) w.obs.traces n

/-- A trace record of a core (R413): written into the core's share, TRC_WPTR counted. Cycles are free values,
and so is whether the core's staging drained in time or the record is discarded and counted in TRC_DROPS (R414, log entry 93). -/
def W.trace (w : W) (n l kind ctx task seq : Nat) (body : List Byte) : W :=
  match w.traceOf n with
  | none => w
  | some t =>
    let k := t.cores.idxOf l
    let j := Sparse.get (fun _ => 0) w.obs.wptr l
    if !t.cores.contains l || w.owner l != n || !bit t.mask (kind - 1) || t.share == 0 || (t.stop && decide (t.share * 128 ≤ j)) then w
    else
      let va := tileAfter t.base (k * t.share + j / 128 % t.share)
      let rec_ := leBytes 8 (Config.timeStamp w.free).toNat ++ leBytes 1 kind ++ leBytes 1 ctx ++ leBytes 2 task ++ leBytes 4 seq
        ++ padTo 16 body
      let (v, w) := w.freeVal
      if bit v.toNat 0 then
        { w with obs.trcDrops := Sparse.modify (fun _ => 0) w.obs.trcDrops n fun d => min (2 ^ 32 - 1) (d + 1) }
      else
      let w := { w with free := w.free + 1, obs.wptr := Sparse.put (fun _ => 0) w.obs.wptr l ((j + 1) % 2 ^ 32) }
      w.with (w.stored n va) fun old w => w.storeTile n va ((old.setNum 4100 1 2).setBytes (32 * (j % 128)) rec_)

/-- A RESIDENCY record (R413): 0 fetch, 1 prefetch, 2 evict, 3 invalidate, 4 pin, 5 unpin, 6 write-back. -/
def W.resid (w : W) (l event va : Nat) (ahead : Bool) : W :=
  w.trace (w.owner l) l 5 0 0 0 (leBytes 1 event ++ leBytes 7 (if ahead then 0x80 else 0) ++ leBytes 6 va)

/-- SEQ field of a trace record: ring sequence, ring number in [31:24]. -/
def Step.traceSeq (x : Step) : Nat := x.seq % 2 ^ 24 + x.ring * 2 ^ 24

end Sys2Proof.Machine
end

