-- ==== Sys2Proof/Machine/Pads.lean ====
section
/-! DEFINITION. Scratchpads and their tile maps (R46 to R51), pins (R48, R49), and the account of cores: leaky buckets,
quarantine, retirement, spares (R332 to R337). -/

namespace Sys2Proof.Machine

open Sys2Proof

/-! ### Tile maps -/

/-- Slots that a logical core's span may use there: its share, less what failing rows withdrew (R285, R337). -/
def W.slotsOf (w : W) (l : Nat) : Nat :=
  match w.physOf l with
  | none => 0
  | some c => min (w.sp (w.owner l)).spadSlots (2880 - (w.phys c).withdrawn.length)

/-- Is this the entry of a tile address, and of a generation for DECK tiles (R203)? -/
def TileEnt.is (e : TileEnt) (va : Nat) (gen : Option Nat) : Bool := e.addr == va && e.gen == gen

/-- Entry of a tile in a core's tile map. -/
def W.ent (w : W) (l va : Nat) (gen : Option Nat) : Option TileEnt := (w.core' l).tiles.find? fun e => e.is va gen

/-- Change an entry. -/
def W.modEnt (w : W) (l va : Nat) (gen : Option Nat) (f : TileEnt → TileEnt) : W :=
  w.modCore l fun c => { c with tiles := updateWhere (fun e => e.is va gen) f c.tiles }

/-- Drop the entries that satisfy `p`. -/
def W.dropEnts (w : W) (l : Nat) (p : TileEnt → Bool) : W :=
  w.modCore l fun c => { c with tiles := c.tiles.filter fun e => !p e }

/-- Mark an entry as just used (R47). -/
def W.touch (w : W) (l va : Nat) (gen : Option Nat) : W :=
  let w := { w with core.clock := w.core.clock + 1 }
  w.modEnt l va gen fun e => { e with age := w.core.clock }

/-- May this entry be replaced (R47)? -/
def TileEnt.victim (e : TileEnt) : Bool := e.state == .clean && e.pin == .none && e.refs == 0

/-- Lowest slot number that no entry holds and no failing row withdrew. -/
def W.freeSlot (w : W) (l : Nat) : Nat :=
  let gone := ((w.physOf l).map fun c => (w.phys c).withdrawn).getD []
  ((List.range 2880).find? fun k => !((w.core' l).tiles.any fun e => e.slot == k) && !gone.contains k).getD 0

/-- The least recently used entry that may be replaced (R47). -/
def Core.lru (c : Core) : Option TileEnt :=
  (c.tiles.filter TileEnt.victim).foldl
    (fun best e => match best with | none => some e | some b => if e.age < b.age then some e else some b) none

/-- The least recently used tile that R47 lets go leaves a core. -/
def W.dropLru (w : W) (l : Nat) : W :=
  match (w.core' l).lru with
  | none => w
  | some e => (w.dropEnts l fun x => x.slot == e.slot).resid l 2 e.addr false

/-- Slots beyond the span's share, once SPAN_RESIZE has lowered it (R288), give up what R47 lets go, the least recently used first, at
most `k` of them. -/
def W.shrinkPad (w : W) (l : Nat) : Nat → W
  | 0 => w
  | k + 1 => if w.slotsOf l < (w.core' l).tiles.length then W.shrinkPad (w.dropLru l) l k else w

/-- Blocks that a descriptor stages in scratchpad take slots under R47: `k` tiles give way to them, never more than are free to go and
never one that the descriptor reads. -/
def W.stageSlots (w : W) (l : Nat) (reads : List (Nat × Option Nat)) (k : Nat) : W :=
  let n := ((w.core' l).tiles.filter fun e => e.victim && !reads.contains (e.addr, e.gen)).length
  (List.range (k % (n + 1))).foldl (fun w _ => w.dropLru l) w

/-- A slot for a new tile (R47): a free one, else the least recently used CLEAN one; none when the fetch has to wait. -/
def W.takeSlot (w : W) (l : Nat) : Option Nat × W :=
  let w := w.shrinkPad l ((w.core' l).tiles.length - w.slotsOf l)
  let c := w.core' l
  if c.tiles.length < w.slotsOf l then (some (w.freeSlot l), w)
  else
    match (if c.tiles.length = w.slotsOf l then c.lru else none) with
    | none => (none, w)
    | some e => (some e.slot, (w.dropEnts l fun x => x.slot == e.slot).resid l 2 e.addr false)

/-- Enter a tile in a tile map; without a slot nothing happens. -/
def W.enter (w : W) (l va : Nat) (gen : Option Nat) (st : SlotState) (pin : Pin) (pre : Bool) (t : Tile) : W :=
  match w.takeSlot l with
  | (none, w) => w
  | (some k, w) =>
    let w := { w with core.clock := w.core.clock + 1 }
    let e : TileEnt := { addr := va, slot := k, state := st, pin := pin, gen := gen, refs := 0, age := w.core.clock,
                         prefetch := pre, data := t }
    w.modCore l fun c => { c with tiles := c.tiles ++ [e] }

/-- Start a fetch (R46, R52, R53): a demand fetch takes over a prefetch of the same tile. Without a slot that R47 allows nothing
starts, and the fetch waits until there is one. -/
def W.startFetch (w : W) (l va : Nat) (gen : Option Nat) (pre : Bool) : W :=
  match w.ent l va gen with
  | some e => if e.state matches .fetching then (if pre then w else w.modEnt l va gen fun e => { e with prefetch := false }) else w
  | none => w.enter l va gen .fetching .none pre []

/-- Addresses of the spill tiles that a forwarding tile names (R80, R83); those that are no addresses of the span are left out. -/
def spillAddrs (va : Nat) (t : Tile) : List Nat :=
  if (t.format == 10 || t.format == 11) && t.overflow then
    let (off, fmt, cnt) := t.forward
    let base := (va : Int) + off
    if spillOk t.format fmt cnt && decide (0 ≤ base) then
      ((List.range cnt).map fun i => base.toNat + tileBytes * i).filter fun a => isTileAddr a
    else []
  else []

/-- Does the mover take this fetch before that one: demand before prefetch (R53), then the order of their start? -/
def TileEnt.before (a b : TileEnt) : Bool := (!a.prefetch && b.prefetch) || (a.prefetch == b.prefetch && decide (a.age < b.age))

/-- Fetches of a core: FETCHING slots. -/
def Core.fetches (c : Core) : List TileEnt := c.tiles.filter fun e => e.state matches .fetching

/-- Is a fetch among the 16 that the mover keeps outstanding (R22)? The others wait for one of them to end. -/
def Core.outstanding (c : Core) (e : TileEnt) : Bool := decide ((c.fetches.filter fun x => x.before e).length < 16)

/-- The core of a span that holds a HOT pin of a tile (R48), of a DECK tile under its generation. -/
def W.hotAt (w : W) (n va : Nat) (gen : Option Nat := none) : Option Nat :=
  (w.coresOf n).find? fun l => (w.core' l).tiles.any fun e => e.is va gen && e.pin == .hot

/-- The copy of a HOT-pinned tile in its pinning core's slot, once it is there (R48, R195). -/
def W.hotCopy (w : W) (n va : Nat) : Option (Nat × TileEnt) :=
  (w.hotAt n va).bind fun l => ((w.ent l va none).filter fun e => !(e.state matches .fetching)).map fun e => (l, e)

/-- The mover fetches the spill tiles of a forwarding tile with it (R83), but for those of a HOT pin elsewhere (R48). -/
def W.fetchSpills (w : W) (l va : Nat) (gen : Option Nat) (t : Tile) (pre : Bool) : W :=
  w.each (spillAddrs va t) fun a w => if (w.hotAt (w.owner l) a gen).isSome then w else w.startFetch l a gen pre

/-- What an engine of a core meets when it names a tile (R34, R46, R48, R61). -/
inductive Rd where
  /-- The tile, the core whose slot serves it, and the generation of a DECK tile. -/
  | data (t : Tile) (at_ : Nat) (gen : Option Nat)
  /-- Not resident: a demand fetch is needed. -/
  | missing (gen : Option Nat)
  | refused (st : Status)
deriving DecidableEq, Repr

/-- Read of one copy. -/
def W.readEnt (w : W) (l va : Nat) (gen : Option Nat) : Rd :=
  match w.ent l va gen with
  | some e => if e.state matches .fetching then .missing gen else .data e.data l gen
  | none => .missing gen

/-- Resolve a tile operand of a step on a core of its span. -/
def W.readAt (w : W) (n l : Nat) (binds : List Bind) (va : Nat) : Rd :=
  if !isTileAddr va then .refused .refusedFormat
  else
    match w.locate n binds va with
    | .unmapped => .refused .refusedPermission
    | .lost => .refused .poisoned
    | .deck g _ _ => w.readEnt ((w.hotAt n va (some g)).getD l) va (some g)
    | .home _ _ => w.readEnt ((w.hotAt n va).getD l) va none

/-- Why a tile may not be written by a step of a span (R34, R61); none when it may. -/
def W.writeFault (w : W) (n : Nat) (va : Nat) : Option Status :=
  if !isTileAddr va then some .refusedFormat
  else
    match w.locate n [] va with
    | .home _ true => none
    | .lost => some .poisoned
    | _ => some .refusedPermission

/-- An engine writes a tile in the scratchpad (R40, R48): in the pinning core's slot where a HOT pin stands. -/
def W.writePad (w : W) (n l va : Nat) (t : Tile) : W :=
  let l := (w.hotAt n va).getD l
  match w.ent l va none with
  | some _ => (w.modEnt l va none fun e => { e with data := t, state := .dirty, prefetch := false }).touch l va none
  | none => w.enter l va none .dirty .none false t

/-- Is there room in a core for the tiles of these addresses that it does not hold yet? None of the addresses gives way to another. -/
def W.roomFor (w : W) (l : Nat) (vas : List Nat) : Bool :=
  let c := w.core' l
  let new := (vas.filter fun va => !(c.tiles.any fun e => e.is va none)).dedup.length
  new == 0 || decide (c.tiles.length + new ≤ w.slotsOf l
    + (c.tiles.filter fun e => e.victim && !(e.gen.isNone && vas.contains e.addr)).length)

/-- Invalidate a CLEAN copy (R50); one that a STAY pin holds is fetched again (R48). -/
def W.invalidate (w : W) (l va : Nat) : W :=
  let hit := (w.core' l).tiles.any fun e => e.is va none && e.state == .clean && e.pin != .hot
  let w := if hit then { w.resid l 3 va false with core.clock := w.core.clock + 1 } else w
  w.modCore l fun c =>
    { c with tiles := c.tiles.filterMap fun e =>
        if e.is va none && e.state == .clean then
          (match e.pin with
           | .stay => some { e with state := .fetching, age := w.core.clock, data := [] }
           | .hot => some e
           | .none => none)
        else some e }

/-- Every core of a span but one invalidates its CLEAN copies of a tile (R50). -/
def W.invalidateOthers (w : W) (n l va : Nat) : W :=
  w.each ((w.coresOf n).filter fun k => k != l) fun k w => w.invalidate k va

/-! ### Core faults (R332 to R335) -/

/-- Span that a physical core serves: its logical core's owner; the PF for a spare. -/
def W.spanOfPhys (w : W) (c : Nat) : Nat := match w.logOf c with | some l => w.owner l | none => 0

/-- A core is judged permanently faulty: it takes no task any more and leaves service once its tasks have ended (R335). -/
def W.retireCore (w : W) (c : Nat) (event : BktEvent) : W :=
  if (w.phys c).state == .retired then w
  else
    let w := w.modPhys c fun p => { p with state := .retired }
    (w.count (w.spanOfPhys c) 0x278 1).judged ((w.logOf c).getD 0x7F) .core c event

/-- An event on a physical core (class 0 of R332). -/
def W.coreEvent (w : W) (c : Nat) (event : BktEvent) : W :=
  match w.bucketAdd .core c event with
  | (true, w) => w.retireCore c event
  | (false, w) => w

/-- The same for a logical core. -/
def W.coreEventAt (w : W) (l : Nat) (event : BktEvent) : W := w.with (w.physOf l) fun c w => w.coreEvent c event

/-- A core enters quarantine (R329, R334), a spare or a core under test too, unless it is already judged permanent. A run that tests
just this core then waits for the quarantine test (R347), and an automatic one is given up. -/
def W.quarantine (w : W) (c : Nat) : W :=
  if (w.phys c).state == .retired || (w.phys c).state == .quarantined then w
  else
    let w := w.modPhys c fun p => { p with state := .quarantined }
    let turn (j : TestJob) : TestJob := if j.cores = [c] && (j.kind = 0 || j.kind = 4) then { j with kind := 6 } else j
    let w := { w with core.tests := (w.core.tests.filter fun (j : TestJob) => !(j.kind == 3 && j.cores == [c])).map turn }
    (w.count (w.spanOfPhys c) 0x270 1).event .quarantine 0 true ((w.logOf c).getD 0x7F)

/-- Does a core of a cluster hold a task? -/
def W.busyCluster (w : W) (cl : Nat) : Bool :=
  w.step.steps.any fun x => x.phase == .compute && x.tasks.any fun t => !t.ended && (t.core.bind w.physOf).map (· / 9) == some cl

/-- Does a pending SPAN_CREATE or SPAN_RESIZE wait for a core to leave (R245, R288)? -/
def W.leaving (w : W) (l : Nat) : Bool :=
  w.span.spans.any fun (_, x) => ((x.resize.map (·.cores)).getD []).any fun m => m.1 == l

/-- May tasks be placed on a logical core (R237, R245, R288, R334, R345, R382)? -/
def W.placeable (w : W) (l : Nat) : Bool :=
  match w.physOf l with
  | none => false
  | some c => (w.phys c).state == .active && !(w.die (c / 36)).resetting && !(w.cluster (c / 9)).dead && !w.leaving l && !w.katHolds c

/-! ### Write-backs that belong to no step, and pins (R41, R48, R49, R334) -/

/-- A tile whose keystone does not hold is written poisoned, counted and reported, and fails no command (R41). -/
def W.writeBackFree (w : W) (n l : Nat) (e : TileEnt) : W :=
  if e.data.keystoneOk then w.storeTile n e.addr e.data
  else
    let w := (w.storeTile n e.addr e.data.poisoned).count n 0x248 1
    (w.coreEventAt l .coreKeystone).health n l (.tile e.addr)

/-- Write back the entries of a core that satisfy `p` and are DIRTY; they stay as CLEAN copies. -/
def W.flush (w : W) (n l : Nat) (p : TileEnt → Bool) : W :=
  let es := (w.core' l).tiles.filter fun e => e.state == .dirty && p e
  w.each es fun e w =>
    let w := w.writeBackFree n l e
    (w.modEnt l e.addr e.gen fun x => { x with state := .clean, data := (w.stored n e.addr).getD x.data }).resid l 6 e.addr false

/-- Pinned slots of a core, with those that a PIN still waits for. -/
def W.pinned (w : W) (l : Nat) : Nat :=
  ((w.core' l).tiles.filter fun e => e.pin != .none).length
    + (w.core.pinJobs.flatMap fun j => j.left.filter fun q => q.1 == l).length

/-- Do `k` further pins fit on a core (R49)? -/
def W.pinsFit (w : W) (l k : Nat) : Bool :=
  let p := w.pinned l + k
  decide (p ≤ 2304) && decide (p + w.reservedSlots (w.owner l) ≤ w.slotsOf l)

/-- Has a core a slot for a further tile now (R47)? -/
def W.hasSlot (w : W) (l : Nat) : Bool :=
  let c := w.core' l
  decide (c.tiles.length < w.slotsOf l + (c.tiles.filter TileEnt.victim).length)

/-- The other core of a span with the most free slots that can take one more pin and satisfies `ok`, the lowest number on a tie
(R334, R48, R49). -/
def W.pinPlace (w : W) (n l : Nat) (ok : Nat → Bool) : Option Nat :=
  let free k := w.slotsOf k - (w.core' k).tiles.length
  ((w.coresOf n).filter fun k => k != l && w.pinsFit k 1 && w.placeable k && ok k).foldl
    (fun best k => match best with | none => some k | some b => if free b < free k then some k else some b) none

/-- The core that takes the pin of this tile (R334): one that has a slot for it, or holds the tile already. -/
def W.pinTarget (w : W) (n l : Nat) (q : TileEnt) : Option Nat :=
  w.pinPlace n l fun k => (w.ent k q.addr q.gen).isSome || w.hasSlot k

/-- Pins of a core that still wait for a slot (R47) wait on another core of the span from now on (R15, R334); one that no core can take is
lost, and the span hears of it. -/
def W.moveWaiting (w : W) (n l : Nat) : W :=
  let mine (j : PinJob) : List (Nat × Nat) := if j.span = n then j.left.filter fun q => q.1 == l else []
  let qs := w.core.pinJobs.flatMap fun j => (mine j).map fun q => (j.cmd, q)
  w.each qs fun (cmd, q) w =>
    let next := w.pinPlace n l fun _ => true
    let turn (j : PinJob) : PinJob :=
      { j with left := match next with
          | some k => j.left.map fun p => if p = q then (k, p.2) else p
          | none => j.left.filter fun p => p != q }
    let w := { w with core.pinJobs := updateWhere (fun j => j.cmd == cmd) turn w.core.pinJobs }
    if next.isSome then w else w.health n l (.tile q.2)

/-- Move a core's pins to other cores of its span (R334 step 1): dirty ones are written back, a pin that no core can take
is lost and the span hears of it. Pins that wait for a slot there move too. -/
def W.movePins (w : W) (n l : Nat) : W :=
  let w := (w.moveWaiting n l).flush n l fun e => e.pin != .none
  let es := (w.core' l).tiles.filter fun e => e.pin != .none
  let w := w.dropEnts l fun e => e.pin != .none
  w.each es fun e w =>
    match w.pinTarget n l e with
    | none => w.health n l (.tile e.addr)
    | some k =>
      if (w.ent k e.addr e.gen).isSome then w.modEnt k e.addr e.gen fun x => { x with pin := e.pin }
      else w.enter k e.addr e.gen (if e.state matches .fetching then .fetching else .clean) e.pin false e.data

/-- A core's scratchpad is scrubbed: its tile map is empty, and no pin is kept for its return from a die reset or standby. -/
def W.scrubPad (w : W) (l : Nat) : W :=
  let w := w.modCore l fun _ => {}
  let other (q : Nat × Nat × Pin × Option Nat) : Bool := q.1 != l
  { w with pwr.pins := w.pwr.pins.filter other,
           core.dies := w.core.dies.map fun (k, (d : Die)) => (k, { d with pins := d.pins.filter other }) }

/-- A spare that an automatic test has under way is handed back (R346), with every other core of the test. -/
def W.freeSpares (w : W) (cl : Nat) : W :=
  let hit (j : TestJob) : Bool := j.kind == 3 && j.cores.any fun c => c / 9 == cl && (w.logOf c).isNone
  let js := w.core.tests.filter hit
  w.each (js.flatMap (·.cores)) (fun k w => w.modPhys k fun p =>
    if p.state == .testing then { p with state := if (w.logOf k).isSome then .active else .spare } else p)
    |> fun w => { w with core.tests := w.core.tests.filter fun j => !hit j }

/-- Cores of a cluster that are spares, those under test and in quarantine too: a logical number that is free waits for one of them
(R31, R335). -/
def W.sparesIn (w : W) (cl : Nat) : List Nat :=
  if (w.cluster cl).dead then []
  else ((List.range 9).map (9 * cl + ·)).filter fun c => (w.phys c).state != .retired && (w.logOf c).isNone

/-- The core of a cluster that stands by as its spare (R11, R335): position 8, or a part that the operator returned to service. -/
def W.spareOf (w : W) (cl : Nat) : Option Nat := ((List.range 9).map (9 * cl + ·)).find? fun c => (w.phys c).state == .spare

/-- Logical cores that have a physical core. -/
def W.liveCores (w : W) : Nat := ((List.range 128).filter fun l => (w.physOf l).isSome).length

/-- A spare takes a logical number (R335); the module's last spare is reported (R343). -/
def W.giveNumber (w : W) (l s : Nat) : W :=
  let w := (w.modPhys s fun p => { p with state := .active }).setPhysOf l (some s)
  if (List.range 16).any fun k => !(w.sparesIn k).isEmpty then w else w.healthAll unitAbut (.rating BktClass.core.num w.liveCores)

/-- The PF hears of logical numbers of a cluster that no core is left for (R335). -/
def W.numbersLost (w : W) (cl : Nat) : W :=
  if (w.sparesIn cl).isEmpty then w.health 0 unitAbut (.rating BktClass.core.num w.liveCores) else w

/-- The spare of a cluster takes a logical number (R335), or the number is left without a core: for good, or until a spare is back from
a test. -/
def W.replaceCore (w : W) (l c : Nat) : W :=
  let w := (w.scrubPad l).setPhysOf l none |>.freeSpares (c / 9)
  match (if (w.cluster (c / 9)).dead then none else w.spareOf (c / 9)) with
  | some s => w.giveNumber l s
  | none => w.numbersLost (c / 9)

/-- The logical numbers of a cluster that have no core: R11 gives cluster k the numbers 8k to 8k + 7. -/
def W.emptyNumber (w : W) (cl : Nat) : Option Nat := ((List.range 8).map (8 * cl + ·)).find? fun l => (w.physOf l).isNone

/-- A core without a logical number comes into service: it takes a number of its cluster that has no core, or stands by (R335). -/
def W.standBy (w : W) (c : Nat) : W :=
  let w := w.modPhys c fun p => { p with state := .spare }
  match (if (w.cluster (c / 9)).dead then none else w.emptyNumber (c / 9)) with
  | some l => w.giveNumber l c
  | none => w

/-- Cores under test are handed back without a result; one in quarantine stays there (R334). -/
def W.handBack (w : W) (cs : List Nat) : W :=
  w.each cs fun c w =>
    if (w.phys c).state != .testing then w
    else if (w.logOf c).isSome then w.modPhys c fun p => { p with state := .active }
    else w.standBy c

/-- A slot stays withdrawn (R337): the tile that it held moves to another slot, and where there is none it leaves the map; its pin is then
lost, and the span hears of it. -/
def W.withdrawSlot (w : W) (c k : Nat) : W :=
  let w := w.modPhys c fun p => { p with withdrawn := insertNat k p.withdrawn }
  w.with (w.logOf c) fun l w => w.with ((w.core' l).tiles.find? fun e => e.slot == k) fun e w =>
    match (w.dropEnts l fun x => x.slot == k).takeSlot l with
    | (some j, w) => w.modCore l fun x => { x with tiles := x.tiles ++ [{ e with slot := j }] }
    | (none, w) => if e.pin = .none then w else w.health (w.owner l) l (.tile e.addr)

/-- A scratchpad row is judged permanent (R337): a redundant row of its bank replaces it, the bank's last one with a report (R343), or else
the slots that it covers (log entry 21) stay withdrawn, and the core is retired when it can no longer meet its span's share, pins and
reservations. -/
def W.repairSram (w : W) (c bank : Nat) (slots : List Nat) : W :=
  let left := (w.phys c).rows.getD bank 0
  if 0 < left then
    let w := w.modPhys c fun p => { p with rows := p.rows.set bank (left - 1) }
    if left = 1 then w.healthAll ((w.logOf c).getD 0x7F) (.rating BktClass.sramRow.num (2880 - (w.phys c).withdrawn.length)) else w
  else
    let w := w.each (slots.filter fun k => decide (k < 2880)) fun k w => w.withdrawSlot c k
    let n := w.spanOfPhys c
    let usable := 2880 - (w.phys c).withdrawn.length
    let need := match w.logOf c with
      | some l => max (w.sp n).spadSlots (w.pinned l + w.reservedSlots n)
      | none => 0
    if usable < need then w.retireCore c .slots else w

end Sys2Proof.Machine
end

