-- ==== Sys2Proof/Machine/Fabric.lean ====
section
/-! DEFINITION. Sending on Viaduct (R307 to R316), and the ports (R322 to R324). -/

namespace Sys2Proof.Machine

open Sys2Proof

/-- Frame types (R313, R320). -/
def tyPut : Nat := 0x01
/-- GET_REQ. -/
def tyGetReq : Nat := 0x02
/-- GET_RESP. -/
def tyGetResp : Nat := 0x03
/-- ROW_REC. -/
def tyRowRec : Nat := 0x04
/-- COLL. -/
def tyColl : Nat := 0x05
/-- ACK. -/
def tyAck : Nat := 0x80
/-- NACK. -/
def tyNack : Nat := 0x81
/-- CLOSE. -/
def tyClose : Nat := 0x82
/-- VOID. -/
def tyVoid : Nat := 0x83
/-- ACCEPT. -/
def tyAccept : Nat := 0x84
/-- DIR_UPDATE. -/
def tyDir : Nat := 0x85
/-- REDIRECT. -/
def tyRedirect : Nat := 0x86
/-- FLOW_RESET. -/
def tyFlowReset : Nat := 0x87
/-- RANK_MOVED. -/
def tyRankMoved : Nat := 0x88

/-- Ports in service. -/
def W.portsUp (w : W) : List Nat := (List.range 9).filter fun p => (w.port p).state == .up

/-- The first port in service from `k` on, or else the lowest (R311: every port in turn). -/
def W.portFrom (w : W) (k : Nat) : Nat := (w.portsUp.find? (k ≤ ·)).getD (w.portsUp.headD 0)

/-- The port that an acknowledgement or a refusal takes. -/
def W.nextPort (w : W) : Nat × W :=
  let p := w.portFrom w.vdt.stripe
  (p, { w with vdt.stripe := p + 1 })

/-- Entry of the rank table (R309). -/
def W.rankAddr (w : W) (r : Nat) : BitVec 128 := Sparse.get (fun _ => 0#128) w.vdt.ranks r

/-- Key handle of an installed slot (R295). -/
def W.keyHandle (w : W) (k : Nat) : Nat := k + (w.keySlot k).count % 2 ^ 20 * 4096

/-- Can frames for this rank go out: the module has a rank (R325), the entry is not zero (R309), and a port is up? -/
def W.reaches (w : W) (rank : Nat) : Bool := w.rank.isSome && (w.rankAddr rank != 0#128) && !w.portsUp.isEmpty

/-- How a frame for a rank goes out at a port (R307): VDT_CFG gives the UDP port and the DSCP of the channel, VDT_PORT_CFG the tag. -/
def W.wire (w : W) (rank port : Nat) (ctrl : Bool) : Wire :=
  let cfg := w.regv 0 0x7004
  let pc := w.regv 0 (0x7040 + 4 * port)
  { port := port, base := w.rankAddr rank, udp := cfg % 65536, dscp := if ctrl then cfg / 2 ^ 26 else cfg / 2 ^ 20 % 64,
    vlan := if bit pc 1 then some (pc / 4 % 4096) else none }

/-- A frame goes out at a port. -/
def W.emitFrame (w : W) (f : Frame) (port : Nat) : W := w.emit (.frame f (w.wire f.dstRank port f.ctrl))

/-- May frames of a span for this rank go out under a key: can they be sent, and is neither the span's egress stopped (R272) nor the key
revoked (R296)? -/
def W.mayEmit (w : W) (n rank key : Nat) : Bool :=
  w.reaches rank && !(w.sp n).stopVdt
    && (key == 0 || ((w.keySlot (key % 4096)).state == .installed && w.keyHandle (key % 4096) == key))

/-- Does a FLOW_RESET that names a flow's index wait to be sent or to be acknowledged? The index then stays taken, for the receiver
still counts by the old numbers (log entry 26). -/
def W.resetOpen (w : W) (i : Nat) : Bool :=
  (w.vdt.flows.any fun f => f.sent.any fun p => p.frame.ty == tyFlowReset && p.frame.arg == i && f.id != i)
    || w.vdt.waiting.any fun u => u.ty == tyFlowReset && u.arg == i

/-- The lowest index that names no flow. -/
def W.freeFlow (w : W) : Option Nat := (List.range 4096).find? fun i => !(w.vdt.flows.any fun f => f.id == i) && !w.resetOpen i

/-- Is there a flow, or room to open one (R311)? -/
def W.flowRoom (w : W) (n rank dstSpan key : Nat) (ctrl : Bool) : Bool :=
  (w.vdt.flows.any fun f => f.span == n && f.rank == rank && f.dstSpan == dstSpan && f.key == key && f.ctrl == ctrl)
    || w.freeFlow.isSome

/-- The flow of a span to a rank, a span there and a key, on a channel; a new one where none is open (R311). The lowest free
index names it. It starts at 25 GB/s (R315). -/
def W.openFlow (w : W) (n rank dstSpan key : Nat) (ctrl : Bool) : Option Flow × W :=
  match w.vdt.flows.find? fun f => f.span == n && f.rank == rank && f.dstSpan == dstSpan && f.key == key && f.ctrl == ctrl with
  | some f => (some f, w)
  | none =>
    match w.freeFlow with
    | none => (none, w)
    | some i =>
      let psn := ((w.vdt.closed.find? fun c => c.1 == rank && c.2.1 == i && c.2.2.1 == ctrl).map (·.2.2.2)).getD 0
      let f : Flow := { id := i, span := n, rank := rank, dstSpan := dstSpan, key := key, ctrl := ctrl, psn := psn, sent := [],
                        rate := 250000, minRtt := 0, cut := none }
      (some f, { w with vdt.flows := w.vdt.flows ++ [f] })

/-- Send one packet on its flow. It stays on the flow until it is acknowledged (R312, R313); without a free flow it waits for
one (R311). -/
def W.sendPacket (w : W) (n rank dstSpan key : Nat) (ctrl : Bool) (ty arg : Nat) (payload : List Byte) (step : Option Nat) : W :=
  match w.openFlow n rank dstSpan key ctrl with
  | (none, w) =>
    let u : Unsent := { span := n, rank := rank, dstSpan := dstSpan, key := key, ctrl := ctrl, ty := ty, arg := arg, payload := payload, step := step }
    { w with vdt.waiting := w.vdt.waiting ++ [u] }
  | (some f, w) =>
    let p := w.portFrom f.stripe
    let fr : Frame :=
      { ty := ty, ctrl := ctrl, ackreq := Config.ackReq ty f.psn, enc := key != 0, srcRank := w.rank.getD 0xFFFF, dstRank := rank,
        srcSpan := n, dstSpan := dstSpan, group := BitVec.ofNat 32 (w.group n), psn := f.psn, key := key, flow := f.id, arg := arg,
        payload := payload }
    let w := w.modFlow f.id fun f =>
      { f with psn := (f.psn + 1) % 2 ^ 24, stripe := p + 1, sent := f.sent ++ [{ frame := fr, tries := 0, port := p, step := step }] }
    if w.mayEmit n rank key then w.emitFrame fr p else w

/-! ### Messages and their parts

A message that may be longer than a packet of STD mode (R308) goes in parts: packets of 4,096 bytes, and a last one that is shorter, on one
flow one after another (log entry 22). -/

/-- ARG of an answer to a look-up, which no tile address equals. -/
def lookArg : Nat := 2 ^ 63

/-- ARG of a row-update record: the epoch in [31:0], the table in [47:32] (log entry 22). -/
def recArg (id epoch : Nat) : Nat := 2 ^ 32 * id + epoch

/-- ARG of a copied row: bit 56, the table in [55:40], the local index at the new home in [39:0] (log entry 22). -/
def copyArg (id j : Nat) : Nat := 2 ^ 56 + 2 ^ 40 * id + j

/-- Is a packet of this type a part of a copied row (R198)? -/
def isCopy (ty arg : Nat) : Bool := ty == tyPut && arg / 2 ^ 56 == 1

/-- ARG of a partial segment on its way: bit 60, the source rank in [59:46], the restoring rank in [45:32], the number of its first data
unit as for a parity delta (log entry 22). -/
def partArg (dest source unit : Nat) : Nat := 2 ^ 60 + 2 ^ 46 * source + 2 ^ 32 * dest + unit

/-- Is a packet of this type a partial segment (R363)? -/
def isPart (ty arg : Nat) : Bool := ty == tyColl && arg / 2 ^ 60 == 1

/-- Does a message of this type go in parts? -/
def inParts (ty arg : Nat) : Bool :=
  ty == tyRowRec || isCopy ty arg || (ty == tyColl && !isPart ty arg) || (ty == tyGetResp && arg == lookArg)

/-- The parts of a message. -/
def msgParts (b : List Byte) : List (List Byte) := (List.range (b.length / 4096 + 1)).map fun i => (b.drop (4096 * i)).take 4096

/-- Send a message to a span of a rank, in parts where its type goes in parts. -/
def W.send (w : W) (n rank dstSpan key : Nat) (ctrl : Bool) (ty arg : Nat) (payload : List Byte) (step : Option Nat) : W :=
  if inParts ty arg then w.each (msgParts payload) fun b w => w.sendPacket n rank dstSpan key ctrl ty arg b step
  else w.sendPacket n rank dstSpan key ctrl ty arg payload step

/-- Send a control message (R320) to a span of a rank; same span number there. -/
def W.sendCtl (w : W) (n rank ty arg : Nat) (payload : List Byte) : W := w.send n rank n 0 true ty arg payload none

/-! ### What is held of received flows (R312) -/

/-- What this module holds of a received flow. -/
def W.rx (w : W) (f : Frame) : RxFlow :=
  (w.vdt.rxs.find? fun r => r.rank == f.srcRank && r.flow == f.flow && r.ctrl == f.ctrl).getD
    { rank := f.srcRank, flow := f.flow, ctrl := f.ctrl, span := f.dstSpan, srcSpan := f.srcSpan, next := 0, held := [], unacked := 0 }

/-- Set what it holds. -/
def W.setRx (w : W) (r : RxFlow) : W :=
  { w with vdt.rxs := (w.vdt.rxs.filter fun q => !(q.rank == r.rank && q.flow == r.flow && q.ctrl == r.ctrl)) ++ [r] }

/-- Where a PSN lies relative to a cumulative one, modulo 2^24. -/
def psnPos (psn cum : Nat) : Nat := (psn + 2 ^ 24 - cum) % 2 ^ 24

/-- A packet is refused: no acknowledgement covers it while it is among the last 1,024 of its flow (R317, log entry 145). -/
def RxFlow.refuse (r : RxFlow) (psn reason : Nat) : RxFlow :=
  { r with refused := (r.refused.filter fun q => q.1 != psn && decide (psnPos r.next q.1 ≤ 1024)) ++ [(psn, reason)] }

/-- Answer a frame with a NACK and its reason (R317). Acknowledgements and refusals are not themselves acknowledged, and none
goes out for a span whose egress is stopped (R272), nor to a rank without an entry (R309). -/
def W.nackOut (w : W) (f : Frame) (reason : Nat) : W :=
  let g : Frame := { f with ty := tyNack, ctrl := true, ackreq := Config.ackReq tyNack f.psn, enc := false, key := 0, srcRank := f.dstRank,
                            dstRank := f.srcRank, srcSpan := f.dstSpan, dstSpan := f.srcSpan,
                            group := BitVec.ofNat 32 (w.group f.dstSpan), arg := f.psn, payload := leBytes 1 reason }
  if (w.sp f.dstSpan).stopVdt then { w with vdt.nacks := w.vdt.nacks ++ [g] }
  else if w.reaches g.dstRank then let (p, w) := w.nextPort; w.emitFrame g p
  else w

/-- Refuse a frame (R317). -/
def W.nackTo (w : W) (f : Frame) (reason : Nat) : W := (w.setRx ((w.rx f).refuse f.psn reason)).nackOut f reason

/-- Packets that waited for a free flow go out while there is room (R311), and refusals held back while egress was stopped (R272). -/
def W.sendWaiting (w : W) : W :=
  let held (g : Frame) : Bool := (w.sp g.srcSpan).stopVdt
  let gs := w.vdt.nacks.filter fun g => !held g && w.reaches g.dstRank
  let w := { w with vdt.nacks := w.vdt.nacks.filter held }
  let w := w.each gs fun g w => let (p, w) := w.nextPort; w.emitFrame g p
  let us := w.vdt.waiting
  w.each us fun u w =>
    if w.flowRoom u.span u.rank u.dstSpan u.key u.ctrl then
      ({ w with vdt.waiting := w.vdt.waiting.drop 1 }).sendPacket u.span u.rank u.dstSpan u.key u.ctrl u.ty u.arg u.payload u.step
    else { w with vdt.waiting := w.vdt.waiting.drop 1 ++ [u] }

/-- Number packets from 0 on. -/
def renumber (l : List SentPkt) : List SentPkt := l.zipIdx.map fun (p, i) => { p with frame := { p.frame with psn := i }, tries := p.tries + 1 }

/-- Forget where a flow's numbers stood. -/
def W.forgetPsn (w : W) (rank i : Nat) (ctrl : Bool) : W :=
  { w with vdt.closed := w.vdt.closed.filter fun c => !(c.1 == rank && c.2.1 == i && c.2.2.1 == ctrl) }

/-- Close a flow whose numbers go on when it is opened again. -/
def W.closeFlow (w : W) (f : Flow) : W :=
  let w := w.forgetPsn f.rank f.id f.ctrl
  { w with vdt.flows := w.vdt.flows.filter fun g => g.id != f.id, vdt.closed := w.vdt.closed ++ [(f.rank, f.id, f.ctrl, f.psn)] }

/-- Records that are dropped with no acknowledgement: their epoch gets no CLOSE to that rank (R319). -/
def W.loseRecords (w : W) (n rank : Nat) (args : List Nat) : W :=
  w.each args fun a w => w.modTable n (a / 2 ^ 32) fun t => { t with lost := t.lost.erase (a % 2 ^ 32, rank) ++ [(a % 2 ^ 32, rank)] }

/-- ARGs of the row-update records that a flow has sent. -/
def Flow.records (f : Flow) : List Nat := f.sent.filterMap fun p => if p.frame.ty = tyRowRec then some p.frame.arg else none

/-- Drop a flow's packets; the receiver is told to discard what it holds (R314, R321). A data flow closes, and numbers start anew. A
control flow goes on from the number of its own FLOW_RESET, with those for other flows after it (log entry 26). -/
def W.resetFlow (w : W) (i : Nat) : W :=
  match w.flow i with
  | none => w
  | some f =>
    if f.ctrl then
      let others := f.sent.filterMap fun p => if p.frame.ty = tyFlowReset && p.frame.arg != i then some p.frame.arg else none
      let w := w.modFlow i fun f => { f with sent := [] }
      w.each (i :: others) fun k w => w.send f.span f.rank f.dstSpan f.key true tyFlowReset k [] none
    else
      let w := { w with vdt.flows := w.vdt.flows.filter fun f => f.id != i }
      ((w.forgetPsn f.rank i false).loseRecords f.span f.rank f.records).sendCtl f.span f.rank tyFlowReset f.id []

/-- Send a packet again (R313): counted, and striped anew. While it may not go out, nothing happens. -/
def W.resend (w : W) (i psn : Nat) : W :=
  match w.flow i with
  | none => w
  | some f =>
    match f.sent.find? fun p => p.frame.psn == psn with
    | none => w
    | some p =>
      if w.mayEmit f.span f.rank f.key then
        let q := w.portFrom f.stripe
        let w := w.modFlow i fun f =>
          { f with stripe := q + 1,
                   sent := updateWhere (fun p => p.frame.psn == psn) (fun p => { p with tries := p.tries + 1, port := q }) f.sent }
        (w.count f.span 0x230 1).emitFrame p.frame q
      else w

/-- Retire a port (R324): its unacknowledged packets go again over the others; the PF hears of it. -/
def W.retirePort (w : W) (p : Nat) (event : BktEvent) : W :=
  if (w.port p).state == .retired then w
  else
    let w := w.modPort p fun x => { x with state := .retired }
    let lost := (w.vdt.flows.map fun f => (f.sent.filter fun s => s.port == p).map fun s => (f.id, s.frame.psn)).flatten
    let w := w.each lost fun (i, psn) w => w.resend i psn
    let w := (w.count 0 0x278 1).judged unitVdt .vdtPort p event
    let left : Subject := .rating BktClass.vdtPort.num ((List.range 9).filter fun q => (w.port q).state != .retired).length
    (w.event .capacity 0 true unitVdt none left).health 0 unitVdt left

/-- An event of a weight on a port (class 4 of R332). -/
def W.portEvent (w : W) (p : Nat) (event : BktEvent) : W :=
  match w.bucketAdd .vdtPort p event with
  | (true, w) => w.retirePort p event
  | (false, w) => w

/-- An event of a weight on a crypto engine (class 5): at THRESH it is retired, and its work restarts elsewhere (R340). -/
def W.cryptoEvent (w : W) (i : Nat) (event : BktEvent) : W :=
  match w.bucketAdd .crypto i event with
  | (true, w) =>
    if w.integ.crypto.contains i then w
    else
      let l := insertNat i w.integ.crypto
      let w := ({ w with integ.crypto := l }.count 0 0x278 1).judged unitCrypto .crypto i event
      if 4 ≤ l.length then w.healthAll unitCrypto (.rating BktClass.crypto.num (36 - l.length)) else w
  | (false, w) => w

/-- A keystone mismatch at ingress: an event of the crypto engine to which it is attributed (R332). Which engine that is, if any, is
open: a free value (log entry 95). -/
def W.ingressMismatch (w : W) : W :=
  let (v, w) := w.freeVal
  if v.toNat % 37 < 36 then w.cryptoEvent (v.toNat % 37) .ingressKeystone else w

end Sys2Proof.Machine
end

