-- ==== Sys2Proof/Machine/Images.lean ====
section
/-! DEFINITION. Deck images, generations, requests and adapters as shared operations need them (R211 to R217, R225 to
R228). -/

namespace Sys2Proof.Machine

open Sys2Proof

/-- Has the step been admitted, and not ended (R23)? -/
def Step.admitted (x : Step) : Bool := x.phase == .compute || x.phase == .commit

/-- Is a generation of a slot bound by an admitted step? -/
def W.boundBySteps (w : W) (n k gen : Nat) : Bool :=
  w.step.steps.any fun x => x.span == n && x.admitted && x.binds.any fun b => b.slot == k && b.gen == gen

/-- Is a generation of a slot bound by an open request (R213, R228)? -/
def W.boundByRequests (w : W) (n k gen : Nat) : Bool :=
  w.deck.requests.any fun r => r.span == n && r.binds.any fun b => b.slot == k && b.gen == gen

/-- Does any slot, load or waiting switch refer to an image (R217, R218)? -/
def W.imageUsed (w : W) (i : Nat) : Bool :=
  (w.deck.slots.any fun (_, s) => s.current == some i || (s.olds.any fun o => o.image == i) || s.staged == some i
      || (s.waiting.map (·.2)) == some i)
    || w.deck.loads.any fun l => l.image == i

/-- Free an image: its pages join the scrub queue (R217, R297). -/
def W.freeImage (w : W) (i : Nat) : W :=
  match w.image i with
  | none => w
  | some im =>
    let w := { w with deck.images := w.deck.images.filter fun x => x.id != i,
                      hbm.moves := w.hbm.moves.filter fun m => !(m.span == 64 && im.frames.contains m.old) }
    w.each im.frames fun f w => w.freePage f

/-- Free an image that nothing refers to any more (R217). -/
def W.reap (w : W) (i : Nat) : W := if w.imageUsed i then w else w.freeImage i

/-- A generation of a slot is gone: no access can name it any more, and its copies leave the scratchpads (R203). -/
def W.dropGen (w : W) (n k gen : Nat) : W :=
  let mine (va : Nat) : Bool := (w.slotAt n (va / pageBytes) [{ slot := k, gen := gen, image := 0 }]).map (·.1) == some k
  w.each (w.coresOf n) fun l w => w.dropEnts l fun e => e.gen == some gen && mine e.addr

/-- A retirement no longer waits for a generation; its final reply follows when it waits for none (R219). -/
def W.settleRetired (w : W) (n k gen : Nat) : W :=
  let left := (w.slot n k).retiring.map fun (c, gs) => (c, gs.filter fun g => g != gen)
  let w := w.modSlot n k fun s => { s with retiring := left.filter fun q => !q.2.isEmpty }
  w.finishAll ((left.filter fun q => q.2.isEmpty).map (·.1)) .ok

/-- Release an older generation of a slot (R217, R219): its copies go, its image where nothing else refers to it. -/
def W.releaseGen (w : W) (n k gen : Nat) : W :=
  match (w.slot n k).olds.find? fun o => o.gen == gen with
  | none => w
  | some o =>
    ((((w.dropGen n k gen).modSlot n k fun s => { s with olds := s.olds.filter fun o => o.gen != gen }).reap o.image).settleRetired n k gen)

/-- The next generation number: 0 is skipped on wrap (R204). -/
def nextGen (g : Nat) : Nat := if g + 1 = 2 ^ 32 then 1 else g + 1

/-- Open request of a span by REQ_ID. -/
def W.request (w : W) (n id : Nat) : Option OpenReq := w.deck.requests.find? fun r => r.span == n && r.reqId == id

/-- Reference count of an adapter: open requests that name it plus admitted steps that bind it. -/
def W.adapterCount (w : W) (h : Nat) : Nat :=
  (w.deck.requests.filter fun r => r.handle == h && !r.grace).length
    + (w.step.steps.filter fun x => x.admitted && x.adapters.contains h).length

/-- A COLD adapter's factors are valid only while it is bound, or while a step for which they came waits for its admission (R226). -/
def W.settleCold (w : W) (h : Nat) : W :=
  if w.adapterCount h = 0 && !(w.step.steps.any fun x => x.phase != .ended && x.reloaded.contains h) then w.modAdapter h fun a => if a.cls = 2 then { a with valid := false } else a else w

/-- Close a request (R213, R228). -/
def W.closeRequest (w : W) (n id : Nat) : W :=
  let hs := (w.deck.requests.filter fun r => r.span == n && r.reqId == id).map (·.handle)
  let w := { w with deck.requests := w.deck.requests.filter fun r => !(r.span == n && r.reqId == id) }
  w.each hs fun h w => w.settleCold h

/-- Current image digest of a bound generation. -/
def W.digestOf (w : W) (i : Nat) : Option (BitVec 256) := (w.image i).map (·.digest)

/-- Image of a resident generation of a slot: the current one or an older one. -/
def W.genImage (w : W) (n k gen : Nat) : Option Nat :=
  let s := w.slot n k
  if s.gen = gen && s.current.isSome then s.current else (s.olds.find? fun o => o.gen == gen).map (·.image)

/-- The slots of a span that hold a generation, as bindings: how a generation tag resolves (R203). -/
def W.genBinds (w : W) (n gen : Nat) : List Bind :=
  (List.range 16).filterMap fun k => (w.genImage n k gen).map fun i => { slot := k, gen := gen, image := i }

/-- Number of the tile of an image at a physical address. -/
def Image.tileAt (i : Image) (pa : Nat) : Nat := pageTiles * i.frames.idxOf (pa / pageBytes) + pa % pageBytes / tileBytes

/-- The image and tile that a DECK address names under a generation tag. -/
def W.deckTile (w : W) (n va gen : Nat) : Option (Nat × Nat) :=
  match w.locate n (w.genBinds n gen) va with
  | .deck _ i pa => (w.image i).map fun im => (i, im.tileAt pa)
  | _ => none

/-- The newest resident generation of a slot whose image has a digest (R214). While a switch waits for the steps of the older generation, a
step can bind the current one alone (R218). -/
def W.newestWith (w : W) (n k : Nat) (dig : BitVec 256) : Option Nat :=
  let s := w.slot n k
  if (s.current.bind w.digestOf) == some dig then some s.gen
  else if s.waiting.isSome then none
  else (s.olds.find? fun o => w.digestOf o.image == some dig).map (·.gen)

/-- The slot in whose window an adapter's sites lie; after a retirement, the one whose older generation has them in its window. -/
def W.adapterSlot (w : W) (a : Adapter) : Option Nat :=
  a.sites.head?.bind fun x =>
    let vp := x.wAddr / pageBytes
    ((w.slotAt a.span vp).orElse fun _ => (List.range 16).findSome? fun k => (w.slot a.span k).olds.findSome? fun o =>
      w.slotAt a.span vp [{ slot := k, gen := o.gen, image := o.image }]).map (·.1)

/-- Number of requests of a span that demand a generation of a slot other than the current one (R214, R218: "now held"). -/
def W.heldCount (w : W) (n k : Nat) : Nat :=
  (w.deck.requests.filter fun r => r.span == n && r.binds.any fun b =>
    b.slot == k && (if r.hold || r.grace then b.gen != (w.slot n k).gen
                    else match w.adapter r.handle with
                      | some a => w.adapterSlot a == some k && w.newestWith n k a.deckDigest != some (w.slot n k).gen
                      | none => false)).length

/-- Does a record of a request's binding name a slot? -/
def OpenReq.bindOf (r : OpenReq) (k : Nat) : Option Bind := r.binds.find? fun b => b.slot == k

/-! ### Stored factors (R130) -/

/-- Padded rank. -/
def padRank (r : Nat) : Nat :=
  if r ≤ 4 then 4 else if r ≤ 8 then 8 else if r ≤ 16 then 16 else if r ≤ 32 then 32 else ceilDiv r 64 * 64

/-- K-width of a format code (R110); 0 for a code that names none. -/
def widthOf (fmt : Nat) : Nat := match Fmt.ofCode fmt with | some f => f.rowElems | none => 0

/-- Tiles of the first factor, r x K. -/
def tilesOfA (fmt r k : Nat) : Nat :=
  let r' := padRank r
  let kt := ceilDiv k (widthOf fmt)
  if r' < 64 then ceilDiv kt (64 / r') else r' / 64 * kt

/-- Tiles of the second factor, N x r. -/
def tilesOfB (fmt r n : Nat) : Nat :=
  let r' := padRank r
  let q := widthOf fmt
  if r' < q then ceilDiv n (64 * (q / r')) else ceilDiv n 64 * ceilDiv r' q

/-- Tile addresses of a site's factors, A before B. -/
def Site.factors (x : Site) (fmt r : Nat) : List Nat :=
  (List.range (tilesOfA fmt r x.k)).map (tileAfter x.addrA) ++ (List.range (tilesOfB fmt r x.n)).map (tileAfter x.addrB)

/-- Factor tiles of an adapter, in site order (R222). -/
def Adapter.factors (a : Adapter) : List Nat := a.sites.flatMap fun x => x.factors a.fmt a.rank

end Sys2Proof.Machine
end

