-- ==== Sys2Proof/Machine/Rows.lean ====
section
/-! DEFINITION. Embedding rows and the table barrier as shared operations need them (R177 to R181, R187 to R190). -/

namespace Sys2Proof.Machine

open Sys2Proof

/-! ### Records (R177, R178) -/

/-- Bytes of optimiser state. -/
def Table.stateBytes (t : Table) : Nat := match t.opt with | 1 => 4 | 2 => 8 * t.dim | _ => 0
/-- S, the size of a record. -/
def Table.recBytes (t : Table) : Nat := (8 + 4 * t.dim + t.stateBytes + 8 + 7) / 8 * 8
/-- Records per tile, for S up to 4,096. -/
def Table.perTile (t : Table) : Nat := 4096 / t.recBytes
/-- Tiles per record, for S above 4,096. -/
def Table.perRec (t : Table) : Nat := ceilDiv t.recBytes 4096
/-- Tiles of the row region. -/
def Table.rowTiles (t : Table) : Nat :=
  if t.recBytes ≤ 4096 then ceilDiv t.localRows t.perTile else t.localRows * t.perRec
/-- Tile addresses that hold local row j, and the payload offset in the first. -/
def Table.rowAt (t : Table) (j : Nat) : List Nat × Nat :=
  if t.recBytes ≤ 4096 then ([tileAfter t.addrRows (j / t.perTile)], j % t.perTile * t.recBytes)
  else ((List.range t.perRec).map fun i => tileAfter t.addrRows (j * t.perRec + i), 0)
/-- Local rows that lie in a tile of the row region. -/
def Table.rowsIn (t : Table) (va : Nat) : List Nat :=
  (List.range t.localRows).filter fun j => (t.rowAt j).1.contains va

/-- The tile that look-ups and applications see: the pinning core's copy where a HOT pin stands and is there (R195), else the
stored tile. -/
def W.rowTile (w : W) (n va : Nat) : Option Tile :=
  match w.hotCopy n va with
  | some (_, e) => some e.data
  | none => w.stored n va

/-- A tile of a list fails its keystone: read from its home twice and marked poisoned there (R41), or read on its core; both are counted
(R40). -/
def W.listTileBad (w : W) (n va : Nat) : W :=
  match w.hotCopy n va with
  | some (l, _) => (w.count n 0x248 1).coreEventAt l .coreKeystone
  | none =>
    match w.locate n [] va with
    | .home pa _ => ((w.count n 0x248 2).poisonHome n va).channelEvent (chanOf (pa / pageBytes)) .doubleFetch
    | _ => w

/-- A mismatch that `W.carrierFault` has found is counted (R40). -/
def W.carrierBad (w : W) (n : Nat) (f : Status × Nat) : W := if f.1 = .keystone then w.listTileBad n f.2 else w

/-- The record of local row j and whether a tile of it is poisoned; none where a tile is not mapped. -/
def W.readRow (w : W) (n : Nat) (t : Table) (j : Nat) : Option (List Byte × Bool) :=
  let (vas, off) := t.rowAt j
  let ts := vas.filterMap fun va => w.rowTile n va
  if ts.length < vas.length then none
  else some ((((ts.map fun x => x.slice 0 4096).flatten.drop off).take t.recBytes), ts.any Tile.poison)

/-- Do VKEY and SKEY of a record hold (R177)? -/
def Table.checksOk (t : Table) (r : List Byte) : Bool :=
  let v := 8 + 4 * t.dim
  let c := v + t.stateBytes
  rd r c 4 == crc32c (r.take v) &&
    rd r (c + 4) 4 == (if t.opt = 0 then 0 else crc32c ((r.drop v).take t.stateBytes))

/-- Does VKEY hold (R184)? -/
def Table.vkeyOk (t : Table) (r : List Byte) : Bool :=
  rd r (8 + 4 * t.dim + t.stateBytes) 4 == crc32c (r.take (8 + 4 * t.dim))

/-- A record from header, vector and state bytes: checks and padding added (R177). -/
def Table.seal (t : Table) (head : List Byte) (vec : List Byte) (st : List Byte) : List Byte :=
  padTo t.recBytes (head ++ vec ++ st ++ leBytes 4 (crc32c (head ++ vec)) ++ leBytes 4 (if t.opt = 0 then 0 else crc32c st))

/-- Does a tile of local row j carry the gradient flag (R103)? -/
def W.rowGrad (w : W) (n : Nat) (t : Table) (j : Nat) : Bool := (t.rowAt j).1.any fun va => ((w.rowTile n va).map Tile.gradient).getD false

/-- Every core's CLEAN copies of a tile go, but for a HOT pin's (R50, R196): they would not hold the row's new bytes. -/
def W.dropCopies (w : W) (n va : Nat) : W := w.each (w.coresOf n) fun l w => w.invalidate l va

/-- Write the bytes of local row j into its tiles: in the pinning core's slot where a HOT pin stands, else in HBM with the
generation counted up; the keystone follows the bytes changed (R179, R193). -/
def W.writeRow (w : W) (n : Nat) (t : Table) (j : Nat) (r : List Byte) : W :=
  let (vas, off) := t.rowAt j
  w.each vas.zipIdx fun (va, i) w =>
    let part := if t.recBytes ≤ 4096 then r else (r.drop (4096 * i)).take 4096
    match w.hotCopy n va with
    | some (l, _) => w.modEnt l va none fun e =>
        let t := e.data.setBytes off part
        { e with data := t.setNum 4096 4 (e.data.keystone ^^^ e.data.crc ^^^ t.crc), state := .dirty }
    | none => w.with (w.stored n va) fun old w => (w.dropCopies n va).rewriteTile n va (old.setBytes off part)

/-- Poison the tiles of a row (R194). -/
def W.poisonRow (w : W) (n : Nat) (t : Table) (j : Nat) : W :=
  w.each (t.rowAt j).1 fun va w =>
    match w.hotCopy n va with
    | some (l, _) => w.modEnt l va none fun e => { e with data := e.data.poisoned, state := .dirty }
    | none => (w.dropCopies n va).poisonHome n va

/-! ### Lists in carrier tiles -/

/-- Byte `o` to `o + k` of a stream of stored payloads from a first tile on (R113). -/
def W.streamNum (w : W) (n a o k : Nat) : Nat :=
  match w.stored n (tileAfter a (o / 4096)) with
  | some t => t.num (o % 4096) k
  | none => 0

/-- The hash of R181 on [0, 2^n). -/
def rowHash (n seed r : Nat) : Nat :=
  let m := 2 ^ n
  let x := (r ^^^ seed) % m
  let x := x * 0x9E3779B97F4A7C15 % m
  let x := x ^^^ (x / 2 ^ ((n + 1) / 2))
  x * 0xBF58476D1CE4E5B9 % m

/-- Tiles of a table's map that naming the owner of a row reads (R181): the tile of the rank list that holds its rank, or the range
map; none for a row that the directory holds, or where the group is this rank alone. -/
def Table.mapTiles (t : Table) (r : Nat) : List Nat :=
  if t.dir.any fun d => d.row == r then []
  else if t.range then (List.range (ceilDiv (16 * t.mapEntries) 4096)).map (tileAfter t.addrMap)
  else if t.group = 1 then []
  else [tileAfter t.addrMap (2 * (rowHash t.idBits t.seed r % t.group) / 4096)]

/-- Tiles of a table's map that naming the ranks of its group reads (R180). -/
def Table.groupTiles (t : Table) : List Nat :=
  if t.group = 1 then []
  else (List.range (ceilDiv (if t.range then 16 * t.mapEntries else 2 * t.group) 4096)).map (tileAfter t.addrMap)

/-- The first of some tiles of code 0x02 that cannot be used (R180): its address, with ST_KEYSTONE_MISMATCH or ST_POISONED. -/
def W.carrierFault (w : W) (n : Nat) (vas : List Nat) : Option (Status × Nat) :=
  vas.findSome? fun va =>
    match w.rowTile n va with
    | none => some (.refusedPermission, va)
    | some t => if !t.keystoneOk then some (.keystone, va) else if t.poison then some (.poisoned, va) else none

/-- Ranks of a table's group (R180): the list under HASH; the ranks of the range map under RANGE. -/
def W.rankList (w : W) (n : Nat) (t : Table) : List Nat :=
  if t.group = 1 then [w.rank.getD 0]
  else if t.range then
    ((List.range (t.mapEntries - 1)).map fun i => w.streamNum n t.addrMap (16 * i + 6) 2).dedup
  else (List.range t.group).map fun i => w.streamNum n t.addrMap (2 * i) 2

/-- The ranks that take part in the barrier: a folded rank does not (R365). -/
def W.groupRanks (w : W) (n : Nat) (t : Table) : List Nat := (w.rankList n t).filter fun r => (t.fold.map (·.1)) != some r

/-- Is a rank this module, for a table? -/
def W.isSelf (w : W) (t : Table) (r : Nat) : Bool := t.group == 1 || w.rank == some r

/-- Tiles of a table's rank list or range map, all of them (R180). -/
def Table.listTiles (t : Table) : List Nat :=
  if t.group = 1 && !t.range then []
  else (List.range (ceilDiv (if t.range then 16 * t.mapEntries else 2 * t.group) 4096)).map (tileAfter t.addrMap)

/-- A home in a folded rank moves to a survivor (R365). -/
def W.foldHome (w : W) (n : Nat) (t : Table) (h : Nat × Nat) : Nat × Nat :=
  match t.fold with
  | none => h
  | some (f, _) =>
    if h.1 ≠ f then h
    else
      let alive := (w.groupRanks n t).filter fun r => r != f
      match alive[h.2 % alive.length]? with
      | none => h
      | some r => (r, t.localRows + h.2 / alive.length)

/-- Owner and local index of a row (R181, R365): a directory entry first, then a fold, then the map; none for a row id that
the table does not have. -/
def W.ownerOf (w : W) (n : Nat) (t : Table) (r : Nat) : Option (Nat × Nat) :=
  match t.dir.find? fun d => d.row == r with
  | some d => if d.state == .home then some (d.newRank, d.newLocal) else some (d.oldRank, d.oldLocal)
  | none =>
    if t.range then
      let last := t.mapEntries - 1
      let first i := w.streamNum n t.addrMap (16 * i) 6
      if r < first 0 || first last ≤ r then none
      else
        match ((List.range last).filter fun i => first i ≤ r).getLast? with
        | none => none
        | some i =>
          some (w.foldHome n t (w.streamNum n t.addrMap (16 * i + 6) 2, w.streamNum n t.addrMap (16 * i + 8) 6 + (r - first i)))
    else if 2 ^ t.idBits ≤ r then none
    else
      let x := rowHash t.idBits t.seed r
      some (w.foldHome n t
        ((if t.group = 1 then w.rank.getD 0 else w.streamNum n t.addrMap (2 * (x % t.group)) 2), x / t.group))

/-! ### The barrier (R187, R188) -/

/-- Payload of a barrier message: table id, and for VOID whether a coalescing region overflowed and the rank responsible, which a
VOID passed on still names (R188). The manual gives the epoch in ARG and no payload (log entry 22). -/
def barrierBody (id : Nat) (ovf : Bool) (by_ : Nat := 0) : List Byte := leBytes 2 id ++ leBytes 1 (if ovf then 1 else 0) ++ leBytes 2 by_

/-- The fields in which the ranks of a group must agree (R180), as bytes: CLOSE carries them, for R190's comparison. -/
def Table.canon (t : Table) : List Byte :=
  leBytes 2 t.dim ++ leBytes 1 t.opt ++ leBytes 1 (if t.range then 1 else 0) ++ leBytes 1 t.idBits
    ++ leBytes 1 ((if t.determ then 1 else 0) + 2 * t.stale) ++ leBytes 4 t.seed ++ leBytes 4 t.coalEntries ++ leBytes 2 t.group
    ++ leBytes 2 t.mapEntries ++ leBytes 1 t.dirLog2

/-- Has every record of an epoch of a table that this module sent to a rank been acknowledged (R319)? A record frame carries its
epoch and its table in ARG (log entry 22). -/
def W.recordsAcked (w : W) (n id epoch r : Nat) : Bool :=
  !(w.vdt.flows.any fun f => f.span == n && f.rank == r && f.sent.any fun p => p.frame.ty == tyRowRec && p.frame.arg == recArg id epoch)
    && !(w.vdt.waiting.any fun u => u.span == n && u.rank == r && u.ty == tyRowRec && u.arg == recArg id epoch)
    && !((w.table n id).any fun t => t.lost.contains (epoch, r))

/-- Send the CLOSE messages that a table owes and whose records have been acknowledged (R319); one to the new home of moving
rows waits for their flip (R198). A span that is reset or destroyed sends none (R294). -/
def W.settleCloses (w : W) (n id : Nat) : W :=
  match w.table n id with
  | none => w
  | some t => w.if (!w.ending n) fun w =>
    let moving (r : Nat) : Bool := t.moves.any fun m => !m.flipped && m.rows.any fun e => e.newRank == r
    let go := t.closing.filter fun c => w.recordsAcked n id c.1 c.2 && !moving c.2
    let w := w.setTable n id (some { t with closing := t.closing.filter fun c => !go.contains c })
    w.each go fun c w => w.sendCtl n c.2 tyClose c.1 (barrierBody id false ++ t.canon)

/-- A step of this module has ended its compute phase: CLOSE goes to every rank of the group (R188 step 1). -/
def W.closeEpoch (w : W) (n id epoch : Nat) : W :=
  match w.table n id with
  | none => w
  | some t =>
    let rs := w.groupRanks n t
    let t := { t with closes := t.closes ++ (rs.filter fun r => w.isSelf t r).map fun r => (epoch, r),
                      closing := t.closing ++ (rs.filter fun r => !w.isSelf t r).map fun r => (epoch, r) }
    (w.setTable n id (some t)).settleCloses n id

/-- APPLIED passes every void epoch that stands next (R188). -/
def Table.pass : Nat → Table → Table
  | 0, t => t
  | k + 1, t => if t.voids.contains (t.applied + 1) && t.applying.isNone then Table.pass k { t with applied := t.applied + 1 } else t

/-- An epoch becomes void at this owner (R188 step 3): its entries are discarded, every rank is told, APPLIED passes it. A VOID for
an epoch that this owner has closed changes no row any more; the module's own step, which still waits for other owners, ends by it
(step 4). -/
def W.voidEpoch (w : W) (n id epoch by_ : Nat) (ovf : Bool) : W :=
  match w.table n id with
  | none => w
  | some t =>
    if t.voidBy.any fun v => v.1 == epoch then w
    else
      let t := { t with voidBy := t.voidBy ++ [(epoch, by_)], overflow := if ovf then insertNat epoch t.overflow else t.overflow }
      if epoch ≤ t.applied || t.applying == some epoch then w.setTable n id (some t)
      else
        let t := { t with voids := insertNat epoch t.voids, records := t.records.filter fun r => r.epoch != epoch }
        let w := (w.setTable n id (some (t.pass (t.voids.length)))).count n 0x1D8 1
        w.each ((w.groupRanks n t).filter fun r => !w.isSelf t r) fun r w => w.sendCtl n r tyVoid epoch (barrierBody id ovf by_)

/-- A step of this module failed in its compute phase: VOID goes to every rank of the groups of its tickets (R188 step 1). -/
def W.voidTickets (w : W) (n : Nat) (ts : List Ticket) : W :=
  w.each (ts.filter (·.update)) fun k w => w.voidEpoch n k.table k.epoch (w.rank.getD 0) false

end Sys2Proof.Machine
end

