-- ==== Sys2Proof/Machine/Flags.lean ====
section
/-! DEFINITION. The counts of format events (R86, R87) and the step summary (R261, R263). -/

namespace Sys2Proof.Machine

open Sys2Proof

/-- The 12-bit code of a summary count (R263). -/
def countCode (c : Nat) : Nat :=
  if 2 ^ 38 ≤ c then 0xFFF
  else if c < 128 then c
  else
    let e := Nat.log2 c - 6
    e * 128 + c / 2 ^ e % 128

/-- RESULT1 of a step's reply (R261). -/
def summary (c : Counts) (genChanged : Bool) : Nat :=
  countCode c.sat + countCode (c.flin + c.flout) * 2 ^ 12 + countCode c.esc * 2 ^ 24 + countCode c.ovf * 2 ^ 36
    + countCode c.sr * 2 ^ 48 + (if genChanged then 2 ^ 60 else 0)

/-- Add a descriptor's counts to its span's counter window (R87, R88). -/
def W.countFormats (w : W) (n : Nat) (c : Counts) : W :=
  ((((((w.count n 0x100 c.sat).count n 0x108 c.flin).count n 0x110 c.flout).count n 0x118 c.esc).count n 0x120 c.ovf).count
    n 0x128 c.sr).count n 0x130 c.nan

/-- Input event of one element (R86). -/
def Counts.input (c : Counts) (e : InEv) : Counts :=
  { c with sat := c.sat + (if e.sat then 1 else 0), flin := c.flin + (if e.flush then 1 else 0) }

/-- Output event of one written element (R86, R87). -/
def Counts.output (c : Counts) (e : Ev) (stoch : Bool) : Counts :=
  { c with sat := c.sat + (if e.sat then 1 else 0), flout := c.flout + (if e.flush then 1 else 0),
           nan := c.nan + (if e.nanDrop then 1 else 0), sr := c.sr + (if stoch then 1 else 0) }

end Sys2Proof.Machine
end

