-- ==== Sys2Proof/Machine/StepOps.lean ====
section
/-! DEFINITION. How a step ends (R24 to R28, R188, R213, R248): replies in ring order, failure with its poison, squashed
stagings, and what waits for steps to end. -/

namespace Sys2Proof.Machine

open Sys2Proof

/-- Steps of a ring, in the order in which they were read. -/
def W.ringSteps (w : W) (n r : Nat) : List Step := w.step.steps.filter fun x => x.span == n && x.ring == r

/-- Tile address and payload offset of entry `i` of a list with `per` entries of `size` bytes to a tile (R113). -/
def listAt (a i per size : Nat) : Nat × Nat := (tileAfter a (i / per), i % per * size)

/-- Write bytes into a stored tile of a span, as the BN2 itself does at a reply; copies are invalidated (R50), and
a HOT pin's slot takes the bytes (R48). -/
def W.patchTile (w : W) (n va off : Nat) (bs : List Byte) : W :=
  match w.hotAt n va with
  | some l => w.modEnt l va none fun e => { e with data := (e.data.setBytes off bs).seal, state := .dirty }
  | none =>
    w.with (w.stored n va) fun t w =>
      w.each (w.coresOf n) (fun l w => w.invalidate l va) |>.storeTile n va (t.setBytes off bs)

/-- Write RSTATUS and RNOTE of every request entry (R213), and TAKEN of every token-table entry of a SERVE step (R240). A step
that ends before its list was read gives every entry of the list its own status; one that names no list has none. -/
def W.writeRequests (w : W) (x : Step) (st : Status) : W :=
  let w := w.each x.requests.zipIdx fun (e, i) w =>
    let (va, off) := listAt x.addrReq i 256 16
    w.patchTile x.span va (off + 7) (leBytes 1 e.rstatus ++ leBytes 1 e.rnote)
  let w := w.each (if x.requests.isEmpty && x.addrReq != 0 then List.range (min x.nreq 16384) else []) fun i w =>
    let (va, off) := listAt x.addrReq i 256 16
    if ((w.stored x.span va).map Tile.keystoneOk).getD false then w.patchTile x.span va (off + 7) (leBytes 1 st.code ++ leBytes 1 0) else w
  if x.addrTok = 0 then w
  else w.each x.taken.zipIdx fun (k, i) w =>
    let (va, off) := listAt x.addrTok i 512 8
    w.patchTile x.span va (off + 4) (leBytes 3 k)

/-- Requests that a step opened close when it does not commit, at its reply (R213). -/
def W.closeOpened (w : W) (x : Step) : W := w.each x.closes fun id w => w.closeRequest x.span id

/-- Write the replies that ring order now allows, at most `k` of them (R188: replies keep ring order). -/
def W.flushEnded : Nat → W → Nat → Nat → W
  | 0, w, _, _ => w
  | k + 1, w, n, r =>
    match w.ringSteps n r with
    | x :: _ =>
      if x.phase = .ended then
        let (st, d) := x.failed.getD (.ok, .none)
        let w := { w with step.steps := w.step.steps.filter fun y => y.id != x.id }
        W.flushEnded k ((w.closeOpened x).finish x.cmd st d x.seed.toNat (summary x.counts x.genChanged)) n r
      else w
    | [] => w

/-- A program is gone: no task of another one under its handle has a home core by it (R237). -/
def W.forgetHomes (w : W) (n h : Nat) : W :=
  w.each (List.range 16) fun r w => w.modSched n r fun g => { g with homes := g.homes.filter fun q => q.1 != h }

/-- A program asked to be unloaded goes once no admitted step runs it (R234, R266). -/
def W.settlePrograms (w : W) : W :=
  let done (p : Program) : Bool :=
    !p.unload.isEmpty && !(w.step.steps.any fun x => x.span == p.span && x.handle == p.handle && x.admitted)
  let ps := w.step.programs.filter done
  let w := { w with step.programs := w.step.programs.filter fun p => !done p }
  w.each ps fun p w => (w.forgetHomes p.span p.handle).finishAll p.unload .ok

/-- An ABORT_STEP ends once none of its steps is left (R273, R275). -/
def W.settleAborts (w : W) : W :=
  let done := w.cmd.parJobs.filter fun j =>
    j.op == 0x0F01 && j.later.isEmpty && !(w.step.steps.any fun x => x.aborting == some j.id && x.phase != .ended)
  w.each done fun j w => w.parFinish j.id .ok (.count j.count)

/-- Release a descriptor's hold on the tile-map entries that it names (R47). -/
def W.dropRefs (w : W) (f : InFlight) : W :=
  w.each f.refs fun (va, gen) w => w.modEnt f.core va gen fun e => { e with refs := e.refs - 1 }

/-- One more step squashed for an ABORT_STEP (R273). -/
def W.countAbort (w : W) (j : Nat) : W :=
  let l := updateWhere (fun k => k.id == j) (fun (k : ParJob) => { k with count := k.count + 1 }) w.cmd.parJobs
  { w with cmd.parJobs := l }

/-- What the end of an admitted step that fails makes of its lists: every request has the step's status, every TAKEN is 0, and the requests
that it opened are to close at its reply (R213, R240). -/
def Step.failing (x : Step) (st : Status) : Step :=
  if st = .ok || !x.admitted then x
  else { x with requests := x.requests.map fun e => { e with rstatus := st.code }, taken := x.taken.map fun _ => 0,
                closes := (x.requests.filter fun e => bit e.flags 0).map (·.reqId) }

/-- A step is over: its descriptors, tasks and bindings are gone, and its reply follows in ring order. -/
def W.endStep (w : W) (id : Nat) (st : Status) (d : Detail) : W :=
  match w.stepOf id with
  | none => w
  | some x =>
    if x.phase = .ended then w
    else
      let w := w.each (w.step.inflight.filter fun f => f.step == id) fun f w => w.dropRefs f
      let w := { w with step.inflight := w.step.inflight.filter fun f => f.step != id }
      let w := (w.modStep id fun y => y.failing st).writeRequests (x.failing st) st
      let w := w.each ((x.tasks.filterMap (·.core)).dedup.filter fun _ => x.admitted) fun l w =>
        w.trace x.span l 2 0 0 x.traceSeq (leBytes 1 st.code)
      let w := w.modStep id fun y =>
        { y with phase := .ended, failed := some (st, d), tasks := [], binds := [], adapters := [], tickets := [] }
      let w := w.each (x.adapters ++ x.reloaded) fun h w => w.settleCold h
      let w := if st = .squashed then w.with x.aborting fun j w => w.countAbort j else w
      let w := if st = .poisoned then w.count x.span 0x268 1 else w
      let w := if st = .poisoned ∨ st = .keystone ∨ st = .computeCheck ∨ st = .deviceFault
        then w.event .stepFault x.span false (0x80 + w.homeDie x.span x.ring) else w
      ((w.flushEnded 4096 x.span x.ring).settlePrograms).settleAborts

/-- A tile that a failing step wrote is poisoned in memory; unpinned copies go, pinned ones carry the poison (R26, R42). -/
def W.poisonWritten (w : W) (n va : Nat) : W :=
  let w := w.poisonHome n va
  let t := (w.stored n va).getD []
  w.each (w.coresOf n) fun l w =>
    w.modCore l fun c =>
      { c with tiles := c.tiles.filterMap fun e =>
          if e.is va none then (if e.pin = .none then none else some { e with data := t, state := .clean }) else some e }

/-- Squash the staging of a step (R248): it is kept, read and not admitted. What it had bound and prefetched stays on record, for
the deck tiles that another binding invalidates (R54). -/
def W.squash (w : W) (id : Nat) : W :=
  match w.stepOf id with
  | none => w
  | some x =>
    if x.phase = .staged then
      (w.modStep id fun x => { x with phase := .read, tasks := [] }).count x.span 0x220 1
    else w

/-- Squash every staging of a span. -/
def W.squashSpan (w : W) (n : Nat) : W :=
  w.each (w.step.steps.filter fun x => x.span == n) fun x w => w.squash x.id

/-- Is this the descriptor? -/
def InFlight.same (f g : InFlight) : Bool := f.step == g.step && f.task == g.task && f.ctx == g.ctx && f.dseq == g.dseq

/-- Does an engine run this descriptor: is it the oldest that it holds (R17)? The others are queued. -/
def W.running (w : W) (f : InFlight) : Bool :=
  ((w.step.inflight.find? fun g => g.core == f.core && g.engine == f.engine).map fun g => g.same f).getD false

/-- The counters of attention, which count operations inside a descriptor as they end (R176): page iterations, skips, seals. -/
def attnCounter (off : Nat) : Bool := off == 0x188 || off == 0x190 || off == 0x198

/-- Add those of a list of counts that a descriptor stopped half-way has come to (R176). -/
def W.countPages (w : W) (n : Nat) (cnts : List (Nat × Nat)) : W :=
  w.each (cnts.filter fun c => attnCounter c.1) fun c w => w.count n c.1 c.2

/-- The output tiles that a running descriptor has written when it is stopped: how far it has come is open, a free value (log
entry 102); the page iterations that it has ended count (R176). A queued one has written none. -/
def W.halfWritten (w : W) (f : InFlight) : List Nat × W :=
  if w.running f then
    let (v, w) := w.freeVal
    let n := ((w.stepOf f.step).map (·.span)).getD 0
    ((f.writes.map (·.1)).take (v.toNat % (f.writes.length + 1)), w.countPages n (f.cnts.take (v.toNat % (f.cnts.length + 1))))
  else ([], w)

/-- Output tiles that the descriptors of a step have written so far. -/
def W.halfWrittenAll : List InFlight → W → List Nat × W
  | [], w => ([], w)
  | f :: fs, w =>
    let (a, w) := w.halfWritten f
    let (b, w) := W.halfWrittenAll fs w
    (a ++ b, w)

/-- A step fails or is squashed (R26, R28). After its compute phase has begun, every tile that it has written is
poisoned, the next step's staging is squashed, and an epoch whose compute phase it ends is void (R188). -/
def W.failStep (w : W) (id : Nat) (st : Status) (d : Detail) : W :=
  match w.stepOf id with
  | none => w
  | some x =>
    if !x.admitted then (if x.phase = .ended then w else (w.squash id).endStep id st d)
    else
      let (half, w) := W.halfWrittenAll (w.step.inflight.filter fun f => f.step == id) w
      let w := w.each (x.written ++ half).dedup fun va w => w.poisonWritten x.span va
      let w := if x.phase = .compute then w.voidTickets x.span x.tickets else w
      let w := w.each ((w.ringSteps x.span x.ring).filter fun y => y.phase == .staged) fun y w => w.squash y.id
      w.endStep id st d

/-- An ABORT_STEP meets a step (R28, R275): no later operation starts. What is queued is dropped; what an engine runs goes on to its
boundary, and the step is squashed when nothing of it runs any more. -/
def W.abortStep (w : W) (id job : Nat) : W :=
  match w.stepOf id with
  | none => w
  | some x =>
    let w := w.modStep id fun x => { x with aborting := some job }
    if !x.admitted then w.failStep id .squashed .none
    else
      let mine := w.step.inflight.filter fun f => f.step == id
      let queued := mine.filter fun f => !w.running f
      let w := w.each queued fun f w => w.dropRefs f
      let w := { w with step.inflight := w.step.inflight.filter fun f => !(queued.any fun g => g.same f) }
      if queued.length < mine.length then w else w.failStep id .squashed .none

/-- An aborted step is squashed once none of its operations runs any more. -/
def W.settleAborted (w : W) (id : Nat) : W :=
  if w.step.inflight.any fun f => f.step == id then w else w.failStep id .squashed .none

/-- Steps in their commit phase whose epoch has become void end (R188 step 4). -/
def W.settleVoids (w : W) : W :=
  w.each (w.step.steps.filter fun x => x.phase == .commit) fun x w =>
    match x.tickets.find? fun k => k.update && ((w.table x.span k.table).map fun t => t.voidBy.any fun v => v.1 == k.epoch).getD false with
    | none => w
    | some k =>
      match w.table x.span k.table with
      | none => w
      | some t =>
        let r := ((t.voidBy.find? fun v => v.1 == k.epoch).map (·.2)).getD 0
        w.failStep x.id (if t.overflow.contains k.epoch then .refusedFit else .squashed) (.rank r)

/-- Every step with a task on one of these logical cores ends (R329, R330). -/
def W.failCores (w : W) (ls : List Nat) (st : Status) : W :=
  w.each (w.step.steps.filter fun x => x.admitted && ls.any fun l => x.usesCore l) fun x w => w.failStep x.id st .none

end Sys2Proof.Machine
end

