-- ==== Sys2Proof/Machine/SpanOps.lean ====
section
/-! DEFINITION. Shared operations over spans: moving cores, pending resizes, revoking keys, the reset and destruction
sequences (R288 to R297). -/

namespace Sys2Proof.Machine

open Sys2Proof

/-! ### The expansion joint (R288, R289) -/

/-- May a core change its span now: the tasks that ran on it have ended, it is not in quarantine or under test, and no pins of it wait
for the end of a die reset or of standby (R15, R288, R334)? -/
def W.movable (w : W) (l : Nat) : Bool :=
  !w.busyCore l && !w.pwr.standby &&
    (match w.physOf l with
     | none => true
     | some c => ((w.phys c).state == .active || (w.phys c).state == .retired) && !(w.die (c / 36)).resetting)

/-- A core changes its span: what it holds unwritten goes to HBM, its pins move to other cores of the span it leaves, it is scrubbed, and
it joins (R15, R288). Tasks that have ended there, of steps not yet committed, hold no core any more. -/
def W.moveCore (w : W) (l n : Nat) : W :=
  let w := (((w.flush (w.owner l) l fun _ => true).movePins (w.owner l) l).scrubPad l).setOwner l n
  let leave (t : Task) : Task := if t.core = some l ∧ t.ended then { t with core := none } else t
  { w with step.steps := w.step.steps.map fun x => { x with tasks := x.tasks.map leave } }

/-- A pending create or resize with nothing left to wait for replies ST_OK (R289). -/
def W.settleResize (w : W) (n : Nat) : W :=
  match (w.sp n).resize with
  | none => w
  | some r =>
    let pages := match r.pages with | some q => if w.charged n ≤ q then none else some q | none => none
    let w := match r.pages, pages with
      | some q, none => w.modSp n fun x => { x with hbmPages := q }
      | _, _ => w
    let r := { r with pages := pages }
    if r.cores.isEmpty && r.pages.isNone then
      (w.modSp n fun x => { x with resize := none }).finish r.cmd .ok (if r.create then .count n else .none)
    else w.modSp n fun x => { x with resize := some r }

/-- The same for every span, after pages were released. -/
def W.settleResizes (w : W) : W := w.each (List.range 64) fun n w => w.settleResize n

/-! ### Keys (R295, R296) -/

/-- Payload tiles that a squashed stream had begun to write are zero and poisoned (R296 step 2). -/
def W.scrubPartly (w : W) (n : Nat) (vas : List Nat) : W :=
  w.each vas fun va w => (w.each (w.coresOf n) fun l w => w.dropEnts l fun e => e.is va none && e.pin == .none).storeTile n va
    (Tile.poisoned [])

/-- The bytes of the descriptor that a context runs. -/
def W.flightDesc (w : W) (f : InFlight) : List Byte :=
  ((w.stepOf f.step).bind fun x => (w.program x.span x.handle).bind fun p => p.tasks[f.task]?.bind fun t => (t.streams.getD f.ctx [])[f.dseq]?).getD []

/-- Key slot under which a Viaduct descriptor's stream runs (R316), for an encrypted one. -/
def W.streamKey (w : W) (f : InFlight) : Option Nat :=
  let d := w.flightDesc f
  if 0x50 ≤ rd d 0 1 && rd d 0 1 ≤ 0x53 && bit (rd d 1 1) 6 then some (rd d 14 2) else none

/-- Steps whose PUT, GET or collective runs under a key end with ST_SQUASHED, and what a GET or an all-gather of theirs had begun to
write is scrubbed (R296). -/
def W.squashStreams (w : W) (k : Nat) : W :=
  let fs := w.step.inflight.filter fun f => w.streamKey f == some k
  w.each fs fun f w => w.with (w.stepOf f.step) fun x w =>
    w.if (x.phase != .ended) fun w =>
      let (half, w) := w.halfWritten f
      let w := { w.dropRefs f with step.inflight := w.step.inflight.filter fun g => !g.same f }
      let w := w.modStep x.id fun y => { y with written := (y.written ++ half).dedup }
      (w.failStep x.id .squashed .none).scrubPartly x.span half

/-- End what runs under a key slot (R296 step 2, and the table under R297): loads, saves, restores, COLD reloads, streams of
steps, those whose packets still wait for a flow among them. How many factor tiles a squashed load had written is open: a free value (log
entry 102). -/
def W.squashKeyUsers (w : W) (k : Nat) : W :=
  let ls := w.deck.loads.filter fun l => ((w.image l.image).map (·.key)) == some k
  let w := w.each ls fun l w =>
    let w := { w with deck.loads := w.deck.loads.filter fun x => x.image != l.image }
    let w := (w.modSlot l.span l.slot fun s => { s with load := none }).freeImage l.image
    w.finish l.cmd .squashed
  let again := w.step.steps.flatMap fun x => if x.phase != .ended then x.reloads else []
  let w := w.each (w.deck.adapters.filter fun a => a.key == k && a.source != 0 && (a.loading.isSome || again.contains a.handle)) fun a w =>
    let (v, w) := w.freeVal
    w.scrubPartly a.span (a.factors.take (v.toNat % (a.factors.length + 1)))
  let as := w.deck.adapters.filter fun a => a.key == k && a.loading.isSome
  let w := w.each as fun a w =>
    let w := { w with deck.adapters := w.deck.adapters.filter fun x => x.handle != a.handle }
    w.with a.loading fun c w => w.finish c .squashed
  let cold := (w.deck.adapters.filter fun a => a.key == k).map (·.handle)
  let ss := w.step.steps.filter fun x => x.phase != .ended && x.reloads.any fun h => cold.contains h
  let w := w.each ss fun x w => w.failStep x.id .refusedPermission .none
  let h := w.keyHandle k
  let flows := w.vdt.flows.filter fun f => f.key == h
  let owners := flows.flatMap (fun f => f.sent.filterMap (·.step)) ++ (w.vdt.waiting.filter fun u => u.key == h).filterMap (·.step)
  let w := (w.squashStreams k).each owners.dedup fun i w =>
    if (w.stepOf i).any fun x => x.phase != .ended then w.failStep i .squashed .none else w
  let w := { w with vdt.waiting := w.vdt.waiting.filter fun u => u.key != h }
  let w := w.each flows fun f w => w.resetFlow f.id
  w.each (List.range 64) fun n w =>
    match (w.sp n).save with
    | none => w
    | some s =>
      match s.job with
      | some (c, _, _, key, _) => if key = k then (w.modSp n fun x => { x with save := none }).finish c .squashed else w
      | none => w

/-- Revoke a key slot (R296 steps 1 to 3): it waits for the crypto engines to go idle. -/
def W.revokeKey (w : W) (k : Nat) : W :=
  if (w.keySlot k).state = .installed then (w.squashKeyUsers k).modKey k fun s => { s with state := .revoking } else w

/-- A slot is zeroised; what waited for it replies (R296 steps 4 and 5). -/
def W.zeroiseKey (w : W) (k : Nat) : W :=
  let s := w.keySlot k
  (w.modKey k fun s => { s with state := .empty, key := 0#512, cmds := [] }).finishAll s.cmds .ok

/-! ### Reset and destruction (R293, R294, R297) -/

/-- Everything of a span that runs ends with ST_SPAN_GONE (R293 step 2): steps, commands from its rings, commands of the PF
that act on it, and parapet commands other than the resets themselves. -/
def W.spanGone (w : W) (n : Nat) (keep pars : List Nat) : W :=
  let w := w.each (w.step.steps.filter fun x => x.span == n) fun x w => w.endStep x.id .spanGone .none
  let x := w.sp n
  let evicts := (w.deck.adapters.filter fun a => a.span == n).flatMap (·.evict)
  let onSpan := (x.freezing.toList ++ (x.resize.map (·.cmd)).toList
    ++ ((x.save.bind (·.job)).map (·.1)).toList ++ ((x.restore.bind (·.cmd))).toList ++ (x.run.map (·.cmd)).toList ++ evicts)
  let mine := (w.cmd.cmds.filter fun c => c.fn == n).map (·.id)
  let w := w.finishAll ((onSpan ++ mine).filter fun i => !keep.contains i) .spanGone
  let js := w.cmd.parJobs.filter fun j => j.target == n && !pars.contains j.id
  let w := w.each js fun j w => w.parFinish j.id .spanGone
  let ls := w.deck.loads.filter fun l => l.span == n
  let w := w.each ls fun l w =>
    let w := { w with deck.loads := w.deck.loads.filter fun x => x.image != l.image }
    (w.modSlot n l.slot fun s => { s with load := none }).freeImage l.image
  let w := { w with deck.adapters := w.deck.adapters.filter fun a => !(a.span == n && a.loading.isSome) }
  let w := { w with hbm.unmaps := w.hbm.unmaps.filter fun u => u.span != n,
                    core.pinJobs := w.core.pinJobs.filter fun j => j.span != n }
  let w := w.modSec n fun s => { s with nowCmds := [], sealCmds := [] }
  w.modSp n fun x => { x with freezing := none, resize := none, save := none, restore := none, run := none }

/-- Slots of a span that hold a key or are being zeroised. -/
def W.liveKeys (w : W) (n : Nat) : List Nat :=
  (w.fw.keys.filter fun (k, s) => s.state != .empty && w.holdsKey n k).map (·.1)

/-- Give away an image of a span that ends (R211, R294): to span 0 while another span's slot refers to it, else free it. -/
def W.leaveImage (w : W) (n : Nat) (i : Image) : W :=
  let others := w.deck.slots.any fun (k, s) => k / 16 != n && (s.current == some i.id || (s.olds.any fun o => o.image == i.id) || s.staged == some i.id)
  if others then w.modImage i.id fun i => { i with charge := 0, owner := 0 } else w.freeImage i.id

/-- Images that the slots of a span refer to. -/
def W.slotImages (w : W) (n : Nat) : List Nat :=
  ((List.range 16).flatMap fun k =>
    let s := w.slot n k
    s.current.toList ++ s.olds.map (·.image) ++ s.staged.toList).dedup

/-- Span memory is unreadable (R293 step 5, R294): page table, tile maps, slots, programs, adapters, tables, requests,
securing policy, trace and rings are gone; generations are kept. Its fabric group goes too, so that packets of the time before the reset get
NACK_NO_SPAN (R324, log entry 146). -/
def W.clearSpan (w : W) (n : Nat) : W :=
  let secured := ((w.secOf n).map fun s => decide (1 < s.policy.group)).getD false
  let held := w.slotImages n
  let w := w.each (List.range 16) fun k w =>
    w.modSlot n k fun s => { gen := s.gen }
  let w := w.each (w.deck.images.filter fun i => i.charge == n || i.owner == n) fun i w => w.leaveImage n i
  let w := w.each held fun i w => w.reap i
  let w := w.each (w.pagesOf n) fun (vp, _) w => w.dropPage n vp
  let w := w.each (w.coresOf n) fun l w => w.scrubPad l
  let w := { w with step.programs := w.step.programs.filter fun p => p.span != n,
                    step.rings := w.step.rings.filter fun (k, _) => k / 16 != n,
                    deck.adapters := w.deck.adapters.filter fun a => a.span != n,
                    deck.requests := w.deck.requests.filter fun r => r.span != n,
                    tables := w.tables.filter fun (k, _) => k / 1024 != n }
  let w := { w with vdt.flows := w.vdt.flows.filter fun f => f.span != n || f.ctrl,
                    vdt.waiting := w.vdt.waiting.filter fun u => u.span != n || u.ty == tyFlowReset,
                    vdt.nacks := w.vdt.nacks.filter fun g => g.srcSpan != n,
                    vdt.colls := w.vdt.colls.filter fun g => g.dstSpan != n,
                    cmd.rings := w.cmd.rings.map fun (k, (g : Ring)) =>
                      if k / 16 = n then (k, { g with en := false, stopping := false, held := [], fence := none, unsig := 0 }) else (k, g) }
  let w := w.each (w.vdt.flows.filter fun f => f.span == n && f.sent.any fun p => p.frame.ty != tyFlowReset) fun f w => w.resetFlow f.id
  let w := w.setReg 0 (0x7100 + 4 * n) 0
  let w := w.setSec n none
  let w := { w with obs.traces := Sparse.put (fun _ => none) w.obs.traces n none }
  let w := w.setReg n 0x8020 ((w.regv n 0x8020) / 2 * 2)
  let w := w.modSp n fun x => { x with halted := false, stopHost := false, stopVdt := false, lastChan := none,
                                       seed := if n = 0 then 0#64 else x.seedInit,
                                       gaps := [], parityLost := x.parityLost || secured }
  if secured then w.health n unitAbut else w

/-- A span becomes ABSENT: its resources are span 0's again (R297). -/
def W.removeSpan (w : W) (n : Nat) : W :=
  let w := w.each (w.coresOf n) fun l w => w.setOwner l 0
  let w := { w with span.spans := Sparse.put Span.atReset w.span.spans n (Span.atReset n),
                    cmd.pba := w.cmd.pba.filter fun k => k / 64 != n }
  w.setReg n 0x3040 0x04000001

/-- The engines of a span stop and what it runs ends (R293 step 2); its drain begins. -/
def W.stopSpan (w : W) (n : Nat) (j : ResetJob) : W :=
  (w.spanGone n j.cmds j.pars).modSp n fun x => { x with reset := some { j with stage := .draining } }

/-- A restore of a span cannot go on: the span is reset (R302, R363), unless a reset of it runs already. -/
def W.plainReset (w : W) (n : Nat) : W :=
  if (w.sp n).reset.isSome then w
  else
    ((w.squashSpan n).modSp n fun x => { x with mode := .resetting }).stopSpan n
      { stage := .draining, destroy := false, vfRemoved := false, flr := true, cmds := [], pars := [], againDestroy := [] }

/-- Restores whose stream one of these keys decrypts are abandoned: their commands end with ST_SQUASHED, their spans are reset (R296,
R297, R302, R363). -/
def W.squashRestores (w : W) (ks : List Nat) : W :=
  w.each (List.range 64) fun n w =>
    let w := w.with (w.sp n).restore fun r w => w.with r.cmd fun c w =>
      w.if (ks.contains r.key) fun w => ((w.modSp n fun x => { x with restore := none }).finish c .squashed).plainReset n
    w.with (w.sp n).run fun r w =>
      w.if (ks.contains r.key) fun w => ((w.modSp n fun x => { x with run := none }).finish r.cmd .squashed).plainReset n

/-- Start a reset or a destruction of one span (R293 steps 1 and 2, R296 steps 1 to 3). A destruction revokes the keys first,
and its engines stop when they are zeroised (R297). -/
def W.beginReset (w : W) (n : Nat) (j : ResetJob) : W :=
  let w := (w.squashSpan n).modSp n fun x => { x with mode := if j.destroy then .destroying else .resetting }
  if j.destroy then
    let ks := w.liveKeys n
    let w := (w.squashRestores ks).each ks fun k w => w.revokeKey k
    if ks.isEmpty then w.stopSpan n j else w.modSp n fun x => { x with reset := some { j with stage := .keysFirst } }
  else w.stopSpan n j

/-- A reset of span 0 ends the SPAN_CREATE, SPAN_RESIZE, SPAN_SAVE, SPAN_RESTORE and RANK_ADOPT commands that the PF runs for other
spans: changes that still wait are dropped (R289), such a save has no command under way, and such a restore has failed, which
resets its span (R293, R299, R302, R363). -/
def W.endPfMoves (w : W) : W :=
  w.each ((List.range 64).drop 1) fun k w =>
    let x := w.sp k
    let gone (c : Option Nat) : Bool := match c with | some i => !(w.cmd.cmds.any fun q => q.id == i) | none => false
    let w := w.modSp k fun x => { x with save := x.save.map (fun s => { s with job := none }),
                                         resize := if gone (x.resize.map (·.cmd)) then none else x.resize }
    if (gone (x.restore.bind (·.cmd)) || gone (x.run.map (·.cmd))) && x.reset.isNone then
      (w.modSp k fun x => { x with restore := none, run := none }).beginReset k
        { stage := .draining, destroy := false, vfRemoved := false, flr := false, cmds := [], pars := [], againDestroy := [] }
    else w

/-- Start a reset or a destruction, with what a reset of span 0 ends elsewhere. -/
def W.startReset (w : W) (n : Nat) (j : ResetJob) : W :=
  let w := w.beginReset n j
  if n = 0 then w.endPfMoves else w

/-- The sequence completes (R293 step 6, R294, R297). A destruction asked for meanwhile then proceeds. -/
def W.completeReset (w : W) (n : Nat) (j : ResetJob) : W :=
  let w := w.clearSpan n
  if j.destroy then
    let w := w.removeSpan n
    let w := w.finishAll j.cmds .ok
    let w := w.each j.pars fun i w => w.parFinish i .spanGone
    let w := w.event .span n false unitAbut
    if j.vfRemoved then w.health 0 unitAbut else w
  else
    let w := w.modSp n fun x => { x with mode := .active, reset := none }
    let w := w.each j.pars fun i w => w.parFinish i .ok
    let w := (w.event .span n false unitAbut).health 0 unitAbut
    if j.vfRemoved || !j.againDestroy.isEmpty then
      w.startReset n { stage := .keysFirst, destroy := true, vfRemoved := j.vfRemoved, flr := false, cmds := j.againDestroy,
                       pars := [], againDestroy := [] }
    else w

/-- A stage of the sequence is over: the drain (R293 step 3), or the last key (R296 step 4). -/
def W.advanceReset (w : W) (n : Nat) (drained : Bool) : W :=
  match (w.sp n).reset with
  | none => w
  | some j =>
    let live := w.liveKeys n
    match j.stage with
    | .keysFirst =>
      if live.isEmpty then w.stopSpan n j else w
    | .draining =>
      if !drained then w
      else
        let w := w.each (w.vdt.flows.filter fun f => f.span == n && !f.ctrl) fun f w => w.resetFlow f.id
        if j.destroy || live.isEmpty then w.completeReset n j
        else
          let w := w.each live fun k w => w.revokeKey k
          w.modSp n fun x => { x with reset := some { j with stage := .keysLast } }
    | .keysLast => if live.isEmpty then w.completeReset n j else w

/-- A span reset asked for by RESET_SPAN (a parapet job) or by a function-level reset (none): joins one in progress
(R294, R297). -/
def W.resetSpan (w : W) (n : Nat) (par : Option Nat) : W :=
  match (w.sp n).reset with
  | some j => w.modSp n fun x => { x with reset := some { j with pars := j.pars ++ par.toList, flr := j.flr || par.isNone } }
  | none =>
    if (w.sp n).mode = .absent then w
    else w.startReset n { stage := .draining, destroy := false, vfRemoved := false, flr := par.isNone, cmds := [],
                          pars := par.toList, againDestroy := [] }

/-- A restore fails: its command gets the status, and the span is reset (R302, R363). -/
def W.failRestore (w : W) (n cmd : Nat) (st : Status) (d : Detail := .none) : W := (w.finish cmd st d).resetSpan n none

end Sys2Proof.Machine
end

