-- ==== Sys2Proof/Machine/Spans.lean ====
section
/-! DEFINITION. Spans: create, resize, QoS, freeze, destroy, resets, functions, keys (R282 to R298, R399). -/

namespace Sys2Proof.Machine

open Sys2Proof

/-! ### The span record (R285, R286) -/

/-- The span record of a parameter block. -/
structure SpanRec where
  span : Nat
  keyBase : Nat
  keyCount : Nat
  vectors : Nat
  drain : Nat
  pages : Nat
  slots : Nat
  wHbm : Nat
  wVdt : Nat
  wPcie : Nat
  wSched : Nat
  seed : Nat
  cores : List Nat
deriving DecidableEq, Repr

/-- Read the 64 bytes. -/
def SpanRec.read (b : List Byte) : SpanRec :=
  { span := rd b 0 1, keyBase := rd b 2 2, keyCount := rd b 4 2, vectors := rd b 6 1, drain := rd b 7 1,
    pages := rd b 8 4, slots := rd b 12 2, wHbm := rd b 14 1, wVdt := rd b 15 1, wPcie := rd b 16 1, wSched := rd b 17 1,
    seed := rd b 24 8, cores := (List.range 128).filter fun c => bit (rd b 32 16) c }

/-- Fields in range and resv fields zero (R286 check 1). -/
def SpanRec.inRange (r : SpanRec) (b : List Byte) : Bool :=
  resvZero [(0, 1), (2, 16), (24, 8), (32, 16)] (b.take 64) && decide (1 ≤ r.span) && decide (r.span ≤ 63)
    && decide (r.keyBase ≤ 4095) && decide (r.keyBase + r.keyCount ≤ 4096) && decide (1 ≤ r.vectors) && decide (r.vectors ≤ 64)
    && decide (r.drain ≤ 80) && decide (r.pages ≤ 188416) && decide (64 ≤ r.slots) && decide (r.slots ≤ 2880)
    && decide (1 ≤ r.wHbm) && decide (1 ≤ r.wVdt) && decide (1 ≤ r.wPcie) && decide (1 ≤ r.wSched)

/-- Does VF n exist (R282)? -/
def W.vfExists (w : W) (n : Nat) : Bool := w.span.vfEnable && decide (n ≤ w.span.numVfs)

/-- Cores that pending changes have promised to other spans. -/
def W.promised (w : W) (n : Nat) : List Nat :=
  w.span.spans.flatMap fun (k, x) => if k = n then [] else ((x.resize.map (·.cores)).getD []).map (·.1)

/-- The checks of R286 in their order, then R288's on key slots that hold a key; none when all pass. -/
def W.checkRecord (w : W) (r : SpanRec) (b : List Byte) (create : Bool) : Option Status :=
  let x := w.sp r.span
  let now := w.coresOf r.span
  let add := r.cores.filter fun c => !now.contains c
  let keys := (List.range r.keyCount).map (r.keyBase + ·)
  let has k := !create && w.holdsKey r.span k
  let drop := if create then [] else (w.liveKeys r.span).filter fun k => !keys.contains k
  let n0 := (w.coresOf 0).filter fun c => !add.contains c && !(w.promised r.span).contains c
  let back := (now.filter fun c => !r.cores.contains c).length
  let grow := r.pages - x.hbmPages
  if !r.inRange b || (create && !(x.mode == .absent || x.mode == .destroying)) || (create && !w.vfExists r.span)
      || (!create && x.mode == .absent) then some .refusedFormat
  else if x.mode == .resetting || x.mode == .destroying || (!create && (x.resize.map (·.create)) == some true) then
    some .retryLater
  else if (add.any fun c => w.owner c != 0 || (w.promised r.span).contains c)
      || (keys.any fun k => !has k && !w.holdsKey 0 k) then some .refusedFit
  else if w.quota 0 - w.charged 0 < grow then some .refusedFit
  else if r.cores.length < w.reservedCores r.span || r.slots < w.reservedSlots r.span
      || n0.length + back < w.reservedCores 0
      || (now.any fun l => decide (r.slots < w.pinned l + w.reservedSlots r.span)) then some .refusedFit
  else if !drop.isEmpty then some .retryLater
  else none

/-- Apply a record (R287, R288): what can change at once does, the rest waits. -/
def W.applyRecord (w : W) (c : Cmd) (r : SpanRec) (create : Bool) : W :=
  let n := r.span
  let w := w.with (w.sp n).resize fun old w => (w.modSp n fun x => { x with resize := none }).finish old.cmd .squashed
  let pages := if r.pages < w.charged n then some r.pages else none
  let w := w.modSp n fun x =>
    { x with mode := if create then .active else x.mode, keyBase := r.keyBase, keyCount := r.keyCount, vectors := r.vectors,
             drainMs := if r.drain = 0 then 20 else r.drain, hbmPages := if pages.isSome then x.hbmPages else r.pages, spadSlots := r.slots,
             wHbm := r.wHbm, wVdt := r.wVdt, wPcie := r.wPcie, wSched := r.wSched,
             seedInit := if create then BitVec.ofNat 64 r.seed else x.seedInit,
             seed := if create then BitVec.ofNat 64 r.seed else x.seed }
  let w := { w with cmd.pba := w.cmd.pba.filter fun k => !(k / 64 == n && decide (r.vectors ≤ k % 64)) }
  let now := w.coresOf n
  let w := w.each now fun l w => w.shrinkPad l ((w.core' l).tiles.length - w.slotsOf l)
  let moves := ((r.cores.filter fun l => !now.contains l).map fun l => (l, n))
    ++ ((now.filter fun l => !r.cores.contains l).map fun l => (l, 0))
  let w := w.each (moves.filter fun m => w.movable m.1) fun m w => w.moveCore m.1 m.2
  let wait := moves.filter fun m => w.owner m.1 != m.2
  let w := w.event .span n false unitAbut
  if wait.isEmpty && pages.isNone then w.answer c .ok (if create then .count n else .none)
  else
    (w.modSp n fun x => { x with resize := some { cmd := c.id, create := create, cores := wait, pages := pages } }).begin c
      |>.accepted c

/-- SPAN_CREATE (R285 to R289). -/
def execSpanCreate (p : Pkt) (s : State) : Host.Outcome State Fault Refusal :=
  s.act fun w => w.intake opSpanCreate p fun c w =>
    let r := SpanRec.read p.block
    match w.checkRecord r p.block true with
    | some st => w.answer c st
    | none => w.applyRecord c r true

/-- SPAN_RESIZE (R288, R289). -/
def execSpanResize (p : Pkt) (s : State) : Host.Outcome State Fault Refusal :=
  s.act fun w => w.intake opSpanResize p fun c w =>
    let r := SpanRec.read p.block
    match w.checkRecord r p.block false with
    | some st => w.answer c st
    | none => w.applyRecord c r false

/-- CORE_MOVE (R288): a waiting core reaches its step boundary. -/
def execCoreMove (core : Nat) (s : State) : Host.Outcome State Fault Refusal :=
  s.act fun w =>
    w.each (List.range 64) fun n w =>
      match (w.sp n).resize with
      | none => w
      | some r =>
        match r.cores.find? fun m => m.1 == core with
        | none => w
        | some m =>
          if w.movable core then
            let w := w.moveCore core m.2
            (w.modSp n fun x => { x with resize := some { r with cores := r.cores.filter fun k => k.1 != core } }).settleResize n
          else w

/-- SPAN_QOS (R287, R290): the weights of a span, 1 to 255 each. -/
def execSpanQos (p : Pkt) (s : State) : Host.Outcome State Fault Refusal :=
  s.act fun w => w.intake opSpanQos p fun c w =>
    let n := p.arg 12 1
    let ws := (List.range 4).map fun i => p.arg (16 + i) 1
    if 63 < n || (w.sp n).mode == .absent || ws.contains 0 then w.answer c .refusedFormat
    else
      (w.modSp n fun x => { x with wHbm := p.arg 16 1, wVdt := p.arg 17 1, wPcie := p.arg 18 1, wSched := p.arg 19 1 }).answer c .ok

/-! ### Freeze and thaw (R298) -/

/-- The span has no admitted step and no secure point being taken: freezing can complete. -/
def W.quiet (w : W) (n : Nat) : Bool :=
  !(w.step.steps.any fun x => x.span == n && x.admitted) && !(((w.secOf n).map (·.due)).getD false)

/-- The last part of a freeze: DIRTY tiles are written back, every pin kept, and the span is FROZEN. -/
def W.freezeNow (w : W) (n : Nat) : W :=
  let w := w.each (w.coresOf n) fun l w => w.flush n l fun _ => true
  w.modSp n fun x => { x with mode := .frozen, freezing := none }

/-- SPAN_FREEZE, with or without THAW (R298). A SPAN_SAVE that THAW ends gets ST_SQUASHED (log entry 147). -/
def W.freezeCommand (w : W) (p : Pkt) : W :=
  w.intake opSpanFreeze p fun c w =>
    let n := p.arg 12 1
    let m := (w.sp n).mode
    if 63 < n || m == .absent then w.answer c .refusedFormat
    else if p.opflag8 then
      if m == .frozen then
        let job := (w.sp n).save.bind fun s => s.job.map (·.1)
        (w.finishAll job.toList .squashed).modSp n (fun x => { x with mode := .active, save := none }) |>.answer c .ok
      else w.answer c .retryLater
    else if m == .frozen then w.answer c .ok
    else if m != .active || (w.sp n).freezing.isSome then w.answer c .retryLater
    else
      let w := w.squashSpan n
      let idle := w.step.steps.filter fun x => x.span == n && x.phase == .compute && x.tasks.all fun t => t.core.isNone && !t.ended
      let w := w.each idle fun x w => w.failStep x.id .preempted .none
      if w.quiet n then (w.freezeNow n).answer c .ok
      else ((w.modSp n fun x => { x with freezing := some c.id }).begin c).accepted c

/-- SPAN_FREEZE (R298). -/
def execSpanFreeze (p : Pkt) (s : State) : Host.Outcome State Fault Refusal := s.act fun w => w.freezeCommand p

/-- SPAN_THAW: SPAN_FREEZE with OPFLAGS bit 8 (R298). -/
def execSpanThaw (p : Pkt) (s : State) : Host.Outcome State Fault Refusal :=
  s.act fun w => w.freezeCommand { p with flags := p.flags ||| 0x100#16 }

/-- FREEZE_COMPLETE (R298): no step of the span runs any more. -/
def execFreezeComplete (span : Nat) (s : State) : Host.Outcome State Fault Refusal :=
  s.act fun w => w.with (w.sp span).freezing fun c w => w.if (w.quiet span && (w.sp span).mode == .active) fun w => (w.freezeNow span).finish c .ok

/-! ### Destruction, resets, functions (R282, R283, R293, R297) -/

/-- SPAN_DESTROY (R297): ST_ACCEPTED, then ST_OK; a span in reset is destroyed after it, one being destroyed takes the command
along. -/
def execSpanDestroy (p : Pkt) (s : State) : Host.Outcome State Fault Refusal :=
  s.act fun w => w.intake opSpanDestroy p fun c w =>
    let n := p.arg 12 1
    if n = 0 || 63 < n || (w.sp n).mode == .absent then w.answer c .refusedFormat
    else
      let w := (w.begin c).accepted c
      match (w.sp n).reset with
      | some j =>
        if j.destroy then w.modSp n fun x => { x with reset := some { j with cmds := j.cmds ++ [c.id] } }
        else w.modSp n fun x => { x with reset := some { j with againDestroy := j.againDestroy ++ [c.id] } }
      | none =>
        w.startReset n { stage := .keysFirst, destroy := true, vfRemoved := false, flr := false, cmds := [c.id], pars := [],
                         againDestroy := [] }

/-- SPAN_RESET_DRAIN_END (R293 step 3): the drain is over, by itself or by its budget. -/
def execSpanResetDrainEnd (span : Nat) (s : State) : Host.Outcome State Fault Refusal :=
  s.act fun w => w.advanceReset span true

/-- Set NumVFs and VF Enable; the span of every VF removed is destroyed (R282, R283). -/
def W.setVfs (w : W) (k : Nat) (en : Bool) : W :=
  let gone n := w.vfExists n && !(en && decide (n ≤ k))
  let ns := ((List.range 64).drop 1).filter fun n => gone n && (w.sp n).mode != .absent
  let w := { w with span.numVfs := k, span.vfEnable := en }
  w.each ns fun n w =>
    match (w.sp n).reset with
    | some j => w.modSp n fun x => { x with reset := some { j with vfRemoved := true } }
    | none =>
      w.startReset n { stage := .keysFirst, destroy := true, vfRemoved := true, flr := false, cmds := [], pars := [],
                       againDestroy := [] }

/-- VF_ENABLE (R282): a configuration write, taken while the link is up and from B3 on (R376). -/
def execVfEnable (numVfs : Nat) (enable : Bool) (s : State) : Host.Outcome State Fault Refusal :=
  s.act fun w => w.if (w.busUp && decide (numVfs ≤ 63)) fun w => w.setVfs numVfs enable

/-- VF_REMOVE (R283), which is one too. -/
def execVfRemove (numVfs : Nat) (enable : Bool) (s : State) : Host.Outcome State Fault Refusal :=
  s.act fun w => w.if (w.busUp && decide (numVfs ≤ 63)) fun w => w.setVfs numVfs enable

/-! ### Keys (R296, R399) -/

/-- Does KEY name a slot that the span holds? -/
def W.ownKey (w : W) (n k : Nat) : Bool := decide (k < 4096) && w.holdsKey n k

/-- KEY_REVOKE (R296): ST_ACCEPTED, then ST_OK once the slot is zeroised; a second command completes with the first, and an
empty slot has nothing to wait for. -/
def execKeyRevoke (p : Pkt) (s : State) : Host.Outcome State Fault Refusal :=
  s.act fun w => w.intake opKeyRevoke p fun c w =>
    let k := p.arg 12 2
    if 4096 ≤ k then w.answer c .refusedFormat
    else if !w.ownKey c.fn k then w.answer c .refusedPermission
    else
      let w := (((w.begin c).accepted c).squashRestores [k]).revokeKey k
      if (w.keySlot k).state = .empty then w.finish c.id .ok
      else w.modKey k fun s => { s with cmds := s.cmds ++ [c.id] }

/-- KEY_ZEROISE (R296): every crypto engine reports the handle idle. A reset or destruction that waited for its keys goes
on. -/
def execKeyZeroise (slot : Nat) (s : State) : Host.Outcome State Fault Refusal :=
  s.act fun w => w.if ((w.keySlot slot).state == .revoking) fun w =>
    let w := w.zeroiseKey slot
    w.each (List.range 64) fun n w => w.if ((w.sp n).reset.isSome) fun w => w.advanceReset n false

end Sys2Proof.Machine
end

