-- ==== Sys2Proof/Machine/Pages.lean ====
section
/-! DEFINITION. Mapping, pins, migration, scrubbing, and the host window (R33, R35, R43 to R45, R48, R49, R56 to R61, R297,
R437). -/

namespace Sys2Proof.Machine

open Sys2Proof

/-! ### PIN (R48, R49, R437) -/

/-- Release the pins of the named tiles on a core: HOT tiles with unwritten changes are written back (R48). -/
def W.unpin (w : W) (n l : Nat) (vas : List Nat) : W :=
  let w := w.flush n l fun e => e.pin == .hot && vas.contains e.addr
  let held := (w.core' l).tiles.filter fun e => e.pin != .none && vas.contains e.addr
  let w := w.each held fun e w => w.resid l 5 e.addr false
  w.modCore l fun c => { c with tiles := updateWhere (fun e => vas.contains e.addr) (fun e => { e with pin := .none }) c.tiles }

/-- The stored tile as PIN takes it, with the generation of a DECK tile: a tile whose keystone fails twice is marked poisoned in
memory and taken so (R41, R437). -/
def W.pinFetch (w : W) (n va : Nat) (binds : List Bind) : Tile × Option Nat × W :=
  let take (pa : Nat) (gen : Option Nat) (bad : Bool) : Tile × Option Nat × W :=
    let t := w.tileAt pa
    if bad then (t.poisoned, gen, w)
    else if t.keystoneOk then (t, gen, w)
    else
      let w := (w.count n 0x248 2).channelEvent (chanOf (pa / pageBytes)) .doubleFetch
      (t.poisoned, gen, if gen.isNone then w.poisonHome n va else w.putTile pa t.poisoned)
  match w.locate n binds va with
  | .home pa _ => take pa none false
  | .deck g i pa => take pa (some g) (((w.image i).map fun im => im.bad.contains (im.tileAt pa)).getD false)
  | _ => ([], none, w)

/-- Generation under which a tile address resolves, for DECK tiles. -/
def W.genAt (w : W) (n va : Nat) (binds : List Bind) : Option Nat := match w.locate n binds va with | .deck g _ _ => some g | _ => none

/-- Pin one tile on a core: whether it is pinned poisoned, none while no slot can be had (R47). A HOT pin leaves no second copy
(R48); a fetch of the tile that is in progress ends with it, and contexts that wait for it are served from the pin's slot (TILE_FETCH_COMPLETE of that slot). -/
def W.pinOne (w : W) (n l : Nat) (cls : Pin) (binds : List Bind) (va : Nat) : Option Bool × W :=
  let gen := w.genAt n va binds
  if (w.ent l va gen).isNone && !w.hasSlot l then (none, w)
  else
    let w := if cls = .hot then
        w.each ((w.coresOf n).filter fun k => k != l) fun k w =>
          (w.flush n k fun e => e.is va gen).dropEnts k fun e => e.is va gen
      else w
    match w.ent l va gen with
    | some e =>
      if e.state matches .fetching then
        let (t, gen, w) := w.pinFetch n va binds
        let w := w.modEnt l va gen fun e => { e with pin := cls, prefetch := false, state := .clean, data := t }
        (some t.poison, (w.resid l 4 va false).fetchSpills l va gen t true)
      else (some e.data.poison, (w.modEnt l va gen fun e => { e with pin := cls, prefetch := false }).resid l 4 va false)
    | none =>
      let (t, gen, w) := w.pinFetch n va binds
      (some t.poison, ((w.enter l va gen .clean cls false t).resid l 4 va false).fetchSpills l va gen t true)

/-- Place the pins of a list (core, tile): those that found no slot, and the number pinned poisoned. -/
def W.placePins (w : W) (n : Nat) (cls : Pin) (binds : List Bind) : List (Nat × Nat) → List (Nat × Nat) × Nat × W
  | [] => ([], 0, w)
  | (l, va) :: rest =>
    let (b, w) := w.pinOne n l cls binds va
    let (left, bad, w) := W.placePins w n cls binds rest
    match b with
    | none => ((l, va) :: left, bad, w)
    | some p => (left, bad + (if p then 1 else 0), w)

/-- A PIN places its pins, and replies when the last has its slot (R47, R437); its ring waits with it (R264). The reply counts tiles pinned
poisoned. -/
def W.startPins (w : W) (c : Cmd) (n : Nat) (cls : Pin) (pins : List (Nat × Nat)) : W :=
  let (left, bad, w) := w.placePins n cls (w.currentBinds n) pins
  let j : PinJob := { cmd := c.id, span := n, cls := cls, left := left, table := none, count := bad }
  if left.isEmpty then w.answer c .ok (.count bad) else { w with core.pinJobs := w.core.pinJobs ++ [j] }.beginHeld c

/-- Slots may have come free: pins that wait for one are placed (R47). -/
def W.settlePins (w : W) : W :=
  w.each w.core.pinJobs fun j w =>
    let (left, bad, w) := w.placePins j.span j.cls (w.currentBinds j.span) j.left
    let k := if j.table.isNone then j.count + bad else j.count
    if left.isEmpty then { w with core.pinJobs := w.core.pinJobs.filter fun i => i.cmd != j.cmd }.finish j.cmd .ok (.count k)
    else { w with core.pinJobs := updateWhere (fun i => i.cmd == j.cmd) (fun (i : PinJob) => { i with left := left, count := k }) w.core.pinJobs }

/-- Does every tile of a list lie in a page that the span has mapped (R437), one not lost under R61, and in a deck window on a tile of
the image there? -/
def W.pinnable (w : W) (n : Nat) (binds : List Bind) (vas : List Nat) : Bool :=
  vas.all fun a => match w.locate n binds a with
    | .home _ _ => true
    | .deck _ _ _ => true
    | _ => false

/-- PIN (R437), with the checks in their order. A fetch that finds no slot waits for one (R47). -/
def execPin (p : Pkt) (s : State) : Host.Outcome State Fault Refusal :=
  s.act fun w => w.intake opPin p fun c w =>
    let n := c.fn
    let va := p.arg 12 6
    let k := p.arg 20 4
    let cls := p.arg 24 1
    let l := p.arg 26 2
    let binds := w.currentBinds n
    if 2 < cls ∨ k = 0 ∨ !isTileAddr va ∨ 128 ≤ l then w.answer c .refusedFormat
    else if w.owner l ≠ n then w.answer c .refusedPermission
    else
      let vas := (List.range (min k (2 ^ 27 * 481))).map (tileAfter va)
      if !w.pinnable n binds vas then w.answer c .refusedPermission
      else
        match w.physOf l with
        | none => w.answer c .refusedFit
        | some ph =>
          if (w.phys ph).state == .quarantined then w.answer c .retryLater
          else if cls = 0 then ((w.unpin n l vas).answer c .ok (.count 0)).settlePins
          else
            let pin := if cls = 1 then Pin.stay else Pin.hot
            let new := vas.filter fun a => !((w.core' l).tiles.any fun e => e.addr == a && e.pin != .none)
            if !w.pinsFit l new.length || vas.any fun a => ((w.hotAt n a (w.genAt n a binds)).getD l) != l then w.answer c .refusedFit
            else w.startPins c n pin (vas.map fun a => (l, a))

/-! ### MAP and UNMAP -/

/-- Channels of a placement class (R33, R56): SPREAD, DIE d, STACK s. -/
def placeChans (place arg : Nat) : List Nat :=
  match place with
  | 0 => List.range 256
  | 1 => (List.range 64).map (64 * arg + ·)
  | _ => (List.range 32).map (32 * arg + ·)

/-- The list turned so that it starts one place after `c`. DESIGN CHOICE (log entry 99): a span's first MAP, which has no MAP
before it (R56), starts at the list's first channel. -/
def rotateAfter (c : Option Nat) (l : List Nat) : List Nat :=
  match c with
  | none => l
  | some c => (l.filter fun x => decide (c < x)) ++ (l.filter fun x => decide (x ≤ c))

/-- Deal `k` pages across the channels in turn (R56), the lowest free page of each; a channel without one is passed over.
Answers the frames, and none when they do not suffice. -/
def W.deal (w : W) (cs : List Nat) : Nat → Option Nat → List Nat → Option (List Nat × Option Nat)
  | 0, last, got => some (got, last)
  | k + 1, last, got =>
    let next := (rotateAfter last cs).findSome? fun c =>
      if w.chanUsable c then
        ((List.range 768).find? fun i => w.frame (768 * c + i) == .free && !got.contains (768 * c + i)).map fun i => (c, 768 * c + i)
      else none
    match next with
    | none => none
    | some (c, f) => W.deal w cs k (some c) (got ++ [f])

/-- Is a page of a span being unmapped (R35)? -/
def W.unmapping (w : W) (n vp : Nat) : Bool := w.hbm.unmaps.any fun u => u.span == n && u.pages.any fun q => q.2 == vp

/-- MAP (R33, R56, R270). A page already mapped is ST_REFUSED_FORMAT, one still being unmapped ST_RETRY_LATER (log entry
23). DESIGN CHOICE (log entry 127): a page that R61 has unmapped counts as mapped until an UNMAP names it. -/
def execMap (p : Pkt) (s : State) : Host.Outcome State Fault Refusal :=
  s.act fun w => w.intake opMap p fun c w =>
    let n := c.fn
    let va := p.arg 12 6
    let k := p.arg 20 4
    let attr := p.arg 24 1
    let place := bits attr 3 2
    let arg := p.arg 25 1
    let vps := (List.range k).map (va / pageBytes + ·)
    if va % pageBytes ≠ 0 ∨ k = 0 ∨ 2 ^ 27 < va / pageBytes + k ∨ 2 < place ∨ (place = 1 ∧ 3 < arg) ∨ (place = 2 ∧ 7 < arg) then
      w.answer c .refusedFormat
    else if bit attr 1 then
      if vps.any fun vp => w.unmapping n vp then w.answer c .retryLater
      else if vps.any fun vp => (w.page n vp).isSome then w.answer c .refusedFormat
      else
        (w.each vps fun vp w => w.setPage n vp (some { frame := none, writable := false, deck := true, gone := false })).answer c .ok
    else if w.mapLimit n < w.charged n + k then w.answer c .refusedFit
    else if vps.any fun vp => w.unmapping n vp then w.answer c .retryLater
    else if vps.any fun vp => (w.page n vp).isSome then w.answer c .refusedFormat
    else
      let cs := placeChans place arg
      match w.deal cs k (w.sp n).lastChan [] with
      | some (fs, last) =>
        let w := w.each (vps.zip fs) fun (vp, f) w =>
          (w.setFrame f .page).setPage n vp (some { frame := some f, writable := bit attr 0, deck := false, gone := false })
        (w.modSp n fun x => { x with lastChan := last }).answer c .ok
      | none =>
        let free := (cs.map fun c => w.freeCount c .free + w.freeCount c .scrubWait).sum
        let training := cs.any fun c => w.stackState (stackOf c) == .training || w.stackState (stackOf c) == .retry
        w.answer c (if k ≤ free || training then .retryLater else .refusedFit)

/-- Tracing of a span stops with an error (R414). -/
def W.traceError (w : W) (n : Nat) : W :=
  let w := { w with obs.traces := Sparse.put (fun _ => none) w.obs.traces n none,
                    obs.trcErr := Sparse.put (fun _ => false) w.obs.trcErr n true }
  (w.setReg n 0x8020 ((w.regv n 0x8020) / 2 * 2)).health n unitAbut

/-- Does a traced region of a span touch a page (R413, R414)? -/
def W.tracePage (w : W) (n vp : Nat) : Bool :=
  match Sparse.get (fun _ => none) w.obs.traces n with
  | none => false
  | some t => decide (t.base / pageBytes ≤ vp) && decide (vp < t.base / pageBytes + t.pages)

/-- Pages leave a span: copies are invalidated, homes join the scrub queue (R35), and a save in progress has them no more (R299). -/
def W.unmapPages (w : W) (n : Nat) (vps : List Nat) : W :=
  let w := w.each (w.coresOf n) fun l w => w.dropEnts l fun e => vps.contains (e.addr / pageBytes)
  let w := w.modSp n fun x => { x with save := x.save.map fun s => { s with dirty := s.dirty.filter fun vp => !vps.contains vp } }
  ((w.each vps fun vp w => w.dropPage n vp).settleResizes).settlePins

/-- Prefetches of these pages that are in flight are dropped, those of run-ahead too (R35, R248); a fetch that a context of a step
waits for goes on (R55). -/
def W.dropPrefetches (w : W) (n : Nat) (vps : List Nat) : W :=
  let wanted (e : TileEnt) : Bool := w.step.steps.any fun x => x.span == n && x.tasks.any fun t => t.ctxs.any fun c =>
    c.state == .waitFetch e.addr e.gen
  w.each (w.coresOf n) fun l w => w.dropEnts l fun e =>
    vps.contains (e.addr / pageBytes) && e.prefetch && (e.state matches .fetching) && !wanted e

/-- UNMAP (R35): the reply and the freeing wait for the steps admitted before it. -/
def execUnmap (p : Pkt) (s : State) : Host.Outcome State Fault Refusal :=
  s.act fun w => w.intake opUnmap p fun c w =>
    let n := c.fn
    let va := p.arg 12 6
    let k := p.arg 20 4
    if va % pageBytes ≠ 0 ∨ k = 0 ∨ 2 ^ 27 < va / pageBytes + k then w.answer c .refusedFormat
    else
      let mapped := (w.pagesOf n).filter fun (vp, _) => decide (va / pageBytes ≤ vp) && decide (vp < va / pageBytes + k)
      let vps := mapped.map (·.1)
      if vps.length < k || vps.any fun vp => w.unmapping n vp then w.answer c .refusedFormat
      else
        let w := if vps.any fun vp => w.tracePage n vp then w.traceError n else w
        let before := (w.step.steps.filter fun x => x.span == n && x.admitted).map (·.id)
        if before.isEmpty then (w.unmapPages n vps).answer c .ok
        else
          let u : UnmapJob := { cmd := c.id, span := n, pages := vps.map fun vp => (n, vp), steps := before }
          let w := w.dropPrefetches n vps
          { w with hbm.unmaps := w.hbm.unmaps ++ [u] }.begin c

/-- UNMAP_COMPLETE (R35): every step admitted before the UNMAP has committed or failed. -/
def execUnmapComplete (cmd : Nat) (s : State) : Host.Outcome State Fault Refusal :=
  s.act fun w => w.with (w.hbm.unmaps.find? fun u => u.cmd == cmd) fun u w =>
    w.if (!(w.step.steps.any fun x => u.steps.contains x.id && x.admitted)) fun w =>
      let w := { w with hbm.unmaps := w.hbm.unmaps.filter fun u => u.cmd != cmd }
      (w.unmapPages u.span (u.pages.map (·.2))).finish cmd .ok

/-! ### Migration (R58 to R61) -/

/-- Is a page of this channel in migration (R59)? -/
def W.moving (w : W) (c : Nat) : Bool := w.hbm.moves.any fun m => chanOf m.old == c

/-- Start moving a page to a channel; false when it cannot. -/
def W.moveTo (w : W) (n vp c : Nat) : Bool × W :=
  match (w.page n vp).bind (·.frame) with
  | none => (false, w)
  | some f =>
    match (if w.chanUsable c then w.frameIn c .free else none) with
    | none => (false, w)
    | some g => (true, w.startMove n vp f g false)

/-- MIGRATE (R58): the reply comes when the migration has started (log entry 24). -/
def execMigrate (p : Pkt) (s : State) : Host.Outcome State Fault Refusal :=
  s.act fun w => w.intake opMigrate p fun c w =>
    let vp := p.arg 12 6 / pageBytes
    if p.arg 12 6 % pageBytes ≠ 0 then w.answer c .refusedFormat
    else
      match (w.page c.fn vp).bind (·.frame) with
      | none => w.answer c .refusedPermission
      | some f =>
        if w.moving (chanOf f) then w.answer c .retryLater
        else if chanOf f = p.arg 18 1 then w.answer c .ok
        else
          let (ok, w) := w.moveTo c.fn vp (p.arg 18 1)
          w.answer c (if ok then .ok else .refusedFit)

/-- MIGRATION_SAMPLE_WINDOW (adaptive placement, R59, R64): occupancies of one 1 ms window, and the candidate's most-read
page. -/
def execMigrationSampleWindow (occupancy : List (Nat × Nat)) (span page : Nat) (s : State) : Host.Outcome State Fault Refusal :=
  s.act fun w =>
    let ctl := w.regv 0 0x5004
    let high := bits ctl 15 8 + 80
    let low := if bits ctl 23 16 = 0 then 50 else bits ctl 23 16
    let w := w.each occupancy fun (c, o) w => w.modChan c fun x => { x with highWindows := if high < o then x.highWindows + 1 else 0 }
    w.with ((w.page span page).bind (·.frame)) fun f w =>
      let c := chanOf f
      let cand := occupancy.filter fun (k, o) => decide (o < low) && k != c && w.chanUsable k && (w.frameIn k .free).isSome
      let best := cand.foldl (fun (b : Option (Nat × Nat)) x => match b with
        | none => some x | some y => if x.2 < y.2 then some x else some y) none
      w.if (bit ctl 0 && decide (8 ≤ (w.chan c).highWindows) && !w.moving c) fun w =>
        w.with best fun b w => (w.moveTo span page b.1).2.modChan c fun x => { x with highWindows := 0 }

/-- PAGE_MIGRATION_FLIP (R58): the last chunk is copied, the translation flips. Only the first migration of a channel runs. A page
that could not be read during its evacuation is at its new home with every tile poisoned (R61). -/
def execPageMigrationFlip (span : Nat) (page : CopiedPage) (s : State) : Host.Outcome State Fault Refusal :=
  s.act fun w => w.with (w.hbm.moves.find? fun m => m.span == span && m.page == page.page && !m.flipped) fun m w =>
    w.if ((w.hbm.moves.find? fun k => chanOf k.old == chanOf m.old && !k.flipped) == some m) fun w =>
      let cells := Sparse.window w.mem (frameAddr m.old) pageBytes
      let w := { w with ops := .page (frameAddr m.new) cells :: w.ops,
                        hbm.moves := updateWhere (fun k => k == m) (fun k => { k with flipped := true }) w.hbm.moves }
      let w := if page.unreadable && m.evac then w.poisonFrame m.new else w
      (w.repoint m.span m.page m.old m.new).setFrame m.old .oldHome

/-- OLD_HOME_RELEASE (R58 step 4): the reads issued before the flip have completed. -/
def execOldHomeRelease (span page : Nat) (s : State) : Host.Outcome State Fault Refusal :=
  s.act fun w => w.with (w.hbm.moves.find? fun m => m.span == span && m.page == page && m.flipped) fun m w =>
    let w := { w with hbm.moves := w.hbm.moves.filter fun k => k != m }
    let w := if m.evac then w.setFrame m.old .withdrawn else w.freePage m.old
    w.settleChannel (chanOf m.old)

/-! ### Scrubbing and errors (R57, R59, R297, R332) -/

/-- Span that a frame serves, for counters (R349). -/
def W.spanOfFrame (w : W) (f : Nat) : Nat := match w.userOf f with | some (n, _) => if n = 64 then 0 else n | none => 0

/-- PATROL_SCRUB (R57): a beat group of a tile is corrected and written back, or its tile is poisoned. -/
def execPatrolScrub (channel frame tile : Nat) (correctable : Bool) (s : State) : Host.Outcome State Fault Refusal :=
  s.act fun w => w.if (decide (channel < 256) && decide (frame < 768) && decide (tile < 481)) fun w =>
    let f := 768 * channel + frame
    if correctable then (w.count (w.spanOfFrame f) 0x260 1).rowEvent f tile .correctedSymbol
    else
      let pa := frameAddr f + tile * tileBytes
      let w := match (w.userOf f).filter fun q => decide (q.1 < 64) with
        | some (n, vp) => w.poisonHome n (vp * pageBytes + tile * tileBytes)
        | none => w.putTile pa (w.tileAt pa).poisoned
      w.rowEvent f tile .uncorrectable

/-- HBM_RETRAIN (R59, R327, R332): a background retraining of a channel ends, with its margin, and the controller reads how much the
stack's own ECC has corrected; or the channel has not responded twice. R332 gives those corrections no weight. -/
def execHbmRetrain (channel : Nat) (low : Bool) (ends : RetrainEnd) (s : State) : Host.Outcome State Fault Refusal :=
  s.act fun w => w.if (decide (channel < 256) && bit (w.regv 0 0x5008) 0 && (w.chan channel).state == .inService) fun w =>
    let w := w.modChan channel fun x => { x with low := low, onDie := x.onDie + ends.onDie }
    let w := if low then w.channelEvent channel .lowMargin else w
    let w := if ends.failed then w.channelEvent channel .retrainFailure else w
    if ends.silent then w.channelEvent channel .unresponsive else w

/-- PAGE_SCRUB_DONE (R297): every tile of a queued page is a zero tile, its padding zero; it can be mapped. -/
def execPageScrubDone (frame : Nat) (s : State) : Host.Outcome State Fault Refusal :=
  s.act fun w => w.if (decide (frame < 196608) && w.frame frame == .scrubWait && w.chanUsable (chanOf frame)) fun w =>
    { w with ops := .page (frameAddr frame) [] :: w.ops }.setFrame frame .free

/-! ### The host window (R43 to R45) -/

/-- The span and device address of a window offset; none while the window is closed (R44). -/
def W.window (w : W) (fn off : Nat) : Option (Nat × Nat) :=
  let hi := w.regv fn 0x303C
  let n := if fn = 0 then bits hi 29 24 else fn
  if w.fw.windowOff || !bit hi 31 || 2 ^ 28 ≤ off || (w.sp n).mode == .absent then none
  else some (n, w.regv fn 0x3038 + hi % 65536 * 2 ^ 32 + off)

/-- Is a page unmapped for the window already: an UNMAP of it has been read, or its span is being reset or destroyed (R45)? -/
def W.windowGone (w : W) (n vp : Nat) : Bool :=
  w.unmapping n vp || w.ending n

/-- A byte as the window reads it (R45). -/
def W.windowByte (w : W) (n va : Nat) : Byte :=
  if w.windowGone n (va / pageBytes) then 0#8
  else
    match w.locate n (w.currentBinds n) va with
    | .home pa _ => Sparse.get memBlank w.mem pa
    | .deck _ _ pa => Sparse.get memBlank w.mem pa
    | _ => 0#8

/-- BAR4_READ (R45). -/
def execBar4Read (fn off len : Nat) (s : State) : Host.Outcome State Fault Refusal :=
  s.act fun w => w.if w.busUp fun w =>
    match w.window fn off with
    | none => w.emit (.readData fn (List.replicate len 0#8))
    | some (n, va) => w.emit (.readData fn ((List.range len).map fun i => w.windowByte n (va + i)))

/-- The part of a window write that lies in one page (R45). -/
def W.windowWrite (w : W) (fn n va : Nat) (bs : List Byte) : W :=
  let ok := !w.windowGone n (va / pageBytes) && (match w.page n (va / pageBytes) with
    | some e => !e.deck && e.writable && e.frame.isSome
    | none => false)
  match ok, w.locate n [] va with
  | true, .home pa _ =>
    let w := { w with ops := .bytes pa bs :: w.ops }.markDirty n (va / pageBytes)
    let o := va % pageBytes
    let ts := (List.range ((o + bs.length - 1) / tileBytes + 1 - o / tileBytes)).map fun i => va - o + (o / tileBytes + i) * tileBytes
    w.each ts fun a w => (w.each (w.coresOf n) fun l w => w.invalidate l a).touchBn1 n a
  | _, _ => w.modSp fn fun x => { x with winDrops := min (2 ^ 32 - 1) (x.winDrops + 1) }

/-- A window write, page by page. -/
def W.windowWrites : Nat → W → Nat → Nat → Nat → List Byte → W
  | 0, w, _, _, _, _ => w
  | k + 1, w, fn, n, va, bs =>
    let room := pageBytes - va % pageBytes
    if bs.isEmpty then w
    else W.windowWrites k (w.windowWrite fn n va (bs.take room)) fn n (va + room) (bs.drop room)

/-- BAR4_WRITE (R45). -/
def execBar4Write (fn off : Nat) (data : List Byte) (s : State) : Host.Outcome State Fault Refusal :=
  s.act fun w => w.if w.busUp fun w =>
    match w.window fn off with
    | none => w
    | some (n, va) => w.windowWrites (data.length / pageBytes + 2) fn n va data

end Sys2Proof.Machine
end

