-- ==== Sys2Proof/Machine/Sha.lean ====
section
/-! DEFINITION. SHA-256 and SHA-384, which R208, R389 and R396 name: the functions of FIPS 180-4 (log entry 32), over natural
numbers so that the kernel evaluates them. The constants are computed from what they are: fractions of roots of primes. -/

namespace Sys2Proof.Machine

open Sys2Proof

/-- What tells the two functions apart: word width, rounds, how many primes stand before those of the initial hash, and which
rotations (and shifts) each sigma function takes the exclusive or of. -/
structure Sha where
  width : Nat
  rounds : Nat
  skip : Nat
  sumA : List Nat
  sumE : List Nat
  mixOld : List Nat × Nat
  mixNew : List Nat × Nat

/-- SHA-256. -/
def Sha.s256 : Sha :=
  { width := 32, rounds := 64, skip := 0, sumA := [22, 13, 2], sumE := [25, 11, 6]
    mixOld := ([18, 7], 3), mixNew := ([19, 17], 10) }

/-- SHA-384, before its result is cut to six words. -/
def Sha.s384 : Sha :=
  { width := 64, rounds := 80, skip := 8, sumA := [39, 34, 28], sumE := [41, 18, 14]
    mixOld := ([8, 1], 7), mixNew := ([61, 19], 6) }

/-- The first 80 primes: below 410 what none of the primes below 23 divides. -/
def smallPrimes : List Nat :=
  (List.range 410).filter fun n => 2 ≤ n && [2, 3, 5, 7, 11, 13, 17, 19].all fun d => n % d != 0 || n == d

/-- The `n`-th root of `x` rounded down, its lowest `b` bits found from the top where `r` holds those above. -/
def rootFrom (n x : Nat) : Nat → Nat → Nat
  | 0, r => r
  | b + 1, r => rootFrom n x b (if (r + 2 ^ b) ^ n ≤ x then r + 2 ^ b else r)

/-- The first `width` bits of the fraction of the `n`-th root of `p`, which lies below 16. -/
def Sha.fraction (s : Sha) (n p : Nat) : Nat := rootFrom n (p * 2 ^ (n * s.width)) (s.width + 4) 0 % 2 ^ s.width

/-- The initial hash: of the square roots of eight primes. -/
def Sha.start (s : Sha) : List Nat := ((smallPrimes.drop s.skip).take 8).map (s.fraction 2)

/-- The round constants: of the cube roots of the first primes. -/
def Sha.constants (s : Sha) : List Nat := (smallPrimes.take s.rounds).map (s.fraction 3)

/-- A word turned right by each amount of the list, all of it under exclusive or. -/
def Sha.turns (s : Sha) (amounts : List Nat) (x : Nat) : Nat :=
  amounts.foldl (fun acc n => acc ^^^ (x * (2 ^ s.width + 1) / 2 ^ n % 2 ^ s.width)) 0

/-- A big-endian number. -/
def beNat (b : List Byte) : Nat := b.foldl (fun v x => v * 256 + x.toNat) 0

/-- The message padded: a 1 bit, zeros, and its length in bits in the last two words of a block of 16 words. -/
def Sha.padded (s : Sha) (m : List Byte) : List Byte :=
  let block := 2 * s.width
  let len := s.width / 4
  m ++ 0x80#8 :: List.replicate ((2 * block - (m.length + 1 + len) % block) % block) 0#8 ++ (leBytes len (8 * m.length)).reverse

/-- What the rounds carry: the four latest values of either recurrence, newest first, and the next 16 schedule words. -/
structure ShaRun where
  top : List Nat
  low : List Nat
  sched : List Nat

/-- The schedule, one word on. -/
def Sha.nextWord (s : Sha) (q : List Nat) : Nat :=
  let word := fun i => q.getD i 0
  let old := s.turns s.mixOld.1 (word 1) ^^^ word 1 / 2 ^ s.mixOld.2
  let new := s.turns s.mixNew.1 (word 14) ^^^ word 14 / 2 ^ s.mixNew.2
  (word 0 + old + word 9 + new) % 2 ^ s.width

/-- One round with its constant: where a bit of the newest low value is set the second decides, else the third; of the top
values the majority. -/
def Sha.advance (s : Sha) (r : ShaRun) (c : Nat) : ShaRun :=
  let p := fun i => r.top.getD i 0
  let q := fun i => r.low.getD i 0
  let choice := q 2 ^^^ (q 0 &&& (q 1 ^^^ q 2))
  let most := (p 0 &&& p 1) ||| (p 2 &&& (p 0 ||| p 1))
  let feed := q 3 + s.turns s.sumE (q 0) + choice + c + r.sched.headD 0
  { top := (feed + s.turns s.sumA (p 0) + most) % 2 ^ s.width :: r.top.take 3
    low := (p 3 + feed) % 2 ^ s.width :: r.low.take 3
    sched := r.sched.drop 1 ++ [s.nextWord r.sched] }

/-- The hash after one block, given as its 16 words. -/
def Sha.absorb (s : Sha) (ks h block : List Nat) : List Nat :=
  let r := ks.foldl s.advance { top := h.take 4, low := h.drop 4, sched := block }
  List.zipWith (fun x y => (x + y) % 2 ^ s.width) h (r.top ++ r.low)

/-- A list cut into `n` pieces of `k`. -/
def pieces {α : Type} (k : Nat) : Nat → List α → List (List α)
  | 0, _ => []
  | n + 1, l => l.take k :: pieces k n (l.drop k)

/-- The hash words of a message. -/
def Sha.words (s : Sha) (m : List Byte) : List Nat :=
  let p := s.padded m
  let ws := (pieces (s.width / 8) (8 * p.length / s.width) p).map beNat
  let ks := s.constants
  (pieces 16 (ws.length / 16) ws).foldl (s.absorb ks) s.start

/-- The first bytes of a hash as the number whose little-endian bytes they are. -/
def Sha.digest (s : Sha) (bytes : Nat) (m : List Byte) : Nat :=
  rd ((s.words m).flatMap fun x => (leBytes (s.width / 8) x).reverse) 0 bytes

/-- SHA-256 (R208). -/
def sha256 (m : List Byte) : BitVec 256 := BitVec.ofNat 256 (Sha.s256.digest 32 m)

/-- SHA-384 (R389, R396). -/
def sha384 (m : List Byte) : BitVec 384 := BitVec.ofNat 384 (Sha.s384.digest 48 m)

end Sys2Proof.Machine
end

