-- ==== Sys2Proof/Machine/Xts.lean ====
section
/-! DEFINITION. AES-256-XTS, under which streams enter and leave (R206): FIPS 197 and IEEE 1619, to which the manual refers. Bytes are
numbers here; a block is 16 of them, column by column. -/

namespace Sys2Proof.Machine

open Sys2Proof

/-! ### AES-256 -/

/-- The substitution of AES, byte by byte, as one number. -/
def aesBox : Nat := 0x16bb54b00f2d99416842e6bf0d89a18cdf2855cee9871e9b948ed9691198f8e19e1dc186b95735610ef6034866b53e708a8bbd4b1f74dde8c6b4a61c2e2578ba08ae7a65eaf4566ca94ed58d6d37c8e779e4959162acd3c25c2406490a3a32e0db0b5ede14b8ee4688902a22dc4f816073195d643d7ea7c41744975fec130ccdd2f3ff1021dab6bcf5389d928f40a351a89f3c507f02f94585334d43fbaaefd0cf584c4a39becb6a5bb1fc20ed00d153842fe329b3d63b52a05a6e1b1a2c830975b227ebe28012079a059618c323c7041531d871f1e5a534ccf73f362693fdb7c072a49cafa2d4adf04759fa7dc982ca76abd7fe2b670130c56f6bf27b777c63
/-- Its inverse. -/
def aesInvBox : Nat := 0x7d0c2155631469e126d677ba7e042b17619953833cbbebc8b0f52aae4d3be0a0ef9cc9939f7ae52d0d4ab519a97f51605fec8027591012b131c7078833a8dd1ff45acd78fec0db9a2079d2c64b3e56fc1bbe18aa0e62b76f89c5291d711af1476edf751ce837f9e28535ade72274ac9673e6b4f0cecff297eadc674f4111913a6b8a130103bdafc1020f3fca8f1e2cd00645b3b80558e4f70ad3bc8c00abd890849d8da75746155edab9edfd5048706c92b6655dcc5ca4d41698688664f6f87225d18b6d49a25b76b224d92866a12e084ec3fa420b954cee3d23c2a632947b54cbe9dec444438e3487ff2f9b8239e37cfbd7f3819ea340bf38a53630d56a0952
/-- A byte substituted. -/
def aesSub (box x : Nat) : Nat := box / 2 ^ (8 * x) % 256

/-- Times x in GF(2^8). -/
def aesDouble (a : Nat) : Nat := if a < 128 then 2 * a else (2 * a - 256).xor 27
/-- A product in GF(2^8); `b` is one of 1, 2, 3, 9, 11, 13, 14. -/
def aesTimes (b a : Nat) : Nat :=
  let a2 := aesDouble a
  let a4 := aesDouble a2
  let pick (k x : Nat) : Nat := if b / k % 2 = 1 then x else 0
  (((pick 1 a).xor (pick 2 a2)).xor (pick 4 a4)).xor (pick 8 (aesDouble a4))

/-- Byte by byte exclusive or. -/
def xorBytes (a b : List Nat) : List Nat := a.zipWith Nat.xor b

/-- Each column multiplied by the circulant matrix of a row. -/
def aesMix (row : List Nat) (s : List Nat) : List Nat :=
  (List.range 16).map fun i =>
    (List.range 4).foldl (fun acc j => acc.xor (aesTimes (row.getD ((j + 4 - i % 4) % 4) 0) (s.getD (i / 4 * 4 + j) 0))) 0

/-- Row r of the columns turned by r places, to the left or back. -/
def aesShift (back : Bool) (s : List Nat) : List Nat :=
  (List.range 16).map fun i => s.getD ((i + (if back then 12 else 4) * (i % 4)) % 16) 0

/-- The next word of the key schedule: word `i` from the one before it and the one eight back. -/
def aesWord (i : Nat) (prev back : List Nat) : List Nat :=
  let sub (l : List Nat) : List Nat := l.map (aesSub aesBox)
  let t :=
    if i % 8 = 0 then xorBytes (sub (prev.drop 1 ++ prev.take 1)) [2 ^ (i / 8 - 1), 0, 0, 0]
    else if i % 8 = 4 then sub prev else prev
  xorBytes back t

/-- The 15 round keys of a key of 32 bytes. -/
def aesKeys (key : List Nat) : List (List Nat) :=
  let first := (List.range 8).map fun i => (key.drop (4 * i)).take 4
  let ws := (List.range 52).foldl (fun ws k => ws ++ [aesWord (k + 8) (ws.getD (k + 7) []) (ws.getD k [])]) first
  (List.range 15).map fun r => ((ws.drop (4 * r)).take 4).flatten

/-- A block encrypted. -/
def aesEnc (ks : List (List Nat)) (s : List Nat) : List Nat :=
  let k (r : Nat) : List Nat := ks.getD r []
  let sub (s : List Nat) : List Nat := aesShift false (s.map (aesSub aesBox))
  let s := (List.range 13).foldl (fun s r => xorBytes (aesMix [2, 3, 1, 1] (sub s)) (k (r + 1))) (xorBytes s (k 0))
  xorBytes (sub s) (k 14)

/-- A block decrypted. -/
def aesDec (ks : List (List Nat)) (s : List Nat) : List Nat :=
  let k (r : Nat) : List Nat := ks.getD r []
  let sub (s : List Nat) : List Nat := (aesShift true s).map (aesSub aesInvBox)
  let s := (List.range 13).foldl (fun s r => aesMix [14, 11, 13, 9] (xorBytes (sub s) (k (13 - r)))) (xorBytes s (k 14))
  xorBytes (sub s) (k 0)

/-! ### XTS -/

/-- Bytes of a number, the lowest first. -/
def natBytes (n x : Nat) : List Nat := (List.range n).map fun i => x / 256 ^ i % 256
/-- The number of some bytes. -/
def ofBytes (l : List Nat) : Nat := l.foldr (fun b x => x * 256 + b) 0

/-- Times x in GF(2^128), on the number of a tweak's bytes. -/
def xtsDouble (t : Nat) : Nat := if t < 2 ^ 127 then 2 * t else (2 * t - 2 ^ 128).xor 135

/-- The tweak of block `b` of a stream: the encrypted number of its data unit of 256 blocks, times x for each block before it in
the unit. -/
def xtsTweak (ks : List (List Nat)) (b : Nat) : List Nat :=
  natBytes 16 ((List.range (b % 256)).foldl (fun t _ => xtsDouble t) (ofBytes (aesEnc ks (natBytes 16 (b / 256)))))

/-- Bytes of a stream from block `first` on, encrypted or decrypted. PRESUMED (log entry 14): the first half of a key slot encrypts data,
the second the tweak. -/
def xts (enc : Bool) (key : BitVec 512) (first : Nat) (bs : List Byte) : List Byte :=
  let k := natBytes 64 key.toNat
  let k1 := aesKeys (k.take 32)
  let k2 := aesKeys (k.drop 32)
  (List.range (ceilDiv bs.length 16)).flatMap fun i =>
    let t := xtsTweak k2 (first + i)
    let x := xorBytes (((bs.drop (16 * i)).take 16).map BitVec.toNat) t
    (xorBytes (if enc then aesEnc k1 x else aesDec k1 x) t).map (BitVec.ofNat 8)

end Sys2Proof.Machine
end

