-- ==== Sys2Proof/Machine/Decks.lean ====
section
/-! DEFINITION. Decks (R202 to R221). -/

namespace Sys2Proof.Machine

open Sys2Proof

/-! ### Digests and windows -/

/-- The digest of R208 over tiles. -/
def deckDigest (ts : List Tile) : BitVec 256 :=
  let page p := ((ts.drop (481 * p)).take 481).flatMap Tile.bytes
  let parts := (List.range (ceilDiv ts.length 481)).flatMap fun p => leBytes 32 (sha256 (page p)).toNat
  sha256 (leBytes 8 ts.length ++ parts)

/-- DECK pages of a span from a page on, without a gap and in no slot's window. -/
def W.windowPages (w : W) (n vp : Nat) : Nat → Nat
  | 0 => 0
  | k + 1 => if ((w.page n vp).map (·.deck)) = some true && (w.slotAt n vp).isNone then 1 + W.windowPages w n (vp + 1) k else 0

/-- Pages of a slot's window (R202): the number that was fixed with it, or for a slot without one that which an address fixes, the DECK
pages from there on. -/
def W.windowSize (w : W) (n k base : Nat) : Nat :=
  let s := w.slot n k
  if s.window.isSome then s.pages else w.windowPages n (base / pageBytes) w.hbm.pages.length

/-- The slot has the window that begins at an address from now on (R202). -/
def W.fixWindow (w : W) (n k base : Nat) : W :=
  let q := w.windowSize n k base
  w.modSlot n k fun s => { s with window := some base, pages := q }

/-- Lowest free frames for the pages of an image; none when they do not suffice. -/
def W.takeFrames (w : W) (k : Nat) : Option (List Nat) := (w.deal (List.range 256) k none []).map (·.1)

/-! ### DECK_SWITCH (R209, R214, R218) -/

/-- A switch takes effect (R218): older generations, which nothing binds, go; the generation advances, and what was current is the
older one. An image that only they referred to goes after that, unless it is the one that becomes current. -/
def W.switchNow (w : W) (n k image : Nat) : W :=
  let gone := (w.slot n k).olds
  let w := w.each gone fun o w => w.dropGen n k o.gen
  let w := w.modSlot n k fun s =>
    { s with gen := nextGen s.gen, current := some image, olds := (s.current.map fun i => { gen := s.gen, image := i, window := s.window, pages := s.pages }).toList,
             staged := if s.staged = some image then none else s.staged, waiting := none }
  (w.each gone fun o w => (w.reap o.image).settleRetired n k o.gen).settleResizes

/-- Is a generation of a slot bound by an admitted step or an open request (R217)? -/
def W.genBound (w : W) (n k gen : Nat) : Bool := w.boundBySteps n k gen || w.boundByRequests n k gen

/-- May the older generations of a slot go: nothing binds one (R217)? -/
def W.olderFree (w : W) (n k : Nat) : Bool := !((w.slot n k).olds.any fun o => w.genBound n k o.gen)

/-- Does an open request bind an older generation of a slot (R218)? -/
def W.olderHeld (w : W) (n k : Nat) : Bool := (w.slot n k).olds.any fun o => w.boundByRequests n k o.gen

/-- A switch on behalf of a command: at once, or when the steps that bind the older generation have ended (R218). A load with
SWITCH follows the same rules (R209); one that an open request stands in the way of stays staged (log entry 25). -/
def W.switchOrWait (w : W) (c : Nat) (n k image : Nat) : W :=
  if w.olderFree n k then
    let w := w.switchNow n k image
    w.finish c .ok (.count (w.heldCount n k))
  else w.modSlot n k fun s => { s with waiting := some (c, image) }

/-- DECK_SWITCH (R218), with the refusals of its table. -/
def execDeckSwitch (p : Pkt) (s : State) : Host.Outcome State Fault Refusal :=
  s.act fun w => w.intake opDeckSwitch p fun c w =>
    let n := c.fn
    let k := p.arg 12 1
    let dig : BitVec 256 := BitVec.ofNat 256 (p.arg 16 32)
    let win := p.arg 48 6
    if 15 < k then w.answer c .refusedFormat
    else
      let d := w.slot n k
      let img : Option Image :=
        if dig = 0#256 then d.staged.bind fun i => w.image i
        else w.deck.images.find? fun i => i.digest == dig && !i.loading && (i.shareable || i.owner == n)
      if d.load.isSome || d.waiting.isSome then w.answer c .retryLater
      else
        match img with
        | none => w.answer c .refusedContract
        | some i =>
          let base := match d.window with | some b => some b | none => if win = 0 then none else some win
          match base with
          | none => w.answer c .refusedFormat
          | some b =>
            if b % pageBytes ≠ 0 then w.answer c .refusedFormat
            else if w.windowSize n k b * pageTiles < i.tiles then w.answer c .refusedFit
            else if w.olderHeld n k then w.answer c .retryLater
            else ((w.fixWindow n k b).beginHeld c).switchOrWait c.id n k i.id

/-- DECK_SWITCH_EFFECT (R218): the steps that bound the older generation have ended. -/
def execDeckSwitchEffect (span slot : Nat) (s : State) : Host.Outcome State Fault Refusal :=
  s.act fun w => w.with (w.slot span slot).waiting fun (c, i) w =>
    w.if (w.olderFree span slot) fun w =>
      let w := w.switchNow span slot i
      w.finish c .ok (.count (w.heldCount span slot))

/-- The older generations of a slot that nothing binds any more go (R217). A DECK_RETIRE that waited for the last of its
generations replies (R219). -/
def W.releaseGeneration (w : W) (n k : Nat) : W :=
  let gens := ((w.slot n k).olds.filter fun o => !w.genBound n k o.gen).map (·.gen)
  (w.each gens fun g w => w.releaseGen n k g).settleResizes

/-- GENERATION_RELEASE (R217). -/
def execGenerationRelease (span slot : Nat) (s : State) : Host.Outcome State Fault Refusal :=
  s.act fun w => w.releaseGeneration span slot

/-- DECK_RETIRE (R219): the slot is EMPTY, its generation advances, a staged image is discarded, its window is free. What was current
stays as an older generation, in the window that it had, while something binds it; ST_OK follows when the last one is released. A
switch that waits is squashed, and a load in progress keeps its window (log entry 105). -/
def execDeckRetire (p : Pkt) (s : State) : Host.Outcome State Fault Refusal :=
  s.act fun w => w.intake opDeckRetire p fun c w =>
    let n := c.fn
    let k := p.arg 12 1
    if 15 < k then w.answer c .refusedFormat
    else
      let d := w.slot n k
      let w := w.modSlot n k fun s =>
        { s with gen := nextGen s.gen, current := none, staged := none, waiting := none, window := if s.load.isSome then s.window else none,
                 olds := (s.current.map fun i => { gen := s.gen, image := i, window := s.window, pages := s.pages }).toList ++ s.olds }
      let w := w.with d.waiting fun q w => w.finish q.1 .squashed
      let w := w.releaseGeneration n k
      let w := w.each (d.staged.toList ++ (d.waiting.map (·.2)).toList) fun i w => w.reap i
      let w := w.settleResizes
      match (w.slot n k).olds.map (·.gen) with
      | [] => w.answer c .ok
      | gens => ((w.modSlot n k fun s => { s with retiring := s.retiring ++ [(c.id, gens)] }).begin c).accepted c

/-! ### DECK_LOAD (R205 to R209) -/

/-- Does a key slot serve a stream of the span: its own, installed, not being revoked (R205, R296)? -/
def W.keyUsable (w : W) (n k : Nat) : Bool := w.ownKey n k && (w.keySlot k).state == .installed

/-- A completed image enters its slot: made current under LFLAGS SWITCH, else staged (R209); staged too where another switch of the slot
waits (log entry 25). -/
def W.imageReady (w : W) (c n k i : Nat) (switch : Bool) : W :=
  if switch && !w.olderHeld n k && (w.slot n k).waiting.isNone then w.switchOrWait c n k i
  else (w.modSlot n k fun s => { s with staged := some i }).finish c .ok

/-- Are the fields of a deck record (R205) in range, and its resv fields zero? -/
def deckFieldsOk (b : List Byte) : Bool :=
  resvZero [(0, 5), (8, 6), (16, 14), (32, 32)] (b.take 64) && decide (rd b 0 1 ≤ 15) && decide (rd b 1 1 ≤ 1)
    && decide (rd b 4 1 ≤ 31) && rd b 8 4 != 0 && !(rd b 1 1 == 1 && !bit (rd b 4 1) 3) && decide (rd b 2 2 ≤ 4095)
    && (rd b 1 1 == 0 || decide (rd b 12 2 ≤ 16383))

/-- DECK_LOAD (R205, R209, R217): a preserved image of the expected digest is bound without transfer, a SHAREABLE one in any span's
slot; the span that it is charged to declares its source anew. -/
def execDeckLoad (p : Pkt) (s : State) : Host.Outcome State Fault Refusal :=
  s.act fun w => w.intake opDeckLoad p fun c w =>
    let n := c.fn
    let b := p.block
    let k := rd b 0 1
    let src := rd b 1 1
    let key := rd b 2 2
    let lf := rd b 4 1
    let tiles := rd b 8 4
    let dig : BitVec 256 := BitVec.ofNat 256 (rd b 32 32)
    let d := w.slot n k
    let win := match d.window with | some x => x | none => rd b 24 6
    let pages := ceilDiv tiles pageTiles
    let blockAddr := p.arg 56 8
    if !deckFieldsOk b || win % pageBytes ≠ 0 then w.answer c .refusedFormat
    else if !w.keyUsable n key || w.windowSize n k win = 0 then w.answer c .refusedPermission
    else if w.windowSize n k win * pageTiles < tiles then w.answer c .refusedFit
    else if d.staged.isSome || d.load.isSome then w.answer c .retryLater
    else
      match (if bit lf 3 then w.deck.images.find? fun i => i.kept && i.digest == dig && (i.owner == n || i.shareable) else none) with
      | some i =>
        if w.windowSize n k win * pageTiles < i.tiles then w.answer c .refusedFit
        else
        let w := (w.fixWindow n k win).begin c
        let w := if i.owner = n then
            w.modImage i.id fun i => { i with source := src, key := key, handle := w.keyHandle key, peer := rd b 12 2, hostAddr := rd b 16 8 }
          else w
        let w := w.emit (.hostWrite n (blockAddr + 32) (leBytes 32 dig.toNat))
        w.imageReady c.id n k i.id (bit lf 0)
      | none =>
        if 32 ≤ w.deck.images.length || w.mapLimit n < w.charged n + pages then w.answer c .refusedFit
        else
          match w.takeFrames pages with
          | none => w.answer c .refusedFit
          | some fs =>
            let id := w.deck.nextImage
            let im : Image :=
              { id := id, owner := n, charge := n, digest := dig, tiles := tiles, frames := fs, shareable := bit lf 2,
                preserve := bit lf 1, norefetch := bit lf 4, damaged := false, source := src, key := key,
                handle := w.keyHandle key, peer := rd b 12 2, hostAddr := rd b 16 8, refetched := [], bad := [], loading := true,
                gen := nextGen d.gen }
            let l : DeckLoad :=
              { cmd := c.id, span := n, slot := k, image := id, switch := bit lf 0,
                expect := if bit lf 3 then some dig else none, block := blockAddr }
            let w := w.each fs fun f w => w.setFrame f .image
            let w := { w with deck.images := w.deck.images ++ [im], deck.loads := w.deck.loads ++ [l],
                              deck.nextImage := id + 1 }
            let w := (w.fixWindow n k win).modSlot n k fun s => { s with load := some id }
            let w := if src = 1 then
                w.send n im.peer n (w.keyHandle key) false tyGetReq 0 (leBytes 1 2 ++ leBytes 32 dig.toNat) none
              else w
            w.begin c

/-- A load ends without an image: its pages are released (R207, R208). -/
def W.dropLoad (w : W) (l : DeckLoad) (st : Status) : W :=
  let w := { w with deck.loads := w.deck.loads.filter fun x => x.image != l.image }
  (((w.modSlot l.span l.slot fun s => { s with load := none }).freeImage l.image).settleResizes).finish l.cmd st

/-- Cut a list of bytes into chunks of a length. -/
def chunks (len : Nat) (bs : List Byte) : List (List Byte) := (List.range (ceilDiv bs.length len)).map fun j => (bs.drop (len * j)).take len

/-- Tiles of a stream from tile `first` on, decrypted with a key (R206, R207): they were encrypted under another key or under this one. Data
unit j is bytes 4,096j to 4,096j + 4,095 of the stream. -/
def decrypted (key under : BitVec 512) (first : Nat) (tiles : List Tile) : List Tile :=
  if key = under then tiles
  else
    let at_ := first * (tileBytes / 16)
    (chunks tileBytes (xts false key at_ (xts true under at_ (tiles.flatMap Tile.bytes)))).map Tile.ofBytes

/-- DECK_LOAD_COMPLETE (R207, R208): the stream has arrived, encrypted under some key, and is decrypted with the key that KEY names.
Keystones are checked, the digest taken over the tiles as received, the generation field rewritten, the image staged or made
current; the digest goes into the block first. -/
def execDeckLoadComplete (image : Nat) (stream : TileStream) (s : State) : Host.Outcome State Fault Refusal :=
  s.act fun w => w.with (w.deck.loads.find? fun l => l.image == image) fun l w =>
    w.with (w.image image) fun im w =>
      w.if (stream.tiles.length == im.tiles && !((w.sp l.span).stopHost && im.source == 0)) fun w =>
        let tiles := decrypted (w.keySlot im.key).key stream.under 0 stream.tiles
        if tiles.any fun t => !t.keystoneOk then w.ingressMismatch.dropLoad l .keystone
        else
          let dig := deckDigest tiles
          if l.expect.isSome && l.expect != some dig then w.dropLoad l .refusedContract
          else
            let w := w.each tiles.zipIdx fun (t, i) w =>
              w.with (im.tileAddr i) fun pa w => w.putTile pa (t.withGeneration im.gen)
            let w := { w with deck.loads := w.deck.loads.filter fun x => x.image != image }
            let w := w.modImage image fun i => { i with digest := dig, loading := false }
            let w := w.modSlot l.span l.slot fun s => { s with load := none }
            let w := w.emit (.hostWrite l.span (l.block + 32) (leBytes 32 dig.toNat))
            w.imageReady l.cmd l.span l.slot image l.switch

/-! ### Refetching a deck tile (R220, R221) -/

/-- Does a context of a step wait for a tile of an image? -/
def W.waitsDeck (w : W) (image tile : Nat) (x : Step) (c : Ctx) : Bool :=
  match c.state with
  | .waitFetch a (some g) => w.deckTile x.span a g == some (image, tile)
  | _ => false

/-- Entries that wait for a tile of an image: span, core, address, generation. -/
def W.entsDeck (w : W) (image tile : Nat) : List (Nat × Nat × Nat) :=
  (List.range 128).flatMap fun l => (w.core' l).tiles.filterMap fun e =>
    match e.gen with
    | some g => if e.state matches .fetching && w.deckTile (w.owner l) e.addr g == some (image, tile) then some (l, e.addr, g) else none
    | none => none

/-- A deck tile cannot be had (R221): the steps that need it end with ST_POISONED, the image is DAMAGED, and the spans of those
steps, its own span and the PF hear which tile it is. Every later read of the tile ends so too. -/
def W.damage (w : W) (image tile : Nat) : W :=
  let ends := w.step.steps.filterMap fun x =>
    (x.tasks.findSome? fun t => (t.ctxs.find? fun c => w.waitsDeck image tile x c).map (·.state)).map fun s => (x.id, s)
  let gone := w.entsDeck image tile
  let w := w.each ends fun (id, s) w => w.failStep id .poisoned (match s with | .waitFetch a _ => .addr a | _ => .none)
  let w := w.each gone fun (l, va, g) w => w.dropEnts l fun e => e.is va (some g)
  match w.image image with
  | none => w
  | some im =>
    if im.bad.contains tile then w
    else
      let heard := (im.owner :: ends.filterMap fun q => (w.stepOf q.1).map (·.span)).dedup
      let w := w.modImage image fun i => { i with damaged := true, bad := insertNat tile i.bad, asked := i.asked.filter fun k => k != tile }
      w.each heard fun n w => w.health n unitAbut (.deckTile im.digest tile)

/-- The payload with which a tile of an image is asked of the peer that it came from (R220; the manual gives none, log entry 22). -/
def refetchBody (dig : BitVec 256) (tile : Nat) : List Byte := leBytes 1 3 ++ leBytes 32 dig.toNat ++ leBytes 4 tile

/-- Does the key slot of an image still hold the key under which it was loaded (R221, R295)? -/
def W.imageKeyHeld (w : W) (im : Image) : Bool := (w.keySlot im.key).state == .installed && w.keyHandle im.key == im.handle

/-- A deck tile reaches the mover bad (R220, R221): its contexts stay in WAIT_FETCH while it is refetched, once, from the image's
source; one that cannot be had again ends its steps. -/
def W.deckBad (w : W) (image tile : Nat) : W :=
  match w.image image with
  | none => w
  | some im =>
    if im.norefetch || im.bad.contains tile || im.refetched.contains tile || !w.imageKeyHeld im then w.damage image tile
    else if im.source = 1 && !im.asked.contains tile then
      (w.modImage image fun i => { i with asked := insertNat tile i.asked }).send im.owner im.peer im.owner im.handle false tyGetReq 0 (refetchBody im.digest tile) none
    else w

/-- A step whose contexts that wait for a tile of an image go on. -/
def W.wokenDeck (w : W) (image tile : Nat) (x : Step) : Step :=
  { x with tasks := x.tasks.map fun (t : Task) =>
      { t with ctxs := t.ctxs.map fun (c : Ctx) => if w.waitsDeck image tile x c then { c with state := .ready, since := w.core.clock } else c } }

/-- A tile of an image reaches every slot and context that waits for it. -/
def W.deliverDeck (w : W) (image tile : Nat) (t : Tile) : W :=
  let ents := w.entsDeck image tile
  let w := { w with step.steps := w.step.steps.map fun x => w.wokenDeck image tile x, core.clock := w.core.clock + 1 }
  w.each ents fun (l, va, g) w => w.modEnt l va (some g) fun e => { e with state := .clean, data := t }

/-- DECK_TILE_REFETCH_DONE (R220, R221): the tile arrives again from the image's source, encrypted under some key, or cannot. Nothing
comes from host memory while it is stopped (R272). -/
def execDeckTileRefetchDone (image tile : Nat) (data : Option (Tile × BitVec 512)) (s : State) :
    Host.Outcome State Fault Refusal :=
  s.act fun w => w.with (w.image image) fun im w =>
    w.if (!(w.entsDeck image tile).isEmpty && !((w.sp im.owner).stopHost && im.source == 0)) fun w =>
      let got := (data.map fun (t, under) => decrypted (w.keySlot im.key).key under tile [t]).bind List.head?
      match got with
      | none => w.damage image tile
      | some t =>
        if !t.keystoneOk then w.ingressMismatch.damage image tile
        else if im.norefetch || im.bad.contains tile || im.refetched.contains tile || !w.imageKeyHeld im then w.damage image tile
        else
          let w := w.with (im.tileAddr tile) fun pa w => w.putTile pa (t.withGeneration im.gen)
          let w := w.modImage image fun i => { i with refetched := insertNat tile i.refetched, asked := i.asked.filter fun k => k != tile }
          let w := w.count im.owner 0x1E8 1
          let t := ((im.tileAddr tile).map fun pa => w.tileAt pa).getD t
          w.deliverDeck image tile t

end Sys2Proof.Machine
end

