-- ==== Sys2Proof/Machine/Adapters.lean ====
section
/-! DEFINITION. Adapters: the resident table, contracts, eviction and grace (R222 to R229), and the layout of stored
factors (R130). -/

namespace Sys2Proof.Machine

open Sys2Proof

/-! ### ADAPTER_LOAD (R222 to R224) -/

/-- `k` entries of the site table (R223), with what reading their tiles met. -/
def W.readSites (w : W) (n addr k : Nat) : Except Status (List Site) :=
  let vas := (List.range (ceilDiv k 128)).map (tileAfter addr)
  let ts := vas.filterMap fun va => w.stored n va
  if !isTileAddr addr then .error .refusedFormat
  else if ts.length < vas.length then .error .refusedPermission
  else if ts.any fun t => !t.keystoneOk then .error .keystone
  else if ts.any Tile.poison then .error .poisoned
  else
    let rec_ (i : Nat) : List Byte := Tile.slice ((ts[i / 128]?).getD []) (i % 128 * 32) 32
    if (List.range k).any fun i => !resvZero [(0, 22)] (rec_ i) then .error .refusedFormat
    else .ok ((List.range k).map fun i =>
      let b := rec_ i
      { wAddr := rd b 0 6, k := rd b 6 2 + 1, n := rd b 8 2 + 1, addrA := rd b 10 6, addrB := rd b 16 6 })

/-- Strictly ascending W_ADDR. -/
def sitesRise : List Site → Bool
  | x :: y :: l => decide (x.wAddr < y.wAddr) && sitesRise (y :: l)
  | _ => true

/-- An adapter is gone: steps that wait for its factors wait for them no longer, and admission judges them anew (R226, R227). -/
def W.dropReloads (w : W) (h : Nat) : W :=
  { w with step.steps := w.step.steps.map fun (x : Step) => { x with reloads := x.reloads.filter fun k => k != h } }

/-- The handle for a new adapter: the lowest free one; when the module's table is full, the least recently bound WARM adapter
with count 0 gives way (R226). The manual sets no smaller share for a span. -/
def W.takeHandle (w : W) : Option Nat × W :=
  if w.deck.adapters.length < 16384 then
    ((List.range 16384).find? fun h => !(w.deck.adapters.any fun a => a.handle == h), w)
  else
    let c := w.deck.adapters.filter fun a => a.cls == 1 && a.loading.isNone && !a.evicting && w.adapterCount a.handle == 0
    match c.foldl (fun (b : Option Adapter) a => match b with
        | none => some a
        | some x => if a.lastBound < x.lastBound then some a else some x) none with
    | none => (none, w)
    | some a =>
      (some a.handle, ({ w with deck.adapters := w.deck.adapters.filter fun x => x.handle != a.handle }.count a.span 0x1F0 1).dropReloads a.handle)

/-- An adapter is loaded: its digest and handle go into the record, then the reply (R222). -/
def W.adapterReady (w : W) (h : Nat) (dig : BitVec 256) : W :=
  match w.adapter h with
  | none => w
  | some a =>
    let w := w.modAdapter h fun a => { a with digest := dig, loading := none, valid := a.cls != 2 }
    let w := (w.emit (.hostWrite a.span (a.block + 32) (leBytes 32 dig.toNat))).emit (.hostWrite a.span (a.block + 94) (leBytes 2 h))
    w.with a.loading fun c w => w.finish c .ok (.count h)

/-- Are the fields of an adapter record (R222) in range, and its resv fields zero? -/
def adapterFieldsOk (b : List Byte) : Bool :=
  let fmt := rd b 64 1
  let cls := rd b 65 1
  let rank := rd b 66 2
  let k := rd b 68 2
  let src := rd b 74 1
  resvZero [(0, 71), (72, 3), (76, 2), (80, 16)] (b.take 128) && (fmt == 3 || fmt == 5 || fmt == 6) && decide (cls ≤ 2)
    && decide (4 ≤ rank) && decide (rank ≤ 256) && rank % 4 == 0 && decide (1 ≤ k) && decide (k ≤ 1024)
    && decide (rd b 70 1 ≤ 1) && decide (src ≤ 2) && !(cls == 2 && src == 0) && (src == 0 || decide (rd b 72 2 ≤ 4095))
    && (src != 2 || decide (rd b 76 2 ≤ 16383))

/-- ADAPTER_LOAD (R222 to R224). -/
def execAdapterLoad (p : Pkt) (s : State) : Host.Outcome State Fault Refusal :=
  s.act fun w => w.intake opAdapterLoad p fun c w =>
    let n := c.fn
    let b := p.block
    let fmt := rd b 64 1
    let cls := rd b 65 1
    let rank := rd b 66 2
    let k := rd b 68 2
    let cf := rd b 70 1
    let key := rd b 72 2
    let src := rd b 74 1
    if !adapterFieldsOk b then w.answer c .refusedFormat
    else if src != 0 && !w.keyUsable n key then w.answer c .refusedPermission
    else
      match w.readSites n (rd b 88 6) k with
      | .error st => w.answer c st
      | .ok sites =>
        let vas := sites.flatMap fun x => x.factors fmt rank
        let slots := sites.map fun x => (w.slotAt n (x.wAddr / pageBytes)).map (·.1)
        if !sitesRise sites || (sites.any fun x => !isTileAddr x.wAddr || !isTileAddr x.addrA || !isTileAddr x.addrB)
            || (match slots with | [] => false | y :: l => l.any fun z => z != y) then w.answer c .refusedFormat
        else if slots.any (·.isNone) || vas.any fun va => w.writeFault n va != none then w.answer c .refusedPermission
        else
          match w.takeHandle with
          | (none, w) => w.answer c .refusedFit
          | (some h, w) =>
            let a : Adapter :=
              { handle := h, span := n, deckDigest := BitVec.ofNat 256 (rd b 0 32), digest := 0#256, fmt := fmt, cls := cls,
                rank := rank, trainable := bit cf 0, key := key, keyed := if src = 0 then 0 else w.keyHandle key, source := src, peer := rd b 76 2, hostAddr := rd b 80 8,
                sites := sites, loading := some c.id, block := p.arg 56 8, lastBound := c.id, valid := false, evict := [],
                evicting := false, force := false, boundary := [] }
            let w := { w with deck.adapters := w.deck.adapters ++ [a] }.begin c
            if src = 0 then
              let ts := vas.filterMap fun va => w.stored n va
              let drop (w : W) (st : Status) : W :=
                { w with deck.adapters := w.deck.adapters.filter fun x => x.handle != h }.finish c.id st
              if ts.any fun t => !t.keystoneOk then drop w .keystone
              else if ts.any Tile.poison then drop w .poisoned
              else w.adapterReady h (deckDigest ts)
            else if src = 2 then
              w.send n a.peer n (w.keyHandle key) false tyGetReq 0 (leBytes 1 4 ++ leBytes 32 a.deckDigest.toNat) none
            else w

/-- Tiles of a stream go to an adapter's factor addresses; copies in scratchpads are invalidated. -/
def W.placeFactors (w : W) (a : Adapter) (ts : List Tile) : W :=
  w.each (a.factors.zip ts) fun (va, t) w => (w.each (w.coresOf a.span) fun l w => w.invalidate l va).storeTile a.span va t

/-- ADAPTER_LOAD_COMPLETE (R206, R207, R222): the factor stream has arrived, encrypted under some key, and is decrypted with the key
that KEY names. -/
def execAdapterLoadComplete (handle : Nat) (stream : TileStream) (s : State) : Host.Outcome State Fault Refusal :=
  s.act fun w => w.with (w.adapter handle) fun a w =>
    w.if (a.loading.isSome && a.source != 0 && stream.tiles.length == a.factors.length && !((w.sp a.span).stopHost && a.source == 1)) fun w =>
      let tiles := decrypted (w.keySlot a.key).key stream.under 0 stream.tiles
      if tiles.any fun t => !t.keystoneOk then
        let w := { w with deck.adapters := w.deck.adapters.filter fun x => x.handle != handle }
        w.with a.loading fun c w => w.ingressMismatch.finish c .keystone
      else (w.placeFactors a tiles).adapterReady handle (deckDigest tiles)

/-! ### ADAPTER_CONTRACT (R225) -/

/-- May this issuer act on an adapter (R225)? -/
def Adapter.ownedBy (a : Adapter) (fn : Nat) : Bool := fn == 0 || fn == a.span

/-- A resident adapter, its load complete. -/
def W.resident (w : W) (h : Nat) : Option Adapter := (w.adapter h).filter fun a => a.loading.isNone

/-- ADAPTER_CONTRACT (R225). -/
def execAdapterContract (p : Pkt) (s : State) : Host.Outcome State Fault Refusal :=
  s.act fun w => w.intake opAdapterContract p fun c w =>
    let h := p.arg 12 2
    let cls := p.arg 14 1
    let dig : BitVec 256 := BitVec.ofNat 256 (p.arg 16 32)
    match w.resident h with
    | none => w.answer c .refusedFormat
    | some a =>
      if !a.ownedBy c.fn then w.answer c .refusedPermission
      else if 2 < cls || (cls == 2 && a.source == 0) then w.answer c .refusedFormat
      else if dig != 0#256 && dig != a.deckDigest && w.adapterCount h != 0 then w.answer c .retryLater
      else
        ((w.modAdapter h fun a => { a with cls := cls, deckDigest := if dig = 0#256 then a.deckDigest else dig }).settleCold h).answer c .ok

/-! ### Eviction and grace (R226 to R228) -/

/-- An adapter leaves the resident table; requests that name it enter grace, or close where ADP_KV_GRACE is 0 (R228, R230). -/
def W.removeAdapter (w : W) (h : Nat) : W :=
  match w.adapter h with
  | none => w
  | some a =>
    let close := w.regv 0 0x5204 % 65536 == 0
    let mine (r : OpenReq) : Bool := r.span == a.span && r.handle == h && !r.grace
    let reqs := if close then w.deck.requests.filter fun r => !mine r
      else w.deck.requests.map fun (r : OpenReq) =>
        if mine r then { r with grace := true, adapterDigest := a.digest, deckDigest := a.deckDigest } else r
    let ended := if close then w.deck.requests.filter mine else []
    let w := { w with deck.adapters := w.deck.adapters.filter fun x => x.handle != h, deck.requests := reqs }.dropReloads h
    let w := w.each ended fun r w => w.event .graceEnd r.span false unitAbut (some (leBytes 4 r.reqId)) (.request r.reqId)
    (w.count a.span 0x1F0 1).finishAll a.evict .ok

/-- ADAPTER_EVICT (R227): removal waits for the step boundary at which every step admitted before it has ended. At count 0 no
ST_ACCEPTED goes before ST_OK. -/
def execAdapterEvict (p : Pkt) (s : State) : Host.Outcome State Fault Refusal :=
  s.act fun w => w.intake opAdapterEvict p fun c w =>
    let h := p.arg 12 2
    match w.resident h with
    | none => w.answer c .refusedFormat
    | some a =>
      if !a.ownedBy c.fn then w.answer c .refusedPermission
      else if a.cls = 0 then w.answer c .refusedContract
      else
        let before := (w.step.steps.filter fun x => x.span == a.span && x.admitted).map (·.id)
        if w.adapterCount h = 0 && !a.evicting && before.isEmpty then (w.removeAdapter h).answer c .ok
        else
          let w := w.modAdapter h fun a =>
            { a with evict := a.evict ++ [c.id], evicting := true, force := a.force || p.force,
                     boundary := if !a.evicting || (p.force && !a.force) then before else a.boundary }
          if p.force || (w.adapterCount h = 0 && !a.evicting) then w.beginHeld c else (w.begin c).accepted c

/-- ADAPTER_REMOVE (R227): the boundary has come, and the eviction is by force or the count has reached 0. -/
def execAdapterRemove (handle : Nat) (s : State) : Host.Outcome State Fault Refusal :=
  s.act fun w => w.with (w.resident handle) fun a w =>
    let past := !(w.step.steps.any fun x => a.boundary.contains x.id && x.admitted)
    w.if (a.evicting && past && (w.adapterCount handle == 0 || a.force)) fun w => w.removeAdapter handle

/-- GRACE_EXPIRY (R228): the request closes, and an event record names it. -/
def execGraceExpiry (span reqId : Nat) (s : State) : Host.Outcome State Fault Refusal :=
  s.act fun w => w.with (w.request span reqId) fun r w =>
    w.if r.grace fun w => (w.closeRequest span reqId).event .graceEnd span false unitAbut (some (leBytes 4 reqId)) (.request reqId)

/-- ADAPTER_RELOAD_DONE (R226): the factors of a COLD adapter have arrived for the steps that wait for them at admission. -/
def execAdapterReloadDone (handle : Nat) (stream : TileStream) (s : State) : Host.Outcome State Fault Refusal :=
  s.act fun w => w.with (w.resident handle) fun a w =>
    let ss := w.step.steps.filter fun x => x.phase != .ended && x.reloads.contains handle
    w.if (!ss.isEmpty && stream.tiles.length == a.factors.length && !((w.sp a.span).stopHost && a.source == 1)) fun w =>
      let drop (w : W) (st : Status) : W := w.each ss fun x w => w.failStep x.id st .none
      let tiles := decrypted (w.keySlot a.key).key stream.under 0 stream.tiles
      if !w.keyUsable a.span a.key || w.keyHandle a.key != a.keyed then drop w .refusedPermission
      else if tiles.any fun t => !t.keystoneOk then drop w.ingressMismatch .keystone
      else if deckDigest tiles ≠ a.digest then drop w .refusedContract
      else
        let w := (w.placeFactors a tiles).modAdapter handle fun a => { a with valid := true }
        w.each ss fun x w => w.modStep x.id fun x => { x with reloads := x.reloads.filter fun h => h != handle, reloaded := insertNat handle x.reloaded }

end Sys2Proof.Machine
end

