-- ==== Sys2Proof/Machine/Trans.lean ====
section
/-! DEFINITION. The transcendental functions (R144). The exact value is computed in fixed point with 400 fraction bits and
rounded to FP32; where the result lies in the band that R144 allows around it is open (log entry 2). -/

namespace Sys2Proof.Machine

open Sys2Proof

/-- Fraction bits of the fixed-point computations. -/
def fxBits : Nat := 400
/-- One. -/
def fxOne : Nat := 2 ^ fxBits

/-- A value in fixed point, rounded toward zero. -/
def Num.toFx : Num → Int
  | .nan => 0
  | .fin n m e =>
    let k : Int := e + fxBits
    let v : Nat := if 0 ≤ k then m * 2 ^ k.toNat else m / 2 ^ (-k).toNat
    if n then -(v : Int) else (v : Int)

/-- A fixed-point value. -/
def Num.ofFx (v : Int) : Num := if v = 0 then .zero false else .fin (decide (v < 0)) v.natAbs (-(fxBits : Int))

/-- Sum of x^(2i+1) / (2i+1), with alternating signs where `alt`, for i below `n`; `p` is x^(2i+1), `q` is x squared. -/
def fxOdd (alt : Bool) (q : Nat) : Nat → Nat → Nat → Int → Int
  | 0, _, _, acc => acc
  | n + 1, i, p, acc =>
    let t : Int := ((p / (2 * i + 1) : Nat) : Int)
    fxOdd alt q n (i + 1) (p * q / fxOne) (if alt && i % 2 == 1 then acc - t else acc + t)

/-- ln 2 = 2 artanh(1/3). -/
def fxLn2 : Int := 2 * fxOdd false (fxOne / 9) 130 0 (fxOne / 3) 0

/-- pi = 16 arctan(1/5) - 4 arctan(1/239). -/
def fxPi : Int := 16 * fxOdd true (fxOne / 25) 90 0 (fxOne / 5) 0 - 4 * fxOdd true (fxOne / 57121) 30 0 (fxOne / 239) 0

/-- Sum of the terms t, t x / i, t x^2 / (i (i+1)), … -/
def fxSeries (x : Int) : Nat → Nat → Int → Int → Int
  | 0, _, _, acc => acc
  | n + 1, i, t, acc => fxSeries x n (i + 1) (t * x / ((fxOne * i : Nat) : Int)) (acc + t)

/-- e^x for a fixed-point x. -/
def fxExp (x : Int) : Num :=
  let k := x / fxLn2
  let r := x - k * fxLn2
  .fin false (fxSeries r 100 1 fxOne 0).toNat (k - fxBits)

/-- e^x. -/
def numExp (x : Num) : Num :=
  if (Num.ofNat 1000).lt x then .fin false 1 2000
  else if x.lt (Num.ofInt (-1000)) then .fin false 1 (-2000)
  else fxExp x.toFx

/-- 2^x. -/
def numExp2 (x : Num) : Num :=
  if (Num.ofNat 1000).lt x then .fin false 1 2000
  else if x.lt (Num.ofInt (-1000)) then .fin false 1 (-2000)
  else
    let v := x.toFx
    let k := v / (fxOne : Int)
    match fxExp ((v - k * fxOne) * fxLn2 / fxOne) with
    | .fin n m e => .fin n m (e + k)
    | .nan => .nan

/-- ln x for x above 0, in fixed point. -/
def fxLog (m : Nat) (e : Int) : Int :=
  let b := bitLen m - 1
  let z := (m - 2 ^ b) * fxOne / (m + 2 ^ b)
  2 * fxOdd false (z * z / fxOne) 130 0 z 0 + (e + b) * fxLn2

/-- Integer square root, by bits from `n` - 1 down. -/
def isqrt (x : Nat) : Nat → Nat → Nat
  | 0, r => r
  | n + 1, r => if (r + 2 ^ n) * (r + 2 ^ n) ≤ x then isqrt x n (r + 2 ^ n) else isqrt x n r

/-- The square root of a positive value, with a sticky last bit. -/
def numSqrt (m : Nat) (e : Int) : Num :=
  let k : Nat := if e % 2 = 0 then 200 else 201
  let x := m * 2 ^ k
  let r := isqrt x 400 0
  .fin false (2 * r + (if r * r = x then 0 else 1)) ((e - k) / 2 - 1)

/-- One over the square root of a positive value. -/
def numRsqrt (m : Nat) (e : Int) : Num :=
  let m' := if e % 2 = 0 then m else 2 * m
  let e' : Int := if e % 2 = 0 then e else e - 1
  .fin false (2 * isqrt (2 ^ 800 / m') 402 0 + 1) (-e' / 2 - 401)

/-- One over a non-zero value. -/
def numRecip (n : Bool) (m : Nat) (e : Int) : Num := .fin n (2 * (2 ^ 400 / m) + 1) (-e - 401)

/-- An angle reduced to 0 up to 2 pi, in fixed point. -/
def fxReduce (x : Num) : Int := x.toFx % (2 * fxPi)

/-- The alternating series of sine and cosine: term t with index i, next term -t x^2 / (i (i+1)). -/
def fxTrig (q : Int) : Nat → Nat → Int → Int → Int
  | 0, _, _, acc => acc
  | n + 1, i, t, acc => fxTrig q n (i + 2) (-(t * q / ((fxOne * (i * (i + 1)) : Nat) : Int))) (acc + t)

/-- sin x. -/
def numSin (x : Num) : Num :=
  let r := fxReduce x
  .ofFx (fxTrig (r * r / fxOne) 80 2 r 0)

/-- cos x. -/
def numCos (x : Num) : Num :=
  let r := fxReduce x
  .ofFx (fxTrig (r * r / fxOne) 80 1 fxOne 0)

/-- 1 / (1 + e^-x). -/
def numSigmoid (x : Num) : Num :=
  match numExp x.abs.neg with
  | .nan => .nan
  | .fin _ m e =>
    let one := 2 ^ (-e).toNat
    if x.sign then .fin false (2 * (m * 2 ^ 400 / (one + m)) + 1) (-401)
    else .fin false (2 * (one * 2 ^ 400 / (one + m)) + 1) (-401)

/-- Units in the last place by which a result of function `fn` may be off: 0 for SQRT. -/
def ulpBound : Nat → Nat
  | 1 => 2 | 2 => 1 | 3 => 1 | 4 => 1 | 5 => 1 | 7 => 1 | 8 => 2 | 9 => 2 | 10 => 3
  | _ => 0

/-- The stated result of a function for an operand: the exact value rounded to FP32, moved by the open offset within R144's
bound; sine and cosine may be off by 2^-22 where that is more, and by the 2^-30 of the angle's reduction besides (R161). -/
def inBand (fn key : Nat) (exact : Num) (ev : Ev) : FV :=
  let (y, e) := FloatFmt.fp32.round .even exact
  let trig := fn = 8 ∨ fn = 9
  if y.isZero && !decide trig || y.isNan || e.sat then ⟨y, ev.or e⟩
  else
    let u : Int := if y.isZero then -149 else y.log2 - 23
    let lim : Nat := if trig then max 2 (if u ≤ -22 then 2 ^ (-22 - u).toNat else 0) + (if 2 ^ 32 ≤ key ∧ u ≤ -30 then 2 ^ (-30 - u).toNat else 0)
      else ulpBound fn
    let j : Int := max (-(lim : Int)) (min (lim : Int) (Config.transOffset fn key))
    let step : Num := if j < 0 then .fin true j.natAbs u else .fin false j.natAbs u
    FloatFmt.fp32.rne (y.add step) (ev.or e)

/-- The largest FP32 value with a sign, counted as saturated. -/
def satFp32 (neg : Bool) (ev : Ev) : FV := ⟨FloatFmt.fp32.largest neg, { ev with sat := true }⟩

/-- One function of R144 on an FP32 value. -/
def trans (fn : Nat) (x : FV) : FV :=
  match x.v with
  | .nan => ⟨.nan, x.ev⟩
  | .fin neg m e =>
    let key := FloatFmt.fp32.encode x.v
    let v : Num := .fin neg m e
    match fn with
    | 1 => inBand 1 key (numExp v) x.ev
    | 2 => inBand 2 key (numExp2 v) x.ev
    | 3 =>
      if m = 0 then satFp32 true x.ev else if neg then ⟨.nan, x.ev⟩ else inBand 3 key (.ofFx (fxLog m e)) x.ev
    | 4 =>
      if m = 0 then satFp32 true x.ev else if neg then ⟨.nan, x.ev⟩
      else inBand 4 key (.ofFx (fxLog m e * fxOne / fxLn2)) x.ev
    | 5 => if m = 0 then satFp32 false x.ev else if neg then ⟨.nan, x.ev⟩ else inBand 5 key (numRsqrt m e) x.ev
    | 6 => if m = 0 then ⟨.zero false, x.ev⟩ else if neg then ⟨.nan, x.ev⟩ else FloatFmt.fp32.rne (numSqrt m e) x.ev
    | 7 => if m = 0 then satFp32 neg x.ev else inBand 7 key (numRecip neg m e) x.ev
    | 8 => inBand 8 key (numSin v) x.ev
    | 9 => inBand 9 key (numCos v) x.ev
    | 10 => inBand 10 key (numSigmoid v) x.ev
    | _ => x

/-- Sine and cosine of an angle that rotary position codes form exactly (R161); `key` tells the angle apart. -/
def transAngle (fn key : Nat) (angle : Num) : FV :=
  inBand fn (2 ^ 32 + key) (if fn = 8 then numSin angle else numCos angle) {}

end Sys2Proof.Machine
end

