-- ==== Sys2Proof/Machine/Engine.lean ====
section
/-! DEFINITION. How a context issues a descriptor and an engine runs it: operand tiles, their checks and views (R16 to R19,
R34, R40 to R42, R46, R83, R85), output tiles, escapes and spill (R36, R73, R77 to R82, R103). -/

namespace Sys2Proof.Machine

open Sys2Proof

/-! ### Descriptors, contexts and tokens -/

/-- Signal and wait fields of a descriptor: where SIG, WAIT0 and WAIT1 stand depends on the kind (R116, R137, R156, R182,
R316). -/
def sigAt (d : List Byte) : Nat := if rd d 0 1 = 0x10 ∨ rd d 0 1 = 0x11 then 7 else 6
/-- Token signalled on completion. -/
def sigOf (d : List Byte) : Option Nat := if bit (rd d 1 1) 2 then some (rd d (sigAt d) 1) else none
/-- Tokens waited on, with thresholds. -/
def waitsOf (d : List Byte) : List (Nat × Nat) :=
  (if bit (rd d 1 1) 3 then [(rd d (sigAt d + 1) 1, rd d 10 2)] else [])
    ++ (if bit (rd d 1 1) 4 then [(rd d (sigAt d + 2) 1, rd d 12 2)] else [])

/-- Stream of a context. -/
def Program.stream (p : Program) (task ctx : Nat) : List (List Byte) :=
  (((p.tasks[task]?).map (·.streams)).getD [])[ctx]?.getD []

/-- Has every awaited token reached its threshold (R19)? -/
def Task.tokensOk (t : Task) (d : List Byte) : Bool := (waitsOf d).all fun (k, thr) => decide (thr ≤ t.tokens.getD k 0)

/-- Descriptors of a context that engines hold (R16). -/
def W.inFlightOf (w : W) (id task ctx : Nat) : Nat :=
  (w.step.inflight.filter fun f => f.step == id && f.task == task && f.ctx == ctx).length

/-- State of a context that is not held by a fetch or an owner (R16, R19). -/
def W.ctxState (w : W) (p : Program) (x : Step) (t : Task) (j : Nat) (c : Ctx) : CtxState :=
  match c.state with
  | .waitFetch a i => .waitFetch a i
  | _ =>
    match (p.stream t.idx j)[c.next]? with
    | none => .ready
    | some d =>
      if 8 ≤ w.inFlightOf x.id t.idx j then .full else if t.tokensOk d then .ready else .waitToken

/-- Cause of a wait in a STALL record (R413): tokens, a fetch, a full queue. -/
def CtxState.stallCause : CtxState → Option Nat
  | .ready => none
  | .waitToken => some 0
  | .waitFetch _ _ => some 1
  | .full => some 3

/-- A wait of a context is over: the STALL record of its core's trace (R413), with cycles that are free. -/
def W.stallRecord (w : W) (x : Step) (t : Task) (ctx cause : Nat) : W :=
  match t.core, w.traceOf x.span with
  | some l, some _ =>
    let (v, w) := w.freeVal
    w.trace x.span l 4 ctx t.idx x.traceSeq (leBytes 1 cause ++ leBytes 3 0 ++ leBytes 4 v.toNat)
  | _, _ => w

/-- Bring the states of a task's contexts up to date. One that becomes READY waits from now on (R17). -/
def W.settleTask (w : W) (id task : Nat) : W :=
  match w.stepOf id with
  | none => w
  | some x =>
    match w.program x.span x.handle with
    | none => w
    | some p =>
      let now := w.core.clock
      let settle (t : Task) (c : Ctx) (j : Nat) : Ctx :=
        let s := w.ctxState p x t j c
        { c with state := s, since := if s = .ready ∧ c.state ≠ .ready then now else c.since }
      let done (t : Task) : List (Nat × Nat) :=
        t.ctxs.zipIdx.filterMap fun (c, j) => if w.ctxState p x t j c = c.state then none else c.state.stallCause.map fun k => (j, k)
      let w := w.with (x.tasks.find? fun t => t.idx == task) fun t w => w.each (done t) fun (j, k) w => w.stallRecord x t j k
      { w with core.clock := now + 1 }.modStep id fun y => { y with tasks := y.tasks.map fun (t : Task) =>
        if t.idx = task then { t with ctxs := t.ctxs.zipIdx.map fun (c, j) => settle t c j } else t }

/-- Change one context of a step. -/
def Step.modCtx (x : Step) (task ctx : Nat) (f : Ctx → Ctx) : Step :=
  { x with tasks := x.tasks.map fun (t : Task) =>
      if t.idx = task then { t with ctxs := t.ctxs.zipIdx.map fun (c, j) => if j = ctx then f c else c } else t }

/-- Release the contexts that a condition selects from their waits, and bring their tasks up to date. -/
def W.wakeCtxs (w : W) (p : Step → Task → Ctx → Bool) : W :=
  let hit : List (Nat × Nat) := w.step.steps.flatMap fun x => x.tasks.filterMap fun t =>
    if t.ctxs.any fun c => p x t c then some (x.id, t.idx) else none
  let waits : List (Step × Task × Nat × Nat) := w.step.steps.flatMap fun x => x.tasks.flatMap fun t => t.ctxs.zipIdx.filterMap fun (c, j) =>
    if p x t c then c.state.stallCause.map fun k => (x, t, j, k) else none
  let w := w.each waits fun (x, t, j, k) w => w.stallRecord x t j k
  let now := w.core.clock
  let w := { w with core.clock := now + 1, step.steps := w.step.steps.map fun (x : Step) =>
    { x with tasks := x.tasks.map fun (t : Task) =>
        { t with ctxs := t.ctxs.map fun (c : Ctx) => if p x t c then { c with state := .ready, since := now } else c } } }
  w.each hit fun (i, t) w => w.settleTask i t

/-! ### An engine at work -/

/-- Why an engine does not finish a descriptor. -/
inductive Stop where
  | wait (va : Nat) (gen : Option Nat)
  | fail (st : Status) (d : Detail)

/-- What an engine has at hand while it runs a descriptor; `seen` are the operands whose input events it has counted (R87),
`touched` the tiles that it has changed part by part before it writes them out whole. -/
structure Eng where
  w : W
  x : Step
  task : Nat
  ctx : Nat
  dseq : Nat
  core : Nat
  desc : List Byte
  vlen : Nat
  fl : InFlight
  cap : List (Nat × Tile)
  seen : List Nat := []
  touched : List Nat := []

/-- A computation of an engine. -/
abbrev Act (α : Type) := ExceptT Stop (StateM Eng) α

/-- The step ends with a status. -/
def Act.fail {α : Type} (st : Status) (d : Detail := .none) : Act α := throw (.fail st d)
/-- A check. -/
def Act.check (c : Bool) (st : Status) (d : Detail := .none) : Act Unit := if c then pure () else Act.fail st d
/-- A field of the descriptor. -/
def Act.fld (o n : Nat) : Act Nat := do return rd (← get).desc o n
/-- Change the working copy. -/
def Act.modW (f : W → W) : Act Unit := modify fun e => { e with w := f e.w }
/-- Change the record of the descriptor. -/
def Act.modFl (f : InFlight → InFlight) : Act Unit := modify fun e => { e with fl := f e.fl }
/-- Add to a counter when the descriptor completes. -/
def Act.count (off k : Nat) : Act Unit := Act.modFl fun f => { f with cnts := f.cnts ++ [(off, k)] }
/-- Count input events (R87: once for each element read). -/
def Act.input (l : List InEv) : Act Unit := Act.modFl fun f => { f with counts := l.foldl Counts.input f.counts }

/-- The same for an operand that the descriptor may read several times: counted on the first (R87). -/
def Act.inputOnce (key : Nat) (l : List InEv) : Act Unit := do
  if !(← get).seen.contains key then
    modify fun e => { e with seen := key :: e.seen }
    Act.input l

/-- Is a page hidden from a step: an UNMAP was read before the step's admission (R35)? -/
def W.hidden (w : W) (x : Step) (vp : Nat) : Bool :=
  w.hbm.unmaps.any fun u => u.span == x.span && !u.steps.contains x.id && u.pages.any fun q => q.2 == vp

/-- Does an address lie in a deck slot's window or in a page mapped with DECK (R95)? -/
def W.onDeck (w : W) (n va : Nat) : Bool :=
  ((w.page n (va / pageBytes)).map (·.deck)) == some true || (w.slotAt n (va / pageBytes)).isSome

/-- A tile operand in the scratchpad, checked on its first read: address and page (R34), residence (R46), keystone (R40,
R41). -/
def Act.tileRaw (va : Nat) : Act Tile := do
  let e ← get
  match e.cap.find? fun c => c.1 == va with
  | some (_, t) => return t
  | none =>
    if isTileAddr va && e.w.hidden e.x (va / pageBytes) then Act.fail .refusedPermission (.addr va)
    else
      match e.w.readAt e.x.span e.core e.x.binds va with
      | .refused st => Act.fail st (.addr va)
      | .missing img => throw (.wait va img)
      | .data t l img =>
        set { e with w := e.w.touch l va img, cap := e.cap ++ [(va, t)],
                     fl := { e.fl with refs := if l = e.core then e.fl.refs ++ [(va, img)] else e.fl.refs } }
        if t.keystoneOk then return t
        else
          Act.modW fun w => (w.count e.x.span 0x248 1).coreEventAt e.core .coreKeystone
          Act.fail .keystone (.addr va)

/-- The same, as data: a poisoned tile ends the step (R42). -/
def Act.tile (va : Nat) : Act Tile := do
  let t ← Act.tileRaw va
  Act.check (!t.poison) .poisoned (.addr va)
  return t

/-- `n` tiles from a base on (R113). -/
def Act.tiles (base n : Nat) : Act (List Tile) := (List.range n).mapM fun j => Act.tile (tileAfter base j)

/-- A number in a stream of payloads; no field straddles two tiles. -/
def payNum (ts : List Tile) (o n : Nat) : Nat := Tile.num ((ts[o / 4096]?).getD []) (o % 4096) n
/-- Bytes in a stream of payloads. -/
def payBytes (ts : List Tile) (o n : Nat) : List Byte := Tile.slice ((ts[o / 4096]?).getD []) (o % 4096) n

/-- May the descriptor write this tile (R34)? -/
def Act.canWrite (va : Nat) : Act Unit := do
  let e ← get
  if isTileAddr va && e.w.hidden e.x (va / pageBytes) then Act.fail .refusedPermission (.addr va)
  else
    match e.w.writeFault e.x.span va with
    | some st => Act.fail st (.addr va)
    | none => pure ()

/-! ### Views: tiles as an engine sees them (R83, R85) -/

/-- An operand tile as presented: the tile itself, or the spill tiles in its place; each with its format. -/
structure View where
  parts : List (Fmt × Tile)
  /-- The gradient flag of the forwarding tile whose spill tiles these are. -/
  flag : Bool := false

/-- The part that holds element `i`, and the position there. -/
def View.at_ (v : View) (i : Nat) : Fmt × Tile × Nat :=
  match v.parts with
  | [] => (.fp32, [], i)
  | (f, t) :: _ =>
    let (g, u) := (v.parts[i / f.elems]?).getD (f, t)
    (g, u, i % f.elems)

/-- An element as the engines use it: its value, the same without its block scale (an escape's side value included), the
exponent of the scale, the side value where it is an escape, and what reading it did (R68, R71, R78); and the element as a
widened pair takes it, which no block scale flushes or saturates (R112). -/
structure El where
  val : Num
  raw : Num
  scale : Int
  code : Nat
  side : Option Num
  ev : InEv
  wide : Num
  wideEv : InEv

/-- An element that reads as zero (R114). -/
def El.zero : El := ⟨.zero false, .zero false, 0, 127, none, {}, .zero false, {}⟩

/-- Element `i` of a view. -/
def View.el (v : View) (zp : Int) (i : Nat) : El :=
  let (f, t, k) := v.at_ i
  let (x, ev) := t.value f zp k
  let code := if f.scaled then t.scale (k / f.block) else 127
  let s : Int := if code = 255 then 0 else (code : Int) - 127
  let esc := f.girder && t.elem f k == f.escape
  let (y, wev) := if !f.scaled || esc then (x.scale (-s), ev) else if code = 255 then (.nan, {}) else f.rawValue (t.elem f k) zp
  { val := x, raw := x.scale (-s), scale := s, code := code, ev := ev, wide := y, wideEv := wev,
    side := if esc then some x else none }

/-- An element that stands in no tile, such as a staged intermediate: its value, without a block scale. -/
def El.plain (x : Num) : El := { val := x, raw := x, scale := 0, code := 127, side := none, ev := {}, wide := x, wideEv := {} }

/-- Value of element `i`. -/
def View.val (v : View) (zp : Int) (i : Nat) : Num × InEv := let e := v.el zp i; (e.val, e.ev)

/-- Does a view carry the gradient flag (R103)? -/
def View.grad (v : View) : Bool := v.flag || v.parts.any fun p => p.2.gradient
/-- Largest trailer amax of a view, taken as stored; NaN, infinite and negative ones read as the largest FP32 value (R124). -/
def trailerAmax (t : Tile) : Num :=
  let c := t.amaxCode
  if bit c 31 && c % 2 ^ 31 != 0 || bits c 30 23 == 255 then FloatFmt.fp32.largest false else (FloatFmt.fp32.decode c).1

/-- An operand tile of a declared format: trailer code compared (R85), forwarding resolved (R83), malformed tiles refused
(R77). -/
def Act.view (f : Fmt) (va : Nat) : Act View := do
  let t ← Act.tile va
  Act.check (t.format == f.code) .refusedFormat (.addr va)
  if f.girder && t.overflow then
    let (off, fmt, cnt) := t.forward
    Act.check (spillOk f.code fmt cnt) .refusedFormat (.addr va)
    match Fmt.ofCode fmt with
    | none => Act.fail .refusedFormat (.addr va)
    | some g =>
      let base := (va : Int) + off
      Act.check (decide (0 ≤ base)) .refusedFormat (.addr (base % 2 ^ 48).toNat)
      let ps ← (List.range cnt).mapM fun i => do
        let sa := base.toNat + tileBytes * i
        let s ← Act.tile sa
        Act.check (s.format == fmt) .refusedFormat (.addr sa)
        Act.check (!s.malformed g) .refusedFormat (.addr sa)
        return (g, s)
      return ⟨ps, t.gradient⟩
  else
    Act.check (!t.malformed f) .refusedFormat (.addr va)
    return ⟨[(f, t)], false⟩

/-- Views of `n` tiles from a base on. -/
def Act.views (f : Fmt) (base n : Nat) : Act (List View) := (List.range n).mapM fun j => Act.view f (tileAfter base j)

/-- Element `i` of a stream of views (R139). -/
def streamEl (f : Fmt) (vs : List View) (zp : Int) (i : Nat) : El :=
  match vs[i / f.elems]? with
  | some v => v.el zp (i % f.elems)
  | none => .zero

/-- Does the tile that holds element `i` of a stream carry the gradient flag? -/
def streamGrad (f : Fmt) (vs : List View) (i : Nat) : Bool := ((vs[i / f.elems]?).map View.grad).getD false

/-! ### Output tiles (R36, R67, R73, R77 to R82) -/

/-- Payload bytes of element codes (R67). -/
def packCodes (f : Fmt) (cs : List Nat) : List Byte :=
  if f.four then
    (List.range (ceilDiv cs.length 2)).map fun i => BitVec.ofNat 8 (cs.getD (2 * i) 0 % 16 + cs.getD (2 * i + 1) 0 % 16 * 16)
  else cs.flatMap fun c => leBytes (f.width / 8) c

/-- The flags byte of R36. -/
def flagsByte (overflow rotated gradient : Bool) : Nat :=
  (if overflow then 2 else 0) + (if rotated then 4 else 0) + (if gradient then 8 else 0)

/-- A tile from its payload and trailer fields, its amax and keystone computed. -/
def Tile.build (fmt : Nat) (payload : List Byte) (flags esc amax : Nat) (scales sides : List Nat) : Tile :=
  (Tile.ofBytes (padTo 4096 payload ++ leBytes 4 0 ++ leBytes 1 fmt ++ leBytes 1 flags ++ leBytes 2 0 ++ leBytes 2 esc
    ++ leBytes 4 amax ++ padTo 128 (scales.map (BitVec.ofNat 8)) ++ padTo 96 (sides.flatMap (leBytes 4)))).seal

/-- Largest magnitude of a list, NaN left out, as an FP32 code; rounded up where FP32 does not hold it. -/
def amaxCodeOf (l : List Num) : Nat :=
  let m := l.foldl (fun a x => a.max x.abs) (.zero false)
  FloatFmt.fp32.encode (FloatFmt.fp32.round .up m).1

/-- amax of a tile's payload under R36. -/
def Tile.amaxUnder (t : Tile) (f : Fmt) (zp : Int) : Nat :=
  amaxCodeOf ((List.range f.elems).map fun i => (t.value f zp i).1)

/-- The tile with its amax computed anew, and its keystone. -/
def Tile.measure (t : Tile) (f : Fmt) (zp : Int) : Tile := (t.setNum 4106 4 (t.amaxUnder f zp)).seal

/-- A tile of converted elements: codes, block scale codes and side entries; amax over what the codes denote. -/
def Tile.ofCodes (f : Fmt) (codes scales sides : List Nat) (flags : Nat) (zp : Int) : Tile :=
  (Tile.build f.code (packCodes f codes) flags sides.length 0 scales sides).measure f zp

/-- New bytes over an old tile: `p` payload bytes are covered, the rest stays, block scales of the uncovered part too; amax
and keystone cover the whole payload (R140). -/
def Tile.over (new old : Tile) (p : Nat) (zp : Int) : Tile :=
  match Fmt.ofCode new.format with
  | none => new
  | some f =>
    let blocks := if f.scaled then p * 8 / f.width / f.block else 128
    let t := new.setBytes p (old.slice p (4096 - p))
    let t := if f.scaled then t.setBytes (4110 + blocks) (old.slice (4110 + blocks) (128 - blocks)) else t
    let t := t.measure f zp
    if old.poison then t.poisoned else t

/-- Rounding of one conversion: stochastic for a narrowing into a gradient tile (R103), else ties away (R97). -/
def Eng.mode (e : Eng) (narrow grad : Bool) (elem : Nat) : Rounding :=
  if narrow && grad then .stoch (drawU e.x.seed e.task e.ctx e.dseq elem) else .away

/-- Is a conversion from a computing format to this one narrowing? -/
def narrows (comp : FloatFmt) (f : Fmt) : Bool := f.float? != some comp && !(f == .fp64)

/-- Write a tile: it counts as an output of the descriptor. `p` below 4,096 keeps the other payload bytes as they stand. -/
def Act.write (va : Nat) (t : Tile) (p : Nat) (zp : Int := 0) : Act Unit :=
  Act.modFl fun f =>
    { f with writes := f.writes ++ [(va, t)], parts := if p < 4096 then f.parts ++ [(va, p, zp)] else f.parts }

/-- Convert elements into a format without block scales, and write the tiles of a stream from `va` on. `first` is the number
of the first element among the descriptor's outputs. Elements beyond the list keep what they are. -/
def Act.storePlain (f : Fmt) (comp : FloatFmt) (base : Nat) (els : List (FV × Bool)) (gradAll : Bool) (first : Nat) : Act Unit := do
  let e ← get
  for j in List.range (ceilDiv els.length f.elems) do
    let part := (els.drop (j * f.elems)).take f.elems
    let g := gradAll || part.any (·.2)
    let nar := narrows comp f
    let cs := part.zipIdx.map fun (x, i) => (x.1, f.convert (e.mode nar g (first + j * f.elems + i)) 0 none x.1.v)
    Act.modFl fun fl => { fl with counts := cs.foldl (fun c (x, v) => c.output (x.ev.or v.ev) (nar && g)) fl.counts }
    let codes := cs.map fun (_, v) => match v with | .code c _ => c | .escape _ _ => 0
    let t := Tile.ofCodes f codes [] [] (flagsByte false false g) 0
    Act.write (tileAfter base j) t (part.length * (f.width / 8))

/-- Keep resident the tiles of a stream of `n` elements that are only partly covered. -/
def Act.needTail (f : Fmt) (base n : Nat) : Act Unit := do
  if n % f.elems ≠ 0 then
    let _ ← Act.tileRaw (tileAfter base (n / f.elems))

/-- May the descriptor write the `n` tiles from a base on? -/
def Act.canWriteAll (base n : Nat) : Act Unit := (List.range n).forM fun j => Act.canWrite (tileAfter base j)

/-- Write a stream of bytes into FP32 tiles from a base on; the last one keeps its other bytes (R140). -/
def Act.writeBytes (base : Nat) (bs : List Byte) (grad : Nat → Bool) : Act Unit := do
  for j in List.range (ceilDiv bs.length 4096) do
    let part := (bs.drop (4096 * j)).take 4096
    Act.write (tileAfter base j) ((Tile.build 2 part (flagsByte false false (grad j)) 0 0 [] []).measure .fp32 0) part.length

/-- Keep resident the tile that a stream of `n` bytes only partly covers. -/
def Act.needBytes (base n : Nat) : Act Unit := do
  if n % 4096 ≠ 0 then
    let _ ← Act.tileRaw (tileAfter base (n / 4096))

/-- A spill header field as a descriptor names it: refused at issue when it names no tile 0 of a page (R81). -/
def Act.spillHeader (hdr : Nat) : Act Unit :=
  Act.check (hdr != 0 && isTileAddr hdr && hdr % pageBytes == 0) .refusedFormat (.addr hdr)

/-- Allocate `k` spill tiles of a region (R81, R82): the header is read and written at its HBM home. It is a tile that the step has
written (R26). -/
def Act.spill (hdr k : Nat) : Act Nat := do
  let e ← get
  Act.spillHeader hdr
  Act.canWrite hdr
  let t := (e.w.rowTile e.x.span hdr).getD []
  if !t.keystoneOk then
    Act.modW fun w => (w.count e.x.span 0x248 1).coreEventAt e.core .coreKeystone
    Act.fail .keystone (.addr hdr)
  Act.check (!t.poison) .poisoned (.addr hdr)
  let next := t.num 0 4
  let pages := t.num 4 2
  Act.check (t.format == 0 && decide (1 ≤ pages) && decide (1 ≤ next) && decide (next ≤ 481 * pages)) .refusedFormat (.addr hdr)
  let at_ := if pageTiles < next % pageTiles + k then (next / pageTiles + 1) * pageTiles else next
  Act.check (decide (at_ + k ≤ 481 * pages)) .refusedFit (.index 0 e.dseq)
  Act.canWriteAll (tileAfter hdr at_) k
  Act.modW fun w => (w.patchTile e.x.span hdr 0 (leBytes 4 (at_ + k))).modStep e.x.id fun x =>
    { x with written := if x.written.contains hdr then x.written else x.written ++ [hdr] }
  return tileAfter hdr at_

/-- How a block-scaled output takes its scales: the amax entries of its blocks, outlier gap, zero point, spill header; and which
positions of a tile hold elements, the rest being zeros that fill it up and count nothing (R87). -/
structure Scaling where
  ents : Nat → AmaxEntry
  gap : Nat
  zp : Option Int
  hdr : Nat
  real : Nat → Bool := fun _ => true

/-- Of the conversions of a tile those of its elements. -/
def Scaling.live {α : Type} (sc : Scaling) (l : List α) : List α :=
  l.zipIdx.filterMap fun (x, i) => if sc.real i then some x else none

/-- Conversions of elements under a list of block scale codes. -/
def convAll (e : Eng) (f : Fmt) (comp : FloatFmt) (scales : Nat → Nat) (zp : Option Int) (g : Bool) (first : Nat)
    (els : List (FV × Bool)) : List (FV × Conv) :=
  els.zipIdx.map fun (x, i) =>
    let s : Int := if f.scaled then (scales (i / f.block) : Int) - 127 else 0
    (x.1, f.convert (e.mode (narrows comp f) g (first + i)) s zp x.1.v)

/-- Codes of conversions. -/
def codesOf (f : Fmt) (cs : List (FV × Conv)) : List Nat := cs.map fun (_, v) => match v with | .code c _ => c | .escape _ _ => f.escape
/-- Side-list entries of conversions (R37, R78). -/
def sidesOf (cs : List (FV × Conv)) : List Nat :=
  (cs.zipIdx.filterMap fun ((_, v), i) => match v with | .code _ _ => none | .escape b _ => some (i * 65536 + b))
/-- Output events of conversions. DESIGN CHOICE (log entry 113): where R86 is silent, a NaN narrowed into a gradient tile counts as a
stochastic conversion. -/
def Act.outputs (cs : List (FV × Conv)) (stoch : Bool) : Act Unit :=
  Act.modFl fun fl => { fl with counts := cs.foldl (fun c (x, v) => c.output (x.ev.or v.ev) stoch) fl.counts }
/-- Escapes and forwarding tiles counted (R86). -/
def Act.escaped (n ovf : Nat) : Act Unit :=
  Act.modFl fun fl => { fl with counts := { fl.counts with esc := fl.counts.esc + n, ovf := fl.counts.ovf + ovf } }

/-- Write spill tiles and the forwarding tile that stands for them (R79, R80). -/
def Act.forwardTo (f : Fmt) (va hdr need : Nat) (flags : Nat) (amax : Nat) (g : Fmt) (tiles : List Tile) : Act Unit := do
  let sa ← Act.spill hdr tiles.length
  for (t, i) in tiles.zipIdx do Act.write (sa + tileBytes * i) t 4096
  let off : Int := (sa : Int) - va
  let body := leBytes 8 (off % 2 ^ 64).toNat ++ leBytes 1 g.code ++ leBytes 1 tiles.length
  Act.write va (Tile.build f.code body (flags + 2) (min 65535 need) amax [] []) 4096

/-- Convert the elements of one tile under block scales and write it (R73, R77 to R82, R93, R96). -/
def Act.storeScaled (f : Fmt) (comp : FloatFmt) (va : Nat) (els : List (FV × Bool)) (gradAll rotated : Bool) (first : Nat)
    (sc : Scaling) : Act Unit := do
  let e ← get
  let g := gradAll || els.any (·.2)
  let z := sc.zp.getD 0
  let flags := flagsByte false rotated g
  let codeAt (k : Nat) : Nat := blockScale (sc.ents k) f sc.gap sc.zp
  let cs := convAll e f comp codeAt sc.zp g first els
  let scales := (List.range (els.length / f.block)).map codeAt
  let sides := sidesOf cs
  if sides.length ≤ 24 then
    Act.outputs (sc.live cs) g
    Act.escaped sides.length 0
    Act.write va (Tile.ofCodes f (codesOf f cs) scales sides flags z) (els.length * f.width / 8) z
  else
    let half (h : Nat) : List (FV × Conv) := convAll e .girder8 comp (fun k => blockScale (sc.ents (64 * h + k / 2)) .girder8 sc.gap none) none g
      (first + 4096 * h) ((els.drop (4096 * h)).take 4096)
    let wide (k n : Nat) : List (FV × Conv) := convAll e .bf16 comp (fun _ => 127) none g (first + k * n) ((els.drop (k * n)).take n)
    let asG8 := f == .girder4 && (sidesOf (half 0)).length ≤ 24 && (sidesOf (half 1)).length ≤ 24
    if asG8 then
      let hs := [half 0, half 1]
      let ts := hs.zipIdx.map fun (c, h) => Tile.ofCodes .girder8 (codesOf .girder8 c)
        ((List.range 128).map fun k => blockScale (sc.ents (64 * h + k / 2)) .girder8 sc.gap none) (sidesOf c) flags 0
      Act.outputs (sc.live hs.flatten) g
      Act.escaped ((hs.map fun c => (sidesOf c).length).sum) 1
      Act.forwardTo f va sc.hdr sides.length flags (amaxCodeOf (ts.flatMap fun t => [trailerAmax t])) .girder8 ts
    else
      let cnt := if f == .girder4 then 4 else 2
      let ws := (List.range cnt).map fun k => wide k 2048
      let ts := ws.map fun c => Tile.ofCodes .bf16 (codesOf .bf16 c) [] [] flags 0
      Act.outputs (sc.live ws.flatten) g
      Act.escaped 0 1
      Act.forwardTo f va sc.hdr sides.length flags (amaxCodeOf (ts.flatMap fun t => [trailerAmax t])) .bf16 ts

/-! ### Issue (R16 to R19) -/

/-- Does the step still hold the cores it runs on: its core's cluster is awake (R239)? -/
def W.awake (w : W) (l : Nat) : Bool :=
  match w.physOf l with
  | none => false
  | some c => !(w.cluster (c / 9)).asleep && !(w.die (c / 36)).asleep && !(w.die (c / 36)).resetting

/-- Run a descriptor's computation. -/
def Act.exec (a : Act Unit) (e : Eng) : Except Stop Unit × Eng := (ExceptT.run a).run e

/-- Kinds of descriptor that an engine takes first (R116, R137, R155, R182): KV_APPEND begins in the vector chain, and a Viaduct descriptor
with the tile mover (R316). -/
def Engine.kinds : Engine → List Nat
  | .matrix => [0x10, 0x11, 0x30, 0x31]
  | .vector => [0x20, 0x21, 0x22, 0x32]
  | .gather => [0x40, 0x41]
  | .mover => [0x50, 0x51, 0x52, 0x53]

/-- Is a descriptor that is in flight in the queue of an engine (R17, R155)? -/
def InFlight.queued (f : InFlight) (eng : Engine) : Bool := f.engine == eng || (f.attn && eng != .mover)

/-- Has an engine of a core room for a descriptor, and for an attention descriptor all three of its engines (R17, R155)? -/
def W.engineRoom (w : W) (l : Nat) (eng : Engine) (attn : Bool) : Bool :=
  let free (g : Engine) : Bool := decide ((w.step.inflight.filter fun f => f.core == l && f.queued g).length < 16)
  if attn then free .matrix && free .vector && free .gather else free eng

/-- The engine that takes a descriptor. DESIGN CHOICE (log entry 128): R316 gives a Viaduct descriptor to the tile mover and to the
gather-scatter engine and does not say which of the two takes one; here the mover does while it has room. -/
def W.engineFor (w : W) (l : Nat) (eng : Engine) : Engine :=
  if eng == .mover && !w.engineRoom l .mover false && w.engineRoom l .gather false then .gather else eng

/-- Does a descriptor of a kind go through an engine of a core (R116, R137, R155, R182, R316)? An attention descriptor goes through three. -/
def W.takes (w : W) (l : Nat) (eng : Engine) (kind : Nat) : Bool :=
  if kind / 16 = 3 then eng != .mover
  else if kind / 16 = 5 then eng == w.engineFor l .mover
  else eng.kinds.contains kind

/-- Does another READY context of a core, with room for its descriptor, wait longer for an engine that this kind of descriptor goes
through (R17, R155)? One that stands at a pier barrier wants none. -/
def W.waitsLonger (w : W) (l kind : Nat) (eng : Engine) (since : Nat) (piers : List (Nat × Nat × Nat)) : Bool :=
  let mine : List Engine := if kind / 16 = 3 then [.matrix, .vector, .gather] else [eng]
  let wants (k : Nat) : Bool := mine.any (fun g => w.takes l g k) && w.engineRoom l (mine.headD eng) (k / 16 == 3)
  w.step.steps.any fun x => x.phase == .compute && x.aborting.isNone && x.tasks.any fun t => t.core == some l && !t.ended &&
    t.ctxs.zipIdx.any fun (c, j) => c.state == .ready && decide (c.since < since) && decide (w.inFlightOf x.id t.idx j < 8) &&
      !(piers.contains (x.id, t.idx, j) && (w.program x.span x.handle).any fun p => decide (0 < p.piers)) &&
      ((((w.program x.span x.handle).bind fun p => (p.stream t.idx j)[c.next]?).map fun d => wants (rd d 0 1) && t.tokensOk d).getD false)

/-- What an engine has at hand when a context issues its next descriptor: none unless the context is READY, the descriptor is
of one of these kinds, its tokens have come, the context and the engine have room (R16, R17, R19), no other context has waited
longer for the engine, and the step is not being aborted (R28). -/
def W.engStart (w : W) (r : CtxRef) (kinds : List Nat) (eng : Engine) : Option Eng := do
  let x ← w.stepOf r.step
  let t ← x.tasks.find? fun t => t.idx == r.task
  let l ← t.core
  let c ← t.ctxs[r.ctx]?
  let p ← w.program x.span x.handle
  let d ← (p.stream r.task r.ctx)[c.next]?
  let attn := decide (rd d 0 1 / 16 = 3)
  let eng := w.engineFor l eng
  if x.phase == .compute && x.aborting.isNone && !t.ended && w.awake l && c.state == .ready && kinds.contains (rd d 0 1) && t.tokensOk d
      && decide (w.inFlightOf x.id t.idx r.ctx < 8) && w.engineRoom l eng attn && !w.waitsLonger l (rd d 0 1) eng c.since r.piers then
    some
      { w := w, x := x, task := t.idx, ctx := r.ctx, dseq := c.next, core := l, desc := d, vlen := c.vlen.getD 0,
        cap := c.captured,
        fl := { step := x.id, task := t.idx, ctx := r.ctx, dseq := c.next, core := l, engine := eng, sig := sigOf d, writes := [],
                parts := [], counts := {}, cnts := [], lr := [], fail := none, remote := 0, refs := [], gets := [], coll := none,
                look := none, attn := attn } }
  else none

/-- A descriptor that is issued holds the tile-map entries that it names, of tiles that it reads and of tiles that it will write (R47). -/
def W.holdRefs (w : W) (f : InFlight) : InFlight × W :=
  let out := ((f.writes.map (·.1)).dedup.filter fun va => (w.ent f.core va none).isSome).map fun va => (va, (none : Option Nat))
  let f := { f with refs := f.refs ++ out }
  (f, w.each f.refs fun (va, img) w => w.modEnt f.core va img fun q => { q with refs := q.refs + 1 })

/-- The engine has run the descriptor: it is in flight and its context stands at the next one; or a tile is not resident, a
demand fetch starts and the context waits (R46), with nothing of the descriptor done but its reads; or the step fails: the page
iterations done before count (R176), and what the descriptor had written by then is poisoned with the rest (R26). -/
def Eng.issued (e0 : Eng) : Except Stop Unit × Eng → W
  | (.ok _, e) =>
    let (fl, w) := e.w.holdRefs e.fl
    let w := { w with step.inflight := w.step.inflight ++ [fl] }
    let now := w.core.clock
    let w := { w with core.clock := now + 1 }.modStep e0.x.id fun y => y.modCtx e0.task e0.ctx fun c =>
      { c with next := c.next + 1, vlen := if e.vlen = 0 then c.vlen else some e.vlen, since := now, captured := [] }
    w.settleTask e0.x.id e0.task
  | (.error (.wait va gen), e) =>
    let w := e0.w.each e.fl.refs fun (a, g) w => w.touch e0.core a g
    let w := (w.startFetch ((w.hotAt e0.x.span va gen).getD e0.core) va gen false).count e0.x.span 0x288 1
    w.modStep e0.x.id fun y => y.modCtx e0.task e0.ctx fun c => { c with state := .waitFetch va gen, captured := e.cap }
  | (.error (.fail st dt), e) =>
    let w := (e.w.countPages e0.x.span e.fl.cnts).modStep e0.x.id fun y =>
      { y with written := (y.written ++ e.fl.writes.map (·.1) ++ e.touched).dedup }
    w.failStep e0.x.id st dt

/-- A context issues its next descriptor: the operands are read now; the results wait for DESCRIPTOR_COMPLETE. -/
def W.issue (w : W) (r : CtxRef) (kinds : List Nat) (eng : Engine) (body : Act Unit) : W :=
  match w.engStart r kinds eng with
  | none => w
  | some e => e.issued (body.exec e)

end Sys2Proof.Machine
end

