-- ==== Sys2Proof/Machine/Matrix.lean ====
section
/-! DEFINITION. The matrix engine: products, corrections, the compute check, MATMUL (R110 to R126), and the adapter product
(R127 to R132). -/

namespace Sys2Proof.Machine

open Sys2Proof

/-! ### Operands (R110, R113, R114) -/

/-- A matrix operand: decoded elements by row and column, the format each arrived in, and the tiles of each 64-row block. -/
structure Mat where
  rows : Nat
  cols : Nat
  el : Nat → Nat → El
  fmtAt : Nat → Nat → Fmt
  views : Nat → List View

/-- An operand in the layout of R114 from its tiles, one list for each 64-row block. -/
def Mat.ofViews (f : Fmt) (vs : List (List View)) (rows cols : Nat) (zp : Int) : Mat :=
  let q := f.rowElems
  let view r k : View := (((vs[r / 64]?).getD [])[k / q]?).getD ⟨[], false⟩
  { rows := rows, cols := cols,
    el := fun r k => if r < rows && k < cols then (view r k).el zp (r % 64 * q + k % q) else .zero,
    fmtAt := fun r k => ((view r k).at_ (r % 64 * q + k % q)).1,
    views := fun b => (vs[b]?).getD [] }

/-- Input events of an operand, each element once (R87); in a widened pair those of the element without its block scale (R112). -/
def Mat.events (m : Mat) (wide : Bool) : List InEv :=
  (List.range m.rows).flatMap fun r => (List.range m.cols).map fun k => if wide then (m.el r k).wideEv else (m.el r k).ev

/-- Read an operand; `wide` tells whether its pair is a widened one. -/
def Act.mat (f : Fmt) (base stride rows cols : Nat) (zp : Int) (wide : Bool := false) : Act Mat := do
  let per := ceilDiv cols f.rowElems
  let vs ← (List.range (ceilDiv rows 64)).mapM fun b =>
    (List.range per).mapM fun t => Act.view f (tileAfter base (b * stride + t))
  let m := Mat.ofViews f vs rows cols zp
  Act.input (m.events wide)
  return m

/-! ### Pairs (R111, R112, R171) -/

/-- How a stretch of K is multiplied: integer sums, 32-products blocks in native 8-bit pairs, trees of 32 (16-bit pairs, and
pairs widened to FP32), trees of 16 in FP32, trees of 8 in FP64. -/
inductive Run where
  | int | eight | half | wide | single | double
deriving DecidableEq, Repr

/-- The run of a pair; `zpw` tells whether W carries a zero point. -/
def runOf (a w : Fmt) (zpw : Bool) : Run :=
  match a, w with
  | .fp64, _ => .double
  | .fp32, _ => .single
  | .int8, .int8 => if zpw then .wide else .int
  | .int8, .int4 => .int
  | .int8, .bf16 => .wide
  | .int8, .girder8 | .int8, .girder4 => .eight
  | .e4m3, .girder8 | .e4m3, .girder4 => .eight
  | .e4m3, .e4m3 | .e4m3, .e5m2 | .e4m3, .e2m1 => .eight
  | .e5m2, .e4m3 | .e5m2, .e5m2 | .e5m2, .e2m1 => .eight
  | .bf16, .int8 => if zpw then .wide else .half
  | .fp16, .bf16 => .wide
  | _, _ => .half

/-- Does a run take elements without their block scales (R112)? -/
def Run.widens : Run → Bool
  | .int | .eight => false | _ => true

/-- Products of one tree or block. -/
def Run.step : Run → Nat
  | .single => 16 | .double => 8 | _ => 32

/-- The accumulator's format. -/
def Run.fmt : Run → FloatFmt
  | .double => .fp64 | _ => .fp32

/-! ### Accumulation (R118, R119, R121, R173) -/

/-- The terms k0 to k0 + n - 1 of one element, added as one block or tree. -/
def addBlock (run : Run) (a w : Nat → El) (k0 n : Nat) (acc : FV) : FV :=
  let f := run.fmt
  let s : Int := (a k0).scale + (w k0).scale
  match run with
  | .int | .eight =>
    let sum := (List.range n).foldl (fun (t : Num) i =>
      let b := w (k0 + i)
      t.add ((a (k0 + i)).raw.mul (if run = .eight && b.side.isSome then .zero false else b.raw))) (.zero false)
    f.rne (acc.v.add (sum.scale s)) acc.ev
  | _ =>
    let t := f.treeSum ((List.range run.step).map fun i =>
      if i < n then f.mul (FV.of (a (k0 + i)).wide) (FV.of (w (k0 + i)).wide) else FV.of (.zero false))
    f.add acc (f.rne (t.v.scale s) t.ev)

/-- The side-list corrections of the terms k0 to k0 + n - 1 (R121), in ascending position order. -/
def correct (a w : Nat → El) (k0 n : Nat) (acc : FV) : FV :=
  (List.range n).foldl (fun (t : FV) i =>
    match (w (k0 + i)).side with
    | some v => FloatFmt.fp32.fma (FV.of v) (FV.of (a (k0 + i)).val) t
    | none => t) acc

/-- One K-slice of 64 terms: blocks or trees in order, then its corrections. -/
def addSlice (run : Run) (a w : Nat → El) (k0 n : Nat) (acc : FV) : FV :=
  let acc := (List.range (ceilDiv n run.step)).foldl (fun t b =>
    addBlock run a w (k0 + b * run.step) (min run.step (n - b * run.step)) t) acc
  if run = .eight then correct a w k0 n acc else acc

/-- An element: the slices of K in ascending order, each by the run of the formats that reach the array there (R84). -/
def dotRun (ma mw : Mat) (zpw : Bool) (i j : Nat) : FV :=
  (List.range (ceilDiv ma.cols 64)).foldl (fun t c =>
    let run := match runOf (ma.fmtAt i (64 * c)) (mw.fmtAt j (64 * c)) zpw with | .int => Run.eight | r => r
    addSlice run (ma.el i) (mw.el j) (64 * c) (min 64 (ma.cols - 64 * c)) t) (FV.of (.zero false))

/-- Do all scale codes of a row agree (R119)? -/
def Mat.oneScale (m : Mat) (r : Nat) : Bool := (List.range m.cols).all fun k => (m.el r k).code == (m.el r 0).code

/-- One output block: rows i0 to i0 + m - 1, columns j0 to j0 + n - 1. -/
structure Block where
  i0 : Nat
  m : Nat
  j0 : Nat
  n : Nat

/-- Does the integer path serve this block (R119)? -/
def intBlock (ma mw : Mat) (zpw : Bool) (b : Block) : Bool :=
  runOf (ma.fmtAt b.i0 0) (mw.fmtAt b.j0 0) zpw == .int
    && ((List.range b.m).all fun i => ma.oneScale (b.i0 + i)) && ((List.range b.n).all fun j => mw.oneScale (b.j0 + j))

/-- An element of the integer path: the exact sum, times the two scales. -/
def dotInt (ma mw : Mat) (i j : Nat) : FV :=
  FV.of (((List.range ma.cols).foldl (fun (t : Num) k => t.add ((ma.el i k).raw.mul (mw.el j k).raw)) (.zero false)).scale
    ((ma.el i 0).scale + (mw.el j 0).scale))

/-- The accumulators of a block, row by row. -/
def blockAcc (ma mw : Mat) (zpw : Bool) (b : Block) : List (List FV) :=
  let dot := if intBlock ma mw zpw b then dotInt ma mw else dotRun ma mw zpw
  (List.range b.m).map fun i => (List.range b.n).map fun j => dot (b.i0 + i) (b.j0 + j)

/-! ### The compute check (R123 to R126) -/

/-- Side-list entries that the correction path applies in a block. -/
def blockEntries (ma mw : Mat) (zpw : Bool) (b : Block) : Nat :=
  ((List.range b.n).map fun j => ((List.range ma.cols).filter fun k =>
    runOf (ma.fmtAt b.i0 k) (mw.fmtAt (b.j0 + j) k) zpw == .eight && (mw.el (b.j0 + j) k).side.isSome).length).sum

/-- L of R124: one term for each kind of K-slice, each rounded up. -/
def roundings (ma mw : Mat) (zpw : Bool) (b : Block) : Nat :=
  let cnt (p : Run → Bool) : Nat := ((List.range ma.cols).filter fun k => p (runOf (ma.fmtAt b.i0 k) (mw.fmtAt b.j0 k) zpw)).length
  ceilDiv (cnt fun r => r == .eight || r == .int) 32 + blockEntries ma mw zpw b
    + ceilDiv (6 * cnt fun r => r == .half) 32 + ceilDiv (6 * cnt fun r => r == .single || r == .wide) 16
    + ceilDiv (5 * cnt fun r => r == .double) 8

/-- Largest trailer amax of the tiles of a block. -/
def viewsAmax (l : List View) : Num := (l.flatMap fun v => v.parts.map fun p => trailerAmax p.2).foldl Num.max (.zero false)

/-- 64-row blocks that rows i0 to i0 + m - 1 touch. -/
def rowBlocks (i0 m : Nat) : List Nat := (List.range (ceilDiv (i0 + m) 64)).filter fun b => i0 / 64 ≤ b

/-- Tiles read for an output block. -/
def blockViews (ma mw : Mat) (b : Block) : List View :=
  (rowBlocks b.i0 b.m).flatMap ma.views ++ (rowBlocks b.j0 b.n).flatMap mw.views

/-- tau of R124, evaluated exactly and rounded once to FP32. -/
def tolerance (ma mw : Mat) (zpw : Bool) (b : Block) : Num :=
  let p : Int := if runOf (ma.fmtAt b.i0 0) (mw.fmtAt b.j0 0) zpw == .double then 53 else 24
  let x := (((Num.ofNat ((2 * roundings ma mw zpw b + 16) * ma.cols)).mul (viewsAmax ((rowBlocks b.i0 b.m).flatMap ma.views))).mul
    (viewsAmax ((rowBlocks b.j0 b.n).flatMap mw.views))).scale (6 - p)
  (FloatFmt.fp32.round .even x).1

/-- Rows and columns excluded (R125), and whether a compared one mismatches. Predictions are formed exactly. -/
def checkBlock (ma mw : Mat) (zpw : Bool) (b : Block) (acc : List (List FV)) : Nat × Bool :=
  let f : FloatFmt := if runOf (ma.fmtAt b.i0 0) (mw.fmtAt b.j0 0) zpw == .double then .fp64 else .fp32
  let tau := tolerance ma mw zpw b
  let sum (l : List Num) : Num := l.foldl Num.add (.zero false)
  let ks := List.range ma.cols
  let colSum k := sum ((List.range b.n).map fun j => (mw.el (b.j0 + j) k).val)
  let rowSum k := sum ((List.range b.m).map fun i => (ma.el (b.i0 + i) k).val)
  let rows := acc.zipIdx.map fun (r, i) => (r, sum (ks.map fun k => (ma.el (b.i0 + i) k).val.mul (colSum k)))
  let cols := (List.range b.n).map fun j =>
    (acc.map fun r => r.getD j (FV.of (.zero false)), sum (ks.map fun k => (rowSum k).mul (mw.el (b.j0 + j) k).val))
  let out (x : List FV × Num) : Bool := x.2.isNan || (f.largest false).lt x.2.abs || x.1.any fun v => v.ev.sat
  let bad (x : List FV × Num) : Bool := !out x && !(((sum (x.1.map (·.v))).sub x.2).abs.le tau)
  (((rows ++ cols).filter out).length, (rows ++ cols).any bad)

/-- Blocks of an M x N output: M-groups of up to 256 rows by 64 columns, numbered group by group. -/
def blocksOf (m n : Nat) : List Block :=
  (List.range (ceilDiv m 256)).flatMap fun g => (List.range (ceilDiv n 64)).map fun c =>
    { i0 := 256 * g, m := min 256 (m - 256 * g), j0 := 64 * c, n := min 64 (n - 64 * c) }

/-- A product, every block checked (R123); an upset is a fault of the array, seen unless nothing is compared (R125, R126).
Answers the accumulators of each block. -/
def Act.product (ma mw : Mat) (zpw : Bool) (num first : Nat) (ups : List Upset) : Act (List (Block × List (List FV))) :=
  (blocksOf ma.rows mw.rows).zipIdx.mapM fun (b, k) => do
    let acc := blockAcc ma mw zpw b
    let isInt := runOf (ma.fmtAt b.i0 0) (mw.fmtAt b.j0 0) zpw == .int
    let int := intBlock ma mw zpw b
    let (skips, bad) := if int then (0, false) else checkBlock ma mw zpw b acc
    let up := ups.find? fun u => u.product == num && u.block == first + k
    Act.count 0x158 (blockEntries ma mw zpw b)
    if isInt && !int then Act.count 0x160 1
    Act.count 0x150 skips
    let seen := up.isSome && decide (skips < b.m + b.n)
    if bad || (seen && (up.map (·.again)).getD false) then
      let e ← get
      Act.modW fun w => (w.count e.x.span 0x148 1).with (w.physOf e.core) fun c w => (w.quarantine c).coreEvent c .computeDouble
      Act.fail .computeCheck
    else if seen then
      let e ← get
      Act.modW fun w => (w.count e.x.span 0x140 1).coreEventAt e.core .computeTransient
    return (b, acc)

/-! ### Write-back (R114, R115) -/

/-- Fields of a matrix descriptor (R116). -/
structure MatDesc where
  acc : Bool
  grad : Bool
  zpaEn : Bool
  zpwEn : Bool
  fa : Fmt
  fw : Fmt
  fc : Fmt
  zpa : Int
  zpw : Int
  segs : Nat
  addrA : Nat
  strideA : Nat
  addrW : Nat
  strideW : Nat
  addrC : Nat
  strideC : Nat
  m : Nat
  n : Nat
  k : Nat
  alpha : Num
  addrSeg : Nat
  addrDefer : Nat

/-- The fields from the descriptor's bytes; none where a format code names no format. -/
def MatDesc.of (d : List Byte) : Option MatDesc :=
  match Fmt.ofCode (rd d 2 1), Fmt.ofCode (rd d 3 1), Fmt.ofCode (rd d 4 1) with
  | some fa, some fw, some fc =>
    let fl := rd d 1 1
    some { acc := bit fl 0, grad := bit fl 1, zpaEn := bit fl 5, zpwEn := bit fl 6, fa := fa, fw := fw, fc := fc,
           zpa := if bit fl 5 then signed 8 (rd d 5 1) else 0, zpw := if bit fl 6 then signed 8 (rd d 6 1) else 0,
           segs := rd d 14 2, addrA := rd d 16 6, strideA := rd d 22 2, addrW := rd d 24 6, strideW := rd d 30 2,
           addrC := rd d 32 6, strideC := rd d 38 2, m := rd d 40 2 + 1, n := rd d 42 2 + 1, k := rd d 44 2 + 1,
           alpha := (FloatFmt.fp32.decode (rd d 48 4)).1, addrSeg := rd d 52 6, addrDefer := rd d 58 6 }
  | _, _, _ => none

/-- Addresses of the C tiles. -/
def MatDesc.tilesC (d : MatDesc) : List Nat :=
  (List.range (ceilDiv d.m 64)).flatMap fun b => (List.range (ceilDiv d.n d.fc.rowElems)).map fun t =>
    tileAfter d.addrC (b * d.strideC + t)

/-- Write C (R114, R115): narrowed from the accumulators, row by row; an output block shares its gradient flag (R103). -/
def Act.writeC (d : MatDesc) (comp : FloatFmt) (old : Option Mat) (acc : Nat → Nat → FV) (grad : Nat → Nat → Bool) : Act Unit := do
  let e ← get
  let q := d.fc.rowElems
  for b in List.range (ceilDiv d.m 64) do
    for t in List.range (ceilDiv d.n q) do
      let g := grad (64 * b) (q * t)
      let nar := narrows comp d.fc
      let cell (i j : Nat) : Option (FV × Conv) :=
        if i < d.m && j < d.n then
          let a := acc i j
          let r := comp.rne (a.v.mul d.alpha) a.ev
          let r := match old with | some c => comp.rne (r.v.add (c.el i j).val) r.ev | none => r
          some (r, d.fc.convert (e.mode nar g (i * d.n + j)) 0 none r.v)
        else none
      let cells := (List.range 64).flatMap fun i => (List.range q).map fun j => cell (64 * b + i) (q * t + j)
      Act.outputs (cells.filterMap id) (nar && g)
      let codes := cells.map fun c => match c with | some (_, .code x _) => x | _ => 0
      Act.write (tileAfter d.addrC (b * d.strideC + t)) (Tile.ofCodes d.fc codes [] [] (flagsByte false false g) 0) 4096

/-- The accumulator of element (i, j) among checked blocks. -/
def accAt (bs : List (Block × List (List FV))) (n i j : Nat) : FV :=
  match bs[i / 256 * ceilDiv n 64 + j / 64]? with
  | some (b, rows) => (((rows[i - b.i0]?).getD [])[j - b.j0]?).getD (FV.of (.zero false))
  | none => FV.of (.zero false)

/-- Gradient flag of the output block that holds (i, j) (R103). -/
def blockGrad (d : MatDesc) (ma mw : Mat) (old : Option Mat) (i j : Nat) : Bool :=
  let b : Block := { i0 := i / 256 * 256, m := min 256 (d.m - i / 256 * 256), j0 := j / 64 * 64, n := min 64 (d.n - j / 64 * 64) }
  d.grad || (blockViews ma mw b).any View.grad ||
    (match old with
     | some c =>
       (rowBlocks b.i0 b.m).any fun r => ((c.views r).zipIdx.any fun (v, t) =>
         v.grad && decide (t * d.fc.rowElems < b.j0 + b.n) && decide (b.j0 < (t + 1) * d.fc.rowElems))
     | none => false)

/-- The old C, read under ACC (R115). -/
def Act.oldC (d : MatDesc) : Act (Option Mat) := do
  if d.acc then return some (← Act.mat d.fc d.addrC d.strideC d.m d.n 0) else return none

/-- MATMUL's computation. -/
def Act.matmul (ups : List Upset) : Act Unit := do
  match MatDesc.of (← get).desc with
  | none => Act.fail .refusedFormat (.index 0 (← get).dseq)
  | some d =>
    let wide := (runOf d.fa d.fw d.zpwEn).widens
    let ma ← Act.mat d.fa d.addrA d.strideA d.m d.k d.zpa wide
    let mw ← Act.mat d.fw d.addrW d.strideW d.n d.k d.zpw wide
    let old ← Act.oldC d
    d.tilesC.forM Act.canWrite
    let bs ← Act.product ma mw d.zpwEn 0 0 ups
    let comp : FloatFmt := if d.fa = .fp64 then .fp64 else .fp32
    Act.writeC d comp old (accAt bs d.n) (blockGrad d ma mw old)

/-- MATMUL (R110 to R126). -/
def execMatmul (at_ : CtxRef) (upsets : List Upset) (s : State) : Host.Outcome State Fault Refusal :=
  s.act fun w => w.issue at_ [0x10] .matrix (Act.matmul upsets)

/-! ### The adapter product (R127 to R132) -/

/-- A segment entry (R128). -/
structure Segment' where
  first : Nat
  rows : Nat
  handle : Nat
  baseOnly : Bool
  alpha : Num
  bytes : List Byte

/-- A segment entry from its bytes. -/
def Segment'.of (b : List Byte) : Segment' :=
  { first := rd b 0 4, rows := rd b 4 4, handle := rd b 8 2, baseOnly := bit (rd b 10 1) 0,
    alpha := (FloatFmt.fp32.decode (rd b 12 4)).1, bytes := b }

/-- The segment's adapter and site, after the checks of R129; the handle counts toward the limits of the core and step. -/
def Act.siteOf (d : MatDesc) (i : Nat) (s : Segment') : Act (Adapter × Site) := do
  let e ← get
  let det : Detail := .index 1 i
  Act.check (e.x.adapters.contains s.handle) .refusedContract det
  match e.w.adapter s.handle with
  | none => Act.fail .refusedContract det
  | some a =>
    match a.sites.find? fun x => x.wAddr == d.addrW with
    | none => Act.fail .refusedFormat det
    | some x =>
      Act.check (x.k == d.k && x.n == d.n) .refusedFormat det
      let used := ((e.w.stepOf e.x.id).map (·.adpUsed)).getD []
      let used := if used.contains (e.core, s.handle) then used else used ++ [(e.core, s.handle)]
      Act.check (decide ((used.filter fun u => u.1 == e.core).length ≤ 256)) .refusedFit det
      Act.check (decide ((used.map (·.2)).dedup.length ≤ 4096)) .refusedFit det
      Act.modW fun w => w.modStep e.x.id fun y => { y with adpUsed := used }
      return (a, x)

/-- The first factor A_a^T, r x K, as R130 stores it. -/
def Act.factorA (a : Adapter) (x : Site) (f : Fmt) : Act Mat := do
  let r' := padRank a.rank
  let q := f.rowElems
  if r' < 64 then
    let per := 64 / r'
    let vs ← Act.views f x.addrA (tilesOfA a.fmt a.rank x.k)
    let pos (r k : Nat) : Nat × Nat := (k / q / per, (k / q % per * r' + r) * q + k % q)
    return { rows := a.rank, cols := x.k,
             el := fun r k => if r < a.rank && k < x.k then ((vs[(pos r k).1]?).getD ⟨[], false⟩).el 0 (pos r k).2 else .zero,
             fmtAt := fun _ _ => f, views := fun b => if b = 0 then vs else [] }
  else
    let per := ceilDiv x.k q
    let vs ← (List.range (r' / 64)).mapM fun b => (List.range per).mapM fun t => Act.view f (tileAfter x.addrA (b * per + t))
    return Mat.ofViews f vs a.rank x.k 0

/-- The second factor B_a^T, N x r, as R130 stores it. -/
def Act.factorB (a : Adapter) (x : Site) (f : Fmt) : Act Mat := do
  let r' := padRank a.rank
  let q := f.rowElems
  if r' < q then
    let g := q / r'
    let vs ← Act.views f x.addrB (tilesOfB a.fmt a.rank x.n)
    let pos (n k : Nat) : Nat × Nat := (n / g / 64, n / g % 64 * q + n % g * r' + k)
    return { rows := x.n, cols := a.rank,
             el := fun n k => if n < x.n && k < a.rank then ((vs[(pos n k).1]?).getD ⟨[], false⟩).el 0 (pos n k).2 else .zero,
             fmtAt := fun _ _ => f,
             views := fun b => ((List.range vs.length).filter fun t => decide (t * 64 * g < (b + 1) * 64) && decide (b * 64 < (t + 1) * 64 * g)).filterMap
               fun t => vs[t]? }
  else
    let per := ceilDiv r' q
    let vs ← (List.range (ceilDiv x.n 64)).mapM fun b => (List.range per).mapM fun t => Act.view f (tileAfter x.addrB (b * per + t))
    return Mat.ofViews f vs x.n a.rank 0

/-- Rows of an operand, from row `i0` on. -/
def Mat.from (m : Mat) (i0 rows : Nat) : Mat :=
  { m with rows := rows, el := fun r k => m.el (i0 + r) k, fmtAt := fun r k => m.fmtAt (i0 + r) k,
           views := fun b => (rowBlocks (i0 + 64 * b) (min 64 (rows - 64 * b))).flatMap m.views }

/-- A factor as the engine's operand: with A or the adapter in BF16, both are widened to BF16 (R127). -/
def runAs (bf : Bool) (m : Mat) : Mat := if bf then { m with fmtAt := fun _ _ => .bf16 } else m

/-- A tile that stands for a BF16 intermediate in the tolerance of the check: it carries only an amax. -/
def amaxView (l : List Num) : View := ⟨[(.bf16, Tile.setNum [] 4106 4 (amaxCodeOf l))], false⟩

/-- The two factors of an array-path segment, widened where R127 says so. Their input events count once for the descriptor
(R87), however many segments name the adapter. -/
structure Factors where
  a : Adapter
  bf : Bool
  fa : Mat
  fb : Mat

/-- Read the factors of a segment. -/
def Act.factors (d : MatDesc) (i : Nat) (a : Adapter) (x : Site) : Act Factors := do
  match Fmt.ofCode a.fmt with
  | none => Act.fail .refusedFormat (.index 1 i)
  | some f =>
    let fa ← Act.factorA a x f
    let fb ← Act.factorB a x f
    let bf := d.fa == .bf16 || f == .bf16
    Act.inputOnce x.addrA (fa.events bf)
    Act.inputOnce x.addrB (fb.events true)
    return { a := a, bf := bf, fa := fa, fb := fb }

/-- Do the factor tiles read for the output block at column block `c` carry the gradient flag (R103)? -/
def Factors.grad (f : Factors) (c : Nat) : Bool := ((rowBlocks 0 f.a.rank).flatMap f.fa.views ++ f.fb.views c).any View.grad

/-- The adapter term of a segment: alpha_s (A A_a^T) B_a^T, row by row (R127). `grad` tells which rows of A lead to a gradient
output: their intermediate is rounded stochastically, and each of its elements is counted as such a conversion (R86, R99). -/
def Act.adapterTerm (d : MatDesc) (ma : Mat) (i : Nat) (s : Segment') (f : Factors) (grad : Nat → Bool) (ups : List Upset) :
    Act (Nat → Nat → FV) := do
  let rank := f.a.rank
  let seg := ma.from s.first s.rows
  let hs ← Act.product (runAs f.bf seg) (runAs f.bf f.fa) false 1 (i * 2 ^ 20) ups
  let e ← get
  let gs := (List.range s.rows).map fun r => grad (s.first + r)
  let h (g : Bool) (r k : Nat) : FV :=
    let v := accAt hs rank r k
    let mode : Rounding := if g then .stoch (Config.innerDraw e.x.seed e.task e.ctx e.dseq ((s.first + r) * 256 + k)).toNat else .away
    let (y, ev) := FloatFmt.bf16.round mode v.v
    ⟨y, v.ev.or ev⟩
  let rows := gs.zipIdx.map fun (g, r) => (List.range rank).map fun k => h g r k
  Act.modFl fun fl => { fl with counts := { fl.counts with sr := fl.counts.sr + (gs.filter id).length * rank } }
  let at_ (r k : Nat) : FV := (((rows[r]?).getD [])[k]?).getD (FV.of (.zero false))
  let mh : Mat :=
    { rows := s.rows, cols := rank, fmtAt := fun _ _ => .bf16,
      el := fun r k => .plain (at_ r k).v,
      views := fun b => [amaxView (((rows.drop (64 * b)).take 64).flatten.map (·.v))] }
  let ys ← Act.product mh (runAs true f.fb) false 2 (i * 2 ^ 20) ups
  return fun r c =>
    let y := accAt ys d.n r c
    let ev := (List.range rank).foldl (fun (v : Ev) k => v.or (at_ r k).ev) y.ev
    FloatFmt.fp32.rne (y.v.mul s.alpha) ev

/-- Segments in order, none overlapping, none beyond M (R129). -/
def segFault (m : Nat) : Nat → Nat → List Segment' → Option Nat
  | _, _, [] => none
  | i, from_, s :: l =>
    if s.first < from_ || s.rows == 0 || m < s.first + s.rows || !resvZero [(0, 11), (12, 4)] s.bytes || 1 < rd s.bytes 10 1 then some i
    else segFault m (i + 1) (s.first + s.rows) l

/-- ADAPTER's computation. DESIGN CHOICE: an intermediate row whose output blocks differ in the gradient flag is rounded stochastically when
any of them carries it, where R127 does not say which decides (log entry 132); the order of the table's checks, which R129 does not give,
is that of the code (log entry 133). -/
def Act.adapter (ups : List Upset) : Act Unit := do
  match MatDesc.of (← get).desc with
  | none => Act.fail .refusedFormat (.index 0 (← get).dseq)
  | some d =>
    let ts ← Act.tiles d.addrSeg (ceilDiv d.segs 256)
    let segs := (List.range d.segs).map fun i => Segment'.of (payBytes ts (16 * i) 16)
    match segFault d.m 0 0 segs with
    | some i => Act.fail .refusedFormat (.index 1 i)
    | none => pure ()
    let sites ← segs.zipIdx.mapM fun (s, i) => do
      if s.baseOnly then return none else return some (← Act.siteOf d i s)
    let wide := (runOf d.fa d.fw d.zpwEn).widens
    let ma ← Act.mat d.fa d.addrA d.strideA d.m d.k d.zpa wide
    let mw ← Act.mat d.fw d.addrW d.strideW d.n d.k d.zpw wide
    let old ← Act.oldC d
    let e ← get
    let deferred (s : Segment') : Bool := d.addrDefer != 0 && decide (s.rows < e.x.adpThresh)
    let list := (segs.filter deferred).flatMap (·.bytes) ++ List.replicate 16 0#8
    let nDefer := if d.addrDefer = 0 then 0 else ceilDiv list.length 4096
    d.tilesC.forM Act.canWrite
    Act.canWriteAll d.addrDefer nDefer
    let outs := d.tilesC ++ (List.range nDefer).map (tileAfter d.addrDefer)
    let table := (List.range (ceilDiv d.segs 256)).map (tileAfter d.addrSeg)
    Act.check (!(table.any fun va => outs.contains va) && sites.all fun st => match st with
      | some (a, x) => !((x.factors a.fmt a.rank).any fun va => outs.contains va)
      | none => true) .refusedFormat (.index 0 e.dseq)
    if nDefer ≠ 0 then Act.needBytes d.addrDefer list.length
    let facs ← (segs.zip sites).zipIdx.mapM fun ((s, st), i) => do
      match st with
      | none => return none
      | some (a, x) => if deferred s then return none else return some (i, s, ← Act.factors d i a x)
    let facs := facs.filterMap id
    let facGrad (i j : Nat) : Bool := facs.any fun (_, s, f) =>
      decide (s.first < i / 256 * 256 + 256) && decide (i / 256 * 256 < s.first + s.rows) && f.grad (j / 64)
    let grad (i j : Nat) : Bool := blockGrad d ma mw old i j || facGrad i j
    let base ← Act.product ma mw d.zpwEn 0 0 ups
    let terms ← facs.mapM fun (i, s, f) => do
      return (s, ← Act.adapterTerm d ma i s f (fun r => (List.range (ceilDiv d.n 64)).any fun c => grad r (64 * c)) ups)
    let acc (i j : Nat) : FV :=
      match terms.find? fun t => decide (t.1.first ≤ i) && decide (i < t.1.first + t.1.rows) with
      | some (s, f) => FloatFmt.fp32.add (accAt base d.n i j) (f (i - s.first) j)
      | none => accAt base d.n i j
    Act.writeC d .fp32 old acc grad
    Act.count 0x168 (segs.filter deferred).length
    if nDefer ≠ 0 then Act.writeBytes d.addrDefer list fun _ => false

/-- ADAPTER (R127 to R132). -/
def execAdapter (at_ : CtxRef) (upsets : List Upset) (s : State) : Host.Outcome State Fault Refusal :=
  s.act fun w => w.issue at_ [0x11] .matrix (Act.adapter upsets)

end Sys2Proof.Machine
end

