-- ==== Sys2Proof/Machine/Vector.lean ====
section
/-! DEFINITION. The vector chain: VECTOR (R135 to R149, R160, R161), gathered GEMV (R150) and UPDATE (R104, R106, R151). -/

namespace Sys2Proof.Machine

open Sys2Proof

/-- Fields of a vector descriptor (R137). -/
structure VecDesc where
  vlLoad : Bool
  fp64 : Bool
  zpxEn : Bool
  grad : Bool
  fx : Option Fmt
  fy : Option Fmt
  fz : Option Fmt
  fo : Option Fmt
  stages : Nat
  vlen : Nat
  x : Nat
  y : Nat
  z : Nat
  o : Nat
  r : Nat
  p : Nat
  rowLen : Nat
  bcast : Nat
  trans : Nat
  reduce : Nat
  noStore : Bool
  mode : Nat
  gap : Nat
  zpoEn : Bool
  zpx : Int
  zpoRaw : Nat
  arith : Nat

/-- The fields from the descriptor's bytes. -/
def VecDesc.of (d : List Byte) : VecDesc :=
  let fl := rd d 1 1
  let q := rd d 57 1
  { vlLoad := bit fl 7, fp64 := bit fl 6, zpxEn := bit fl 5, grad := bit fl 1,
    fx := Fmt.ofCode (rd d 2 1), fy := Fmt.ofCode (rd d 3 1), fz := Fmt.ofCode (rd d 4 1), fo := Fmt.ofCode (rd d 5 1),
    stages := rd d 9 1, vlen := rd d 14 2 + 1, x := rd d 16 6, y := rd d 22 6, z := rd d 28 6, o := rd d 34 6,
    r := rd d 40 6, p := rd d 46 6, rowLen := rd d 52 2 + 1, bcast := rd d 54 1, trans := rd d 55 1 % 16,
    reduce := rd d 56 1 % 8, noStore := bit (rd d 56 1) 3, mode := if bit (rd d 9 1) 6 then q % 4 else 0, gap := bits q 4 2,
    zpoEn := bit q 5, zpx := if bit fl 5 then signed 8 (rd d 58 1) else 0, zpoRaw := rd d 59 1, arith := rd d 60 4 }

/-- The format in which the chain computes (R149). -/
def VecDesc.comp (d : VecDesc) : FloatFmt := if d.fp64 then .fp64 else .fp32

/-- An element in the chain: its value with its history, and whether a tile read for it carries the gradient flag. -/
abbrev Lane := FV × Bool

/-- A zero lane. -/
def Lane.zero : Lane := (FV.of (.zero false), false)

/-! ### Load, merge, arithmetic (R139 to R142, R149) -/

/-- An element as the load stage hands it on: an FP64 element is narrowed unless the chain computes in FP64. The element itself, not
what it rounds to, is held against the FP32 range (R149). -/
def loadEl (fp64 : Bool) (f : Fmt) (e : El) : Num × InEv :=
  let g := FloatFmt.fp32
  if f = .fp64 && !fp64 then
    if !e.val.isZero && e.val.abs.lt g.smallest then (.zero e.val.sign, { e.ev with flush := true })
    else if (g.largest false).lt e.val.abs then (g.largest e.val.sign, { e.ev with sat := true })
    else ((g.round .even e.val).1, e.ev)
  else (e.val, e.ev)

/-- An input stream of `n` elements: read, its input events counted once, handed on as lanes. -/
def Act.stream (f : Option Fmt) (base n : Nat) (zp : Int) (fp64 : Bool) : Act (Nat → Lane) := do
  match f with
  | none => return fun _ => Lane.zero
  | some f =>
    let vs ← Act.views f base (ceilDiv n f.elems)
    Act.input ((List.range n).map fun i => (loadEl fp64 f (streamEl f vs zp i)).2)
    return fun i => (FV.of (loadEl fp64 f (streamEl f vs zp i)).1, streamGrad f vs i)

/-- How many elements a stream supplies, and which one element `i` of the loop takes (R141). -/
def bcastLen (mode vlen rowLen : Nat) : Nat :=
  match mode with | 0 => vlen | 1 => 1 | 2 => ceilDiv vlen rowLen | _ => min vlen rowLen
def bcastAt (mode rowLen i : Nat) : Nat :=
  match mode with | 0 => i | 1 => 0 | 2 => i / rowLen | _ => i % rowLen

/-- The larger or the smaller of two (R142, R145). Of two zeros of opposite sign either may result: a free value (log entry 96). -/
def pickVal (larger : Bool) (x y : Num) : Num :=
  if x.isZero && y.isZero && x.sign != y.sign then .zero (Config.zeroOf larger x.sign)
  else if larger then x.max y else x.min y

/-- One operation of an FMA unit (R142). -/
def fmaOp (f : FloatFmt) (op : Nat) (a b c : Lane) : Lane :=
  let ev := (a.1.ev.or b.1.ev)
  match op with
  | 0 => a
  | 1 => (f.fma a.1 b.1 c.1, a.2 || b.2 || c.2)
  | 2 => (⟨pickVal true a.1.v b.1.v, ev⟩, a.2 || b.2)
  | 3 => (⟨pickVal false a.1.v b.1.v, ev⟩, a.2 || b.2)
  | 4 => (⟨a.1.v.abs, a.1.ev⟩, a.2)
  | 5 =>
    let s := if (Num.zero false).le c.1.v then a else b
    (⟨s.1.v, s.1.ev.or c.1.ev⟩, a.2 || b.2 || c.2)
  | _ => a

/-- A source operand (R142). -/
def fmaSrc (src : Nat) (x y z p : Lane) : Lane :=
  match src with
  | 0 => x | 1 => y | 2 => z | 3 => p
  | 5 => (FV.of (.ofNat 1), false) | 6 => (FV.of (.ofInt (-1)), false)
  | _ => Lane.zero

/-- One FMA unit with its 13-bit configuration. -/
def fmaUnit (f : FloatFmt) (cfg : Nat) (x y z p : Lane) : Lane :=
  let src (o : Nat) := fmaSrc (cfg / 2 ^ o % 8) x y z p
  fmaOp f (cfg % 16) (src 4) (src 7) (src 10)

/-- The two FMA stages. -/
def VecDesc.arithmetic (d : VecDesc) (x y z : Lane) : Lane :=
  let r1 := if bit d.stages 1 then fmaUnit d.comp (d.arith % 8192) x y z x else x
  if bit d.stages 2 then fmaUnit d.comp (d.arith / 8192 % 8192) x y z r1 else r1

/-! ### Reduce (R145) -/

/-- Cut a list into lanesOf of `n` (at most `k` lanesOf). -/
def lanesOf {α : Type} (n : Nat) : Nat → List α → List (List α)
  | 0, _ => []
  | _, [] => []
  | k + 1, l => l.take n :: lanesOf n k (l.drop n)

/-- A row's beats by the tree, their results in beat order; `leaf` forms the lowest level of a beat's tree. -/
def reduceRow (lanes : Nat) (leaf : List FV → List FV) (op : FV → FV → FV) (row : List FV) : FV :=
  match (lanesOf lanes row.length row).map fun b => (treeFold op 20 (leaf b)).getD (FV.of .nan) with
  | [] => FV.of .nan
  | a :: l => l.foldl op a

/-- The lowest level of a tree of squares: the squares of a pair and their sum with one fused rounding (R145). -/
def squarePairs (f : FloatFmt) : List FV → List FV
  | a :: b :: l => f.rne ((a.v.mul a.v).add (b.v.mul b.v)) (a.ev.or b.ev) :: squarePairs f l
  | [a] => [f.mul a a]
  | [] => []

/-- The values of one row. -/
def reduceVals (f : FloatFmt) (lanes code : Nat) (row : List FV) : List FV :=
  let pick (g : Num → Num → Num) (a b : FV) : FV := ⟨g a.v b.v, a.ev.or b.ev⟩
  let sum := reduceRow lanes id f.add row
  let sq := reduceRow lanes (squarePairs f) f.add row
  match code with
  | 0 => [sum]
  | 1 => [sq]
  | 2 => [reduceRow lanes id (pick (pickVal true)) row]
  | 3 => [reduceRow lanes id (pick (pickVal false)) row]
  | 4 => [reduceRow lanes id (pick (pickVal true)) (row.map fun x => ⟨x.v.abs, x.ev⟩)]
  | _ => [sum, sq]

/-! ### Rotary (R160, R161) -/

/-- A rotary record with its frequencies f_j: each with its history, and whether the record or a table tile that forms it carries the
gradient flag (R87, R103). -/
structure Rotary where
  rotDim : Nat
  hdim : Nat
  interleaved : Bool
  posAddr : Nat
  offset : Nat
  freqs : List Lane

/-- A value divided by a natural number: exact, or with a sticky bit far below any format's precision. -/
def Num.divNat (x : Num) (d : Nat) : Num :=
  match x with
  | .nan => .nan
  | .fin n m e => .fin n (2 * (m * 2 ^ 200 / d) + (if m * 2 ^ 200 % d = 0 then 0 else 1)) (e - 201)

/-- Read a rotary record; a record out of range is refused (R160). `rowLen` is 0 where no row is to hold whole heads. -/
def Act.rotary (addr rowLen : Nat) : Act Rotary := do
  let t ← Act.tile addr
  let f32 (o : Nat) : Num := (FloatFmt.fp32.decode (t.num o 4)).1
  let rot := t.num 8 2
  let hd := t.num 10 2
  let fa := t.num 24 6
  Act.check (t.num 13 1 == 0 && t.num 30 2 == 0 && decide (t.num 12 1 ≤ 1) && rot % 2 == 0 && decide (2 ≤ rot) && decide (rot ≤ hd)
    && decide (rowLen % hd = 0) && (fa != 0 || (Num.ofNat 1).lt (f32 0))) .refusedFormat (.addr addr)
  let half := rot / 2
  let table ← Act.stream (if fa = 0 then none else some .fp32) fa half 0 false
  let freq (j : Nat) : FV :=
    if fa = 0 then
      let lg := trans 4 (FV.of (f32 0))
      trans 2 (FloatFmt.fp32.rne ((lg.v.mul (.ofInt (-(2 * j : Int)))).divNat rot) lg.ev)
    else (table j).1
  return { rotDim := rot, hdim := hd, interleaved := t.num 12 1 == 1, posAddr := t.num 14 6, offset := t.num 20 4,
           freqs := (List.range half).map fun j =>
             let y := freq j
             (FloatFmt.fp32.rne ((f32 4).mul y.v) y.ev, t.gradient || (table j).2) }

/-- Element `i` of a head vector at raw position `p`, rotated (R161); `p` comes with the gradient flag of the tile it was read from.
`none` among the elements read is one that the descriptor does not read: the result is open then. -/
def Rotary.at_ (r : Rotary) (p : Nat × Bool) (x : Nat → Option Lane) (free : Num) (i : Nat) : Lane :=
  let self := (x i).getD Lane.zero
  if r.rotDim ≤ i then self
  else
    let half := r.rotDim / 2
    let j := if r.interleaved then i / 2 else i % half
    let first := if r.interleaved then i % 2 == 0 else decide (i < half)
    let other := if r.interleaved then (if first then i + 1 else i - 1) else (if first then i + half else i - half)
    let fj := r.freqs.getD j Lane.zero
    let pos := p.1 + r.offset
    let key := pos * 2 ^ 32 + FloatFmt.fp32.encode fj.1.v
    let angle := (Num.ofNat pos).mul fj.1.v
    let flag := p.2 || fj.2
    let c := transAngle 9 key angle
    let s := transAngle 8 key angle
    match x other with
    | none => (⟨free, self.1.ev⟩, self.2 || flag)
    | some o =>
      let (a, b) := if first then (self, o) else (o, self)
      let ev := (((a.1.ev.or b.1.ev).or c.ev).or s.ev).or fj.1.ev
      let v := if first then (a.1.v.mul c.v).sub (b.1.v.mul s.v) else (a.1.v.mul s.v).add (b.1.v.mul c.v)
      (FloatFmt.fp32.rne v ev, a.2 || b.2 || flag)

/-- Positions from a table of UINT32, each with the gradient flag of its tile (R103, R160, R163). -/
def Act.positions (base n : Nat) : Act (List (Nat × Bool)) := do
  let ts ← Act.tiles base (ceilDiv n 1024)
  return (List.range n).map fun i => (payNum ts (4 * i) 4, ((ts[i / 1024]?).map Tile.gradient).getD false)

/-- The open FP32 value of one element of a descriptor (log entry 107): the same whenever the step is run again from the same
inputs (R27). -/
def Eng.openNum (e : Eng) (i : Nat) : Num :=
  (FloatFmt.fp32.decode ((Config.openElem e.x.seed e.task e.ctx e.dseq i).toNat % 2 ^ 32)).1

/-- The rotary stage of a vector descriptor. -/
def Act.rotate (d : VecDesc) (vlen : Nat) (els : List Lane) : Act (List Lane) := do
  let r ← Act.rotary d.p d.rowLen
  let ps ← Act.positions r.posAddr (ceilDiv vlen d.rowLen)
  Act.check (ps.all fun p => decide (p.1 + r.offset < 2 ^ 24)) .refusedFormat (.addr d.p)
  let e ← get
  let arr := els.toArray
  return els.zipIdx.map fun (_, i) =>
    let row := i / d.rowLen
    let k := i % d.rowLen
    let base := row * d.rowLen + k / r.hdim * r.hdim
    r.at_ (ps.getD row (0, false)) (fun t => arr[base + t]?) (e.openNum i) (k % r.hdim)

/-! ### Quantise (R90 to R96, R146) -/

/-- A field of an amax record; an FP64 measure rounds outward and never understates (R90). -/
def recField (up : Bool) (x : Num) : Nat :=
  match x with
  | .nan => 0
  | .fin n m _ =>
    if m = 0 then FloatFmt.fp32.encode x
    else
      let (y, ev) := FloatFmt.fp32.round (if up then .up else .down) x
      FloatFmt.fp32.encode (if ev.flush then (if n then FloatFmt.fp32.smallest.neg else FloatFmt.fp32.smallest) else y)

/-- The entry of one block (R90, R91). -/
def amaxEntryOf (asym : Bool) (l : List Num) : List Byte :=
  let l := l.filter fun x => !x.isNan
  if asym then
    leBytes 4 (recField true (l.foldl (pickVal true) .nan)) ++ leBytes 4 (recField false (l.foldl (pickVal false) .nan))
  else
    let (a, b) := l.foldl (fun (p : Num × Num) x => let y := x.abs; if p.1.lt y then (y, p.1) else if p.2.lt y then (p.1, y) else p)
      (.zero false, .zero false)
    leBytes 4 (recField true a) ++ leBytes 4 (recField true b)

/-- The record of one destination tile: 128 entries. -/
def amaxRecord (f : Fmt) (asym : Bool) (els : List Num) : List Byte :=
  padTo 1024 ((lanesOf f.block 128 els).flatMap (amaxEntryOf asym))

/-- Entry `k` of record `j` as read by an apply pass, refused where malformed (R92). -/
def Act.entries (base j n : Nat) (asym : Bool) : Act (List AmaxEntry × Bool) := do
  let va := tileAfter base (j / 4)
  let t ← Act.tile va
  let code (k o : Nat) : Nat := t.num (j % 4 * 1024 + 8 * k + o) 4
  Act.check ((List.range n).all fun k => !amaxMalformed asym (code k 0) (code k 4)) .refusedFormat (.addr va)
  let f32 (c : Nat) : Num := (FloatFmt.fp32.decode c).1
  return ((List.range n).map fun k => ⟨f32 (code k 0), f32 (code k 4)⟩, t.gradient)

/-! ### VECTOR -/

/-- VECTOR's computation. DESIGN CHOICE (log entry 117): a stream that no stage uses but that has a format (R137 is silent) is read, with
its events and its poison. -/
def Act.vector : Act Unit := do
  let d := VecDesc.of (← get).desc
  if d.vlLoad then modify fun e => { e with vlen := d.vlen }
  let vlen := (← get).vlen
  let f := d.comp
  let rows := ceilDiv vlen d.rowLen
  let lanes := if d.fp64 then 16 else 64
  let mode (k : Nat) : Nat := d.bcast / 4 ^ k % 4
  let x ← Act.stream d.fx d.x (bcastLen (mode 0) vlen d.rowLen) d.zpx d.fp64
  let y ← Act.stream d.fy d.y (bcastLen (mode 1) vlen d.rowLen) 0 d.fp64
  let z ← Act.stream d.fz d.z (bcastLen (mode 2) vlen d.rowLen) 0 d.fp64
  let at_ (s : Nat → Lane) (k i : Nat) : Lane := s (bcastAt (mode k) d.rowLen i)
  let els := (List.range vlen).map fun i => d.arithmetic (at_ x 0 i) (at_ y 1 i) (at_ z 2 i)
  let els := if bit d.stages 3 then els.map fun (v, g) => (trans d.trans v, g) else els
  let stored := !(bit d.stages 4 && d.noStore)
  let els ← if bit d.stages 5 && stored then Act.rotate d vlen els else pure els
  -- the tiles to be written, before anything is
  let perRow := if d.reduce = 5 then 2 else 1
  let fr : Fmt := if d.fp64 then .fp64 else .fp32
  if bit d.stages 4 then
    Act.canWriteAll d.r (ceilDiv (rows * perRow) fr.elems)
    Act.needTail fr d.r (rows * perRow)
  match d.fo with
  | none => pure ()
  | some fo =>
    if stored then
      if d.mode = 1 then
        Act.canWriteAll d.r (ceilDiv (ceilDiv vlen fo.elems) 4)
        Act.needBytes d.r (1024 * ceilDiv vlen fo.elems)
        match Fmt.ofCode d.zpoRaw with
        | some fc =>
          if d.o ≠ 0 then
            Act.canWriteAll d.o (ceilDiv vlen fc.elems)
            Act.needTail fc d.o vlen
        | none => pure ()
      else
        Act.canWriteAll d.o (ceilDiv vlen fo.elems)
        Act.needTail fo d.o vlen
  -- results
  if bit d.stages 4 then
    let pre := (List.range vlen).map fun i => d.arithmetic (at_ x 0 i) (at_ y 1 i) (at_ z 2 i)
    let pre := if bit d.stages 3 then pre.map fun (v, g) => (trans d.trans v, g) else pre
    let vals := (lanesOf d.rowLen rows pre).flatMap fun row =>
      (reduceVals f lanes d.reduce (row.map (·.1))).map fun v => (v, row.any (·.2))
    Act.storePlain fr f d.r vals d.grad 0
  match d.fo with
  | none => pure ()
  | some fo =>
    if stored then
      match d.mode with
      | 0 => Act.storePlain fo f d.o els d.grad 0
      | 1 =>
        let tiles := lanesOf fo.elems (ceilDiv vlen fo.elems) els
        Act.writeBytes d.r (tiles.flatMap fun t => amaxRecord fo d.zpoEn (t.map fun e => e.1.v))
          fun j => d.grad || ((tiles.drop (4 * j)).take 4).any fun t => t.any (·.2)
        match Fmt.ofCode d.zpoRaw with
        | some fc => if d.o ≠ 0 then Act.storePlain fc f d.o els d.grad 0
        | none => pure ()
      | _ =>
        let zp : Option Int := if d.zpoEn then some (signed 8 d.zpoRaw) else none
        let tiles := lanesOf fo.elems (ceilDiv vlen fo.elems) els
        let recs ← tiles.zipIdx.mapM fun (t, j) => Act.entries d.r j (ceilDiv t.length fo.block) d.zpoEn
        for ((t, (es, g)), j) in (tiles.zip recs).zipIdx do
          Act.storeScaled fo f (tileAfter d.o j) t (d.grad || g) false (j * fo.elems)
            { ents := fun k => es.getD k ⟨.zero false, .zero false⟩, gap := d.gap, zp := zp, hdr := d.p }
  Act.count 0x170 (rows * ceilDiv d.rowLen lanes)

/-- VECTOR (R137 to R149). -/
def execVector (at_ : CtxRef) (s : State) : Host.Outcome State Fault Refusal :=
  s.act fun w => w.issue at_ [0x20] .vector Act.vector

/-! ### GATHER_GEMV (R150) -/

/-- The segment entries of a deferral list, up to the one with ROWS = 0; a list that runs out of the tiles the step may read
is refused. -/
def Act.deferred (base : Nat) : Nat → Nat → Act (List Segment')
  | 0, _ => Act.fail .refusedFormat (.addr base)
  | k + 1, i => do
    let va := tileAfter base i
    let t ← tryCatch (Act.tile va) fun s => match s with
      | .fail .refusedPermission _ => throw (.fail .refusedFormat (.addr va))
      | s => throw s
    let es := (List.range 256).map fun j => Segment'.of (t.slice (16 * j) 16)
    if es.any fun s => s.rows == 0 then return es.takeWhile fun s => s.rows != 0
    else return es ++ (← Act.deferred base k (i + 1))

/-- The ADAPTER descriptor of the program whose deferred segments a GATHER_GEMV adds: the one with the same formats, A, C,
strides, sizes, ALPHA and list (R150). -/
def Program.deferrer (p : Program) (task : Nat) (g : List Byte) : Option MatDesc :=
  (((p.tasks[task]?).map (·.streams)).getD []).flatten.findSome? fun d =>
    if rd d 0 1 = 0x11 ∧ rd d 58 6 = rd g 46 6 ∧ rd d 16 6 = rd g 16 6 ∧ rd d 32 6 = rd g 34 6 ∧ rd d 42 2 = rd g 14 2
        ∧ rd d 44 2 = rd g 52 2 ∧ rd d 2 1 = rd g 2 1 ∧ rd d 4 1 = rd g 5 1 ∧ rd d 22 2 = rd g 22 2 ∧ rd d 38 2 = rd g 24 2
        ∧ rd d 48 4 = rd g 60 4 then MatDesc.of d else none

/-- A dot product in the chain: beats of 64 products by the tree, beats in order. -/
def chainDot (n : Nat) (a b : Nat → FV) : FV :=
  if n = 0 then FV.of (.zero false)
  else reduceRow 64 id FloatFmt.fp32.add ((List.range n).map fun k => FloatFmt.fp32.mul (a k) (b k))

/-- GATHER_GEMV's computation. -/
def Act.gemv : Act Unit := do
  let e ← get
  let g := e.desc
  match e.w.program e.x.span e.x.handle >>= fun p => p.deferrer e.task g with
  | none => Act.fail .refusedFormat (.index 0 e.dseq)
  | some d =>
    let alpha := (FloatFmt.fp32.decode (rd g 60 4)).1
    let sx := rd g 22 2
    let so := rd g 24 2
    let grad := bit (rd g 1 1) 1
    let segs ← Act.deferred (rd g 46 6) (2 ^ 36) 0
    match segFault d.m 0 0 segs with
    | some i => Act.fail .refusedFormat (.index 1 i)
    | none => pure ()
    let perA := ceilDiv d.k d.fa.rowElems
    let q := d.fc.rowElems
    let perC := ceilDiv d.n q
    let terms ← segs.zipIdx.mapM fun (s, i) => do
      if s.baseOnly then
        Act.count 0x178 1
        Act.count 0x170 8
        return (s, none)
      else
        let (a, x) ← Act.siteOf d i s
        match Fmt.ofCode a.fmt with
        | none => Act.fail .refusedFormat (.index 1 i)
        | some f =>
          let fa ← Act.factorA a x f
          let fb ← Act.factorB a x f
          Act.inputOnce x.addrA (fa.events false)
          Act.inputOnce x.addrB (fb.events false)
          let vs ← (rowBlocks s.first s.rows).mapM fun b => (List.range perA).mapM fun t =>
            Act.view d.fa (tileAfter (rd g 16 6) (b * sx + t))
          let ma := Mat.ofViews d.fa vs (d.m - s.first / 64 * 64) d.k d.zpa
          let row (r k : Nat) : Num × InEv := loadEl false d.fa (ma.el (s.first % 64 + r) k)
          Act.input ((List.range s.rows).flatMap fun r => (List.range d.k).map fun k => (row r k).2)
          let r' := padRank a.rank
          let hs := (List.range s.rows).map fun r => (List.range r').map fun j =>
            chainDot d.k (fun k => FV.of (row r k).1) (fun k => FV.of (fa.el j k).val)
          let h (r j : Nat) : FV := (((hs[r]?).getD [])[j]?).getD (FV.of (.zero false))
          let gr (r : Nat) : Bool := (ma.views ((s.first % 64 + r) / 64)).any View.grad || ((rowBlocks 0 a.rank).flatMap fa.views).any View.grad
          let y (r c : Nat) : FV := FloatFmt.fp32.mul (FV.of alpha)
            (FloatFmt.fp32.mul (FV.of s.alpha) (chainDot r' (h r) (fun j => FV.of (fb.el c j).val)))
          Act.count 0x178 1
          Act.count 0x170 (s.rows * ceilDiv (r' * (d.k + d.n)) 128 + 8)
          return (s, some (y, gr, fun (c : Nat) => (fb.views (c / 64)).any View.grad))
    let live := terms.filterMap fun (s, o) => o.map fun x => (s, x)
    let blocks := (List.range (ceilDiv d.m 64)).filter fun b =>
      live.any fun (s, _) => decide (s.first < 64 * b + 64) && decide (64 * b < s.first + s.rows)
    blocks.forM fun b => (List.range perC).forM fun t => Act.canWrite (tileAfter (rd g 34 6) (b * so + t))
    let e ← get
    for b in blocks do
      for t in List.range perC do
        let va := tileAfter (rd g 34 6) (b * so + t)
        let v ← Act.view d.fc va
        let cells := (List.range 64).flatMap fun r => (List.range q).filterMap fun c =>
          match live.find? fun (s, _) => decide (s.first ≤ 64 * b + r) && decide (64 * b + r < s.first + s.rows) with
          | some (s, y, gr, gc) =>
            if q * t + c < d.n then
              some (r * q + c, 64 * b + r, q * t + c, y (64 * b + r - s.first) (q * t + c), gr (64 * b + r - s.first) || gc (q * t + c))
            else none
          | none => none
        let g' := grad || v.grad || cells.any fun x => x.2.2.2.2
        let nar := narrows .fp32 d.fc
        Act.input (cells.map fun (p, _) => (loadEl false d.fc (v.el 0 p)).2)
        let outs := cells.map fun (p, i, j, y, _) =>
          let s := FloatFmt.fp32.add (FV.of (loadEl false d.fc (v.el 0 p)).1) y
          (p, s, d.fc.convert (e.mode nar g' (i * d.n + j)) 0 none s.v)
        Act.outputs (outs.map fun (_, s, k) => (s, k)) (nar && g')
        let old := ((v.parts.head?).map (·.2)).getD []
        let w := d.fc.width / 8
        let new := outs.foldl (fun (u : Tile) (p, _, k) => match k with | .code c _ => u.setNum (p * w) w c | .escape _ _ => u) old
        Act.write va ((new.setNum 4101 1 (flagsByte false false g')).measure d.fc 0) 4096

/-- GATHER_GEMV (R150). -/
def execGatherGemv (at_ : CtxRef) (s : State) : Host.Outcome State Fault Refusal :=
  s.act fun w => w.issue at_ [0x21] .vector Act.gemv

/-! ### UPDATE (R104 to R106, R151) -/

/-- The hyperparameters of an update (R151). -/
structure Hyper where
  lr : FV
  b1 : FV
  nb1 : FV
  b2 : FV
  nb2 : FV
  eps : FV
  wd : FV
  c1 : FV
  c2 : FV

/-- The hyperparameter record at payload offset `o` of a tile. -/
def Hyper.of (t : Tile) (o : Nat) : Hyper :=
  let f (k : Nat) : FV := FV.of (FloatFmt.fp32.decode (t.num (o + k) 4)).1
  { lr := f 0, b1 := f 4, nb1 := f 8, b2 := f 12, nb2 := f 16, eps := f 20, wd := f 28, c1 := f 32, c2 := f 36 }

/-- The direction d of one element's update, and its new state, from gradient, master and state (R151). `opt` is 0 SGD,
1 MOMENTUM, 2 ADAGRAD, 3 ADAM. -/
def Hyper.direction (h : Hyper) (opt : Nat) (g w m v : FV) : FV × List FV :=
  let f := FloatFmt.fp32
  let neg (x : FV) : FV := ⟨x.v.neg, x.ev⟩
  match opt with
  | 0 => (neg (f.fma h.wd w g), [])
  | 1 =>
    let m := f.fma h.b1 m g
    (neg (f.fma h.wd w m), [m])
  | 2 =>
    let v := f.fma g g v
    (neg (f.mul g (trans 7 (f.add (trans 6 v) h.eps))), [v])
  | _ =>
    let m := f.fma h.b1 m (f.mul h.nb1 g)
    let v := f.fma h.b2 v (f.mul h.nb2 (f.mul g g))
    let q := trans 7 (f.add (trans 6 (f.mul h.c2 v)) h.eps)
    (neg (f.fma h.wd w (f.mul (f.mul h.c1 m) q)), [m, v])

/-- One element's update: the scaled update u' = s d, whether it saturates (R106, not a stage before it), and the new state. -/
def Hyper.element (h : Hyper) (opt : Nat) (s g w m v : FV) : FV × Bool × List FV :=
  let (d, st) := h.direction opt g w m v
  (FloatFmt.fp32.mul s d, (FloatFmt.fp32.mul (FV.of s.v) (FV.of d.v)).ev.sat, st)

/-- master + u' * 2^-E, one rounding (R106). -/
def applyScaled (w u : FV) (e : Int) : FV := FloatFmt.fp32.rne (w.v.add (u.v.scale (-e))) (w.ev.or u.ev)

/-- UPDATE's computation. DESIGN CHOICE (log entry 109): the elements of Y, of Z and of the narrow copy O are numbered from 0 each, where
R100 and R151 are silent. -/
def Act.update : Act Unit := do
  let e ← get
  let d := VecDesc.of e.desc
  if d.vlLoad then modify fun e => { e with vlen := d.vlen }
  let vlen := (← get).vlen
  let opt := d.arith % 4
  let per := [0, 1, 1, 2].getD opt 0
  let lrT ← Act.tile d.p
  let hyT ← Act.tile d.r
  Act.check (resvZero [(0, 24), (28, 12)] (hyT.slice 0 64)) .refusedFormat (.addr d.r)
  let ex : Int := match e.x.lr.find? fun q => q.addr == d.p with
    | some q => q.e
    | none => signed 8 (lrT.num 0 1)
  let hy := Hyper.of hyT 0
  let s := FloatFmt.fp32.rne (hy.lr.v.scale ex)
  let xs ← Act.stream d.fx d.x vlen d.zpx false
  let ys ← Act.stream d.fy d.y vlen 0 false
  let zs ← if per = 0 then pure (fun _ => Lane.zero) else Act.stream d.fz d.z (per * vlen) 0 false
  Act.canWriteAll d.y (ceilDiv vlen 1024)
  Act.needTail .fp32 d.y vlen
  if per ≠ 0 then
    Act.canWriteAll d.z (ceilDiv (per * vlen) 1024)
    Act.needTail .fp32 d.z (per * vlen)
  match d.fo with
  | some fo =>
    if d.o ≠ 0 then
      Act.canWriteAll d.o (ceilDiv vlen fo.elems)
      Act.needTail fo d.o vlen
  | none => pure ()
  let outs := (List.range vlen).map fun i =>
    let w := (ys i).1
    let m := (zs (per * i)).1
    let v := (zs (per * i + (per - 1))).1
    let (u, sat, st) := hy.element opt s (xs i).1 w m v
    (applyScaled w u ex, st, u, sat)
  Act.storePlain .fp32 .fp32 d.y (outs.map fun (w, _, _) => (w, false)) d.grad 0
  if per ≠ 0 then Act.storePlain .fp32 .fp32 d.z (outs.flatMap fun (_, st, _) => st.map fun x => (x, false)) d.grad 0
  match d.fo with
  | some fo => if d.o ≠ 0 then Act.storePlain fo .fp32 d.o (outs.map fun (w, _, _) => (w, false)) d.grad 0
  | none => pure ()
  let a := outs.foldl (fun (m : Num) (_, _, u, _) => m.max u.v.abs) (.zero false)
  Act.modFl fun fl => { fl with lr := [{ addr := d.p, e := ex, amax := a, sat := outs.any fun (_, _, _, sat) => sat }] }
  Act.count 0x180 vlen
  Act.count 0x170 (ceilDiv vlen (if opt ≤ 1 then 64 else 32))

/-- UPDATE (R151). -/
def execUpdate (at_ : CtxRef) (s : State) : Host.Outcome State Fault Refusal :=
  s.act fun w => w.issue at_ [0x22] .vector Act.update

end Sys2Proof.Machine
end

