-- ==== Sys2Proof/Machine/Attention.lean ====
section
/-! DEFINITION. Attention and the KV cache (R155 to R176): ATTN_FWD, ATTN_BWD, KV_APPEND. -/

namespace Sys2Proof.Machine

open Sys2Proof

/-- Fields of an attention descriptor (R156). -/
structure AttnDesc where
  grad : Bool
  zpqEn : Bool
  rope : Bool
  keyRot : Bool
  fq : Fmt
  fkv : Fmt
  fo : Option Fmt
  dim : Nat
  shared : Bool
  heads : Nat
  pfmt : Nat
  mask : Nat
  zpq : Int
  zpkv : Int
  q : Nat
  o : Nat
  list : Nat
  stats : Nat
  p : Nat
  m : Nat
  scale : Num
  window : Nat
  first : Nat
  count : Nat

/-- Head dimension by DCODE (R157). -/
def headDim (c : Nat) : Option Nat := [64, 96, 128, 192, 256][c]?

/-- The fields from the descriptor's bytes. DESIGN CHOICE (log entry 131): a zero point byte for a cache that is not INT8, on which R95 and
R156 are silent, is accepted and not used. -/
def AttnDesc.of (d : List Byte) : Option AttnDesc :=
  let fl := rd d 1 1
  let sh := rd d 5 1
  match Fmt.ofCode (rd d 2 1), Fmt.ofCode (rd d 3 1), headDim (sh / 32) with
  | some fq, some fkv, some dim =>
    some { grad := bit fl 6, zpqEn := bit fl 5, rope := bit fl 1, keyRot := bit fl 0, fq := fq, fkv := fkv,
           fo := Fmt.ofCode (rd d 4 1), dim := dim, shared := bit sh 4, heads := sh / 4 % 4 + 1, pfmt := sh % 4,
           mask := rd d 9 1, zpq := if bit fl 5 then signed 8 (rd d 14 1) else 0,
           zpkv := if fkv = .int8 then signed 8 (rd d 15 1) else 0, q := rd d 16 6, o := rd d 22 6, list := rd d 28 6,
           stats := rd d 34 6, p := rd d 40 6, m := rd d 46 2 + 1, scale := (FloatFmt.fp32.decode (rd d 48 4)).1,
           window := rd d 52 4, first := rd d 56 2, count := rd d 58 2 }
  | _, _, _ => none

/-- The parameter record (R156). -/
structure AttnParam where
  rot : Nat
  qpos : Nat
  seg : Nat
  dO : Nat
  dQ : Nat
  dList : Nat
  fdkv : Option Fmt
  gap : Nat
  spill : Nat
  grad : Bool

/-- Read the parameter record. DESIGN CHOICE (log entry 114): a GAP byte above 7, on which R94 and R156 are silent, is taken modulo 8. -/
def Act.attnParam (va : Nat) : Act AttnParam := do
  let t ← Act.tile va
  Act.check (resvZero [(0, 44)] (t.slice 0 64)) .refusedFormat (.addr va)
  return { rot := t.num 0 6, qpos := t.num 6 6, seg := t.num 12 6, dO := t.num 18 6, dQ := t.num 24 6, dList := t.num 30 6,
           fdkv := Fmt.ofCode (t.num 36 1), gap := t.num 37 1 % 8, spill := t.num 38 6, grad := t.gradient }

/-- MAXF of R165. -/
def maxF (neg : Bool) : FV := FV.of (FloatFmt.fp32.largest neg)

/-- The format in which P and dS enter their products (R172). -/
def AttnDesc.pf (d : AttnDesc) : Fmt :=
  match d.pfmt with
  | 1 => .bf16 | 2 => .fp16
  | _ => if d.fkv = .int8 then .fp16 else .bf16

/-! ### Queries (R160 to R163) -/

/-- Stage the queries: rows head by head, rotated at their positions where ROPE is set (R162). A staged tile carries the gradient flag
when a tile read for an element of it does, and its conversions are stochastic then (R103). Answers with the queries, row by row, what
converting each rotated element did. -/
def Act.queries (d : AttnDesc) (pr : AttnParam) (qpos : List (Nat × Bool)) : Act (Mat × Array (List (Ev × Bool))) := do
  let rows := d.heads * d.m
  let q := d.fq.rowElems
  let m ← Act.mat d.fq d.q (ceilDiv d.dim q) rows d.dim d.zpq (!d.rope && (runOf d.fq d.fkv (d.fkv == .int8)).widens)
  if d.rope then
    Act.check (pr.rot != 0) .refusedFormat (.addr d.p)
    let r ← Act.rotary pr.rot 0
    Act.check (r.hdim == d.dim) .refusedFormat (.addr pr.rot)
    Act.check (qpos.all fun p => decide (p.1 + r.offset < 2 ^ 24)) .refusedFormat (.addr pr.qpos)
    let e ← get
    let read (i k : Nat) : Lane := (FV.of (m.el i k).val, (((m.views (i / 64))[k / q]?).map View.grad).getD false)
    let lanes := ((List.range rows).map fun i => ((List.range d.dim).map fun k =>
      r.at_ (qpos.getD (i % d.m) (0, false)) (fun t => some (read i t)) (.zero false) k).toArray).toArray
    let lane (i k : Nat) : Lane := ((lanes[i]?).bind fun a => a[k]?).getD Lane.zero
    let flags := ((List.range (ceilDiv rows 64)).map fun b => ((List.range (ceilDiv d.dim q)).map fun t =>
      (List.range (min 64 (rows - 64 * b))).any fun i => (List.range (min q (d.dim - q * t))).any fun c =>
        (lane (64 * b + i) (q * t + c)).2).toArray).toArray
    let flag (b t : Nat) : Bool := ((flags[b]?).bind fun a => a[t]?).getD false
    let cell (i k : Nat) : El × Ev × Bool :=
      let e0 := m.el i k
      let g := flag (i / 64) (k / q)
      if r.rotDim ≤ k then (e0, {}, g)
      else
        let x := lane i k
        let mode : Rounding := if g then .stoch (Config.innerDraw e.x.seed e.task e.ctx e.dseq (i * 256 + k)).toNat else .away
        let s : Int := if d.fq.scaled then e0.scale else 0
        match d.fq.convert mode s (if d.fq = .int8 && d.zpqEn then some d.zpq else none) x.1.v with
        | .code c ev =>
          let (v, _) := d.fq.value c (if d.fq.scaled then (s + 127).toNat else 127) d.zpq
          ({ e0 with val := v, raw := v.scale (-s), wide := v.scale (-s), side := none }, x.1.ev.or ev, g)
        | .escape _ ev => (e0, ev, g)
    let arr := ((List.range rows).map fun i => ((List.range d.dim).map fun k => cell i k).toArray).toArray
    let m := { m with
      el := fun i k => if i < rows && k < d.dim then (((arr[i]?).bind fun r => r[k]?).map (·.1)).getD .zero else .zero
      views := fun b => (m.views b).zipIdx.map fun (v, t) => { v with flag := flag b t } }
    return (m, arr.map fun a => (a.toList.take r.rotDim).map (·.2))
  else return (m, #[])

/-- The conversions of the rotated queries count, but those of a row that sees no key reach nothing that is written (R87, R165). -/
def Act.rotated (evs : Array (List (Ev × Bool))) (seen : Nat → Bool) : Act Unit :=
  Act.modFl fun f =>
    let live := evs.toList.zipIdx.filterMap fun (l, i) => if seen i then some l else none
    { f with counts := live.flatten.foldl (fun c x => c.output x.1 x.2) f.counts }

/-- A UINT32 of a table, with the gradient flag of its tile. -/
def Act.word (base i : Nat) : Act (Nat × Bool) := do
  let t ← Act.tile (tileAfter base (i / 1024))
  return (t.num (i % 1024 * 4) 4, t.gradient)

/-- Query positions, where the descriptor needs them. -/
def Act.qpos (d : AttnDesc) (pr : AttnParam) : Act (List (Nat × Bool)) := do
  if d.mask % 8 ≠ 0 || d.rope then Act.positions pr.qpos d.m else return List.replicate d.m (0, false)

/-! ### Page lists and pages (R163, R164, R168, R169) -/

/-- Entry `e` of a page list. -/
def Act.entry (base e : Nat) : Act Nat := do
  let t ← Act.tile (tileAfter base (e / 512))
  return t.num (e % 512 * 8) 8

/-- COUNT of a list, in range. -/
def Act.listCount (base : Nat) : Act Nat := do
  let c ← Act.entry base 0
  Act.check (decide (c ≤ 16384)) .refusedFormat (.addr base)
  return c

/-- Tiles that a list of `n` pages occupies. -/
def listTiles (n : Nat) : Nat := ceilDiv (4 + n) 512

/-- The lists of a descriptor's heads, one after another (R158): one list for all, or one for each head. DESIGN CHOICE (log entry 137):
R158 puts them at consecutive list addresses and does not say how far apart these lie; here a list begins at the tile after those that the
list before it occupies by its COUNT. -/
def Act.lists (base : Nat) : Nat → Act (List Nat)
  | 0 => return []
  | k + 1 => do
    let c ← Act.listCount base
    return base :: (← Act.lists (tileAfter base (listTiles c)) k)

/-- Tiles of the keys and of the values of a KV page (R168). -/
def keyTiles (f : Fmt) (dim : Nat) : Nat := ceilDiv dim f.rowElems
def valTiles (f : Fmt) (dim : Nat) : Nat := ceilDiv dim 64 * ceilDiv 64 f.rowElems

/-- A KV page as read: number, valid tokens, format, keys (64 x d), values (d x 64), and the gradient flag of the list tile that names it. -/
structure KvPage where
  n : Nat
  valid : Nat
  zp : Bool
  fmt : Fmt
  keys : Mat
  vals : Mat
  grad : Bool := false

/-- A zero point on a cache page in a deck is refused where the page's address is known, at issue (R95). -/
def Act.zeroPointOk (f : Fmt) (va : Nat) : Act Unit := do
  let e ← get
  Act.check (f != .int8 || !e.w.onDeck e.x.span va) .refusedFormat (.addr va)

/-- Read a KV page; every key tile's rotated flag is compared with KEY_ROT (R162). A value tile that holds no valid token is not read:
its elements are zeros (R168). The page's input events count once for the descriptor (R87). -/
def Act.page (d : AttnDesc) (addr n valid : Nat) (tail : Bool) : Act KvPage := do
  let f : Fmt := if tail then .bf16 else d.fkv
  let zp : Int := if tail then 0 else d.zpkv
  let kt := keyTiles f d.dim
  let w := ceilDiv 64 f.rowElems
  Act.zeroPointOk f addr
  for a in List.range kt do
    let va := tileAfter addr a
    let t ← Act.tile va
    Act.check (t.rotated == d.keyRot) .refusedFormat (.addr va)
  let ks ← Act.views f addr kt
  let vs ← (List.range (ceilDiv d.dim 64)).mapM fun b => (List.range w).mapM fun t =>
    if t * f.rowElems < valid then Act.view f (tileAfter addr (kt + b * w + t)) else return ⟨[(f, [])], false⟩
  let km := Mat.ofViews f [ks] valid d.dim zp
  let vm := Mat.ofViews f vs d.dim valid zp
  Act.inputOnce addr (km.events (runOf d.fq f (f == .int8)).widens ++ vm.events true)
  return { n := n, valid := valid, zp := f == .int8, fmt := f, keys := { km with rows := 64 }, vals := { vm with cols := 64 } }

/-- Masks that position alone decides (R163). -/
def AttnDesc.inReach (d : AttnDesc) (qpos kpos : Nat) : Bool :=
  (!bit d.mask 0 || decide (kpos ≤ qpos)) && (!bit d.mask 2 || decide (qpos < kpos + d.window))

/-- Is a page skipped (R164)? -/
def AttnDesc.skips (d : AttnDesc) (qpos : List Nat) (n valid : Nat) : Bool :=
  (List.range valid).all fun t => qpos.all fun q => !d.inReach q (64 * n + t)

/-- Visible keys of a page for each row (R163): slots, rising; and whether a segment table tile read for them carries the gradient flag. -/
def Act.visible (d : AttnDesc) (pr : AttnParam) (qpos : List Nat) (n valid : Nat) : Act (List (List Nat) × Bool) := do
  let seg (i : Nat) : Act (Nat × Bool) := if bit d.mask 1 then Act.word pr.seg i else return (0, false)
  let ks ← (List.range valid).mapM fun t => seg (64 * n + t)
  let ss ← qpos.mapM seg
  let vis := (qpos.zip ss).map fun (q, s) =>
    (List.range valid).filter fun t => d.inReach q (64 * n + t) && (ks.getD t (0, false)).1 == s.1
  return (vis, (ks ++ ss).any (·.2))

/-- The pages of a list that a descriptor visits: number, entry. -/
def Act.visits (d : AttnDesc) (base : Nat) : Act (List (Nat × Nat)) := do
  let c ← Act.listCount base
  Act.check (decide (d.first + d.count ≤ c)) .refusedFormat (.addr base)
  (List.range d.count).mapM fun k => do
    let n := d.first + k
    let e ← Act.entry base (4 + n)
    let va := tileAfter base ((4 + n) / 512)
    let valid := bits e 54 48
    Act.check (bits e 62 55 == 0 && (e % 2 ^ 48 == 0 ||
      (decide (1 ≤ valid) && decide (valid ≤ 64) && (valid == 64 || n + 1 == c)))) .refusedFormat (.addr va)
    return (n, e)

/-- Read a page unless it is skipped; a null entry is accepted only for a skipped page. A skip counts on the `first` visit (R176). -/
def Act.visit (d : AttnDesc) (base : Nat) (qpos : List Nat) (n e : Nat) (first : Bool) : Act (Option KvPage) := do
  let a := e % 2 ^ 48
  let valid := if a = 0 then 64 else bits e 54 48
  let la := tileAfter base ((4 + n) / 512)
  if d.skips qpos n valid then
    Act.count 0x190 (if first then 1 else 0)
    return none
  else
    Act.check (a != 0) .refusedFormat (.addr la)
    let pg ← Act.page d a n valid (bit e 63)
    return some { pg with grad := (← Act.tile la).gradient }

/-! ### Internal products -/

/-- The run of an attention pair whose operands are staged (R171, R172). -/
def pairRun (a w : Fmt) (zpw : Bool) : Run :=
  if a = .fp32 || w = .fp32 then .single
  else if (a = .bf16 && w = .fp16) || (a = .fp16 && w = .bf16) || (a = .int8 && w = .bf16) || (a = .bf16 && w = .int8 && zpw) then .wide
  else .half

/-- A staged operand: `get` gives its values, `amax` stands for its tiles in the tolerance. -/
def Mat.staged (rows cols : Nat) (f : Fmt) (get : Nat → Nat → Num) (views : List View) : Mat :=
  { rows := rows, cols := cols, fmtAt := fun _ _ => f, views := fun _ => views,
    el := fun r k => if r < rows && k < cols then .plain (get r k) else .zero }

/-- A checked product of two staged operands; answers its accumulators. `run` is the run at a row of `w` and a position of K: a pair of
formats that runs so stands for it. -/
def Act.staged (run : Nat → Nat → Run) (a w : Mat) (num first : Nat) (ups : List Upset) : Act (Nat → Nat → FV) := do
  let fa : Fmt := if run 0 0 = .single then .fp32 else .bf16
  let fw (j k : Nat) : Fmt := match run j k with | .single => .fp32 | .wide => .int8 | _ => .bf16
  let bs ← Act.product { a with fmtAt := fun _ _ => fa } { w with fmtAt := fw } true num first ups
  let arr := (bs.map fun (b, rows) => (b, (rows.map List.toArray).toArray)).toArray
  let n := w.rows
  return fun i j => match arr[i / 256 * ceilDiv n 64 + j / 64]? with
    | some (b, rows) => ((rows[i - b.i0]?).bind fun r => r[j - b.j0]?).getD (FV.of (.zero false))
    | none => FV.of (.zero false)

/-- All tiles behind an operand. -/
def Mat.allViews (m : Mat) : List View := (rowBlocks 0 m.rows).flatMap m.views

/-- Scores of the rows of an M-group against a page: RNE(dot * SCALE) (R165). -/
def Act.scores (d : AttnDesc) (q : Mat) (pg : KvPage) (it : Nat) (ups : List Upset) : Act (Nat → Nat → FV) := do
  let bs ← Act.product q pg.keys pg.zp 0 (it * 2 ^ 20) ups
  return fun r j => let a := accAt bs 64 r j; FloatFmt.fp32.rne (a.v.mul d.scale) a.ev

/-- A value narrowed to PFMT. -/
def narrowTo (f : Fmt) (mode : Rounding) (x : FV) : FV :=
  match f.float? with
  | some ff => let (y, ev) := ff.round mode x.v; ⟨y, x.ev.or ev⟩
  | none => x

/-- The views that stand for staged values in the tolerance. -/
def stagedViews (l : List Num) : List View := [amaxView l]

/-- Write a matrix in the row layout of R114 from `base` on; `idx` numbers the elements for stochastic rounding. A row that is not
`live` counts nothing (R165). -/
def Act.writeGrid (f : Fmt) (comp : FloatFmt) (base rows cols : Nat) (cell : Nat → Nat → FV) (grad : Nat → Nat → Bool)
    (idx : Nat → Nat → Nat) (live : Nat → Bool := fun _ => true) : Act Unit := do
  let e ← get
  let q := f.rowElems
  let per := ceilDiv cols q
  for b in List.range (ceilDiv rows 64) do
    for t in List.range per do
      let g := grad b t
      let nar := narrows comp f
      let cells := (List.range 64).flatMap fun i => (List.range q).map fun j =>
        if 64 * b + i < rows && q * t + j < cols then
          let v := cell (64 * b + i) (q * t + j)
          some (v, f.convert (e.mode nar g (idx (64 * b + i) (q * t + j))) 0 none v.v)
        else none
      Act.outputs (cells.zipIdx.filterMap fun (c, p) => if live (64 * b + p / q) then c else none) (nar && g)
      let codes := cells.map fun c => match c with | some (_, .code x _) => x | _ => 0
      Act.write (tileAfter base (b * per + t)) (Tile.ofCodes f codes [] [] (flagsByte false false g) 0) 4096

/-- Tiles of a grid. -/
def gridTiles (f : Fmt) (rows cols : Nat) : Nat := ceilDiv rows 64 * ceilDiv cols f.rowElems

/-- The beats of the vector chain that the descriptor takes (R154): a free value (log entry 64). -/
def Act.beats (kind rows its : Nat) : Act Unit := Act.count 0x170 (Config.attnBeats kind rows its).toNat

/-! ### ATTN_FWD (R165, R166) -/

/-- The running state of a query row: m, l, acc, and whether it has seen a key. -/
structure RowState where
  m : FV
  l : FV
  acc : List FV
  seen : Bool := false

/-- A row before its first page. -/
def RowState.start (dim : Nat) : RowState := ⟨maxF true, FV.of (.zero false), List.replicate dim (FV.of (.zero false)), false⟩

/-- What a page iteration read besides its query rows: which rows it served, and whether its keys, and its values of a channel, carried
the gradient flag (R103). -/
structure PageFlags where
  first : Nat
  rows : Nat
  keys : Bool
  vals : Nat → Bool

/-- One page for one row: its visible slots, scores, the p_j, then the new m, l and the factor c. -/
def RowState.weights (r : RowState) (vis : List Nat) (s : Nat → FV) : FV × FV × FV × (Nat → FV) :=
  let f := FloatFmt.fp32
  let mb := vis.foldl (fun (m : FV) j => ⟨pickVal true m.v (s j).v, m.ev.or (s j).ev⟩) r.m
  let c := if r.l.v.isZero then FV.of (.zero false) else trans 1 (f.sub r.m mb)
  let ps := vis.map fun j => (j, trans 1 (f.sub (s j) mb))
  let p (j : Nat) : FV := ((ps.find? fun x => x.1 == j).map (·.2)).getD (FV.of (.zero false))
  (mb, f.fma r.l c (f.treeSum ((List.range 64).map p)), c, p)

/-- ATTN_FWD's computation: each M-group over the whole page range before the next (R159). -/
def Act.attnFwd (ups : List Upset) : Act Unit := do
  match AttnDesc.of (← get).desc with
  | none => Act.fail .refusedFormat (.index 0 (← get).dseq)
  | some d =>
    let f := FloatFmt.fp32
    let pr ← Act.attnParam d.p
    let d := { d with grad := d.grad || pr.grad }
    let qpos ← Act.qpos d pr
    let (q, evs) ← Act.queries d pr qpos
    let rows := d.heads * d.m
    let fo := d.fo.getD .fp32
    Act.canWriteAll d.o (gridTiles fo rows d.dim)
    Act.canWriteAll d.stats (ceilDiv (2 * rows) 1024)
    Act.needTail .fp32 d.stats (2 * rows)
    let bases ← Act.lists d.list (if d.shared then 1 else d.heads)
    let mut out : List RowState := []
    let mut read : List PageFlags := []
    let mut it := 0
    for (base, h) in bases.zipIdx do
      let vs ← Act.visits d base
      let i0 := if d.shared then 0 else h * d.m
      let n := if d.shared then rows else d.m
      for g in List.range (ceilDiv n 256) do
        let r0 := i0 + 256 * g
        let cnt := min 256 (n - 256 * g)
        let qm := q.from r0 cnt
        let pos := (List.range cnt).map fun r => (qpos.getD ((r0 + r) % d.m) (0, false)).1
        let mut st := List.replicate cnt (RowState.start d.dim)
        for (k, e) in vs do
          match ← Act.visit d base (qpos.map (·.1)) k e (g == 0) with
          | none => pure ()
          | some pg =>
            let (vis, sg) ← Act.visible d pr pos pg.n pg.valid
            let s ← Act.scores d qm pg it ups
            let ws := (st.zip vis).zipIdx.map fun ((r, v), i) => (r, v, r.weights v (s i))
            let ps := ws.map fun (_, v, _, _, _, p) => ((List.range 64).map fun j =>
              if v.contains j then narrowTo d.pf .away (p j) else FV.of (.zero false)).toArray
            let arr := ps.toArray
            let at_ (i j : Nat) : FV := ((arr[i]?).bind fun a => a[j]?).getD (FV.of (.zero false))
            let pm := { Mat.staged cnt 64 d.pf (fun i j => (at_ i j).v) [] with
              views := fun b => stagedViews ((ps.drop (64 * b)).take 64 |>.flatMap fun a => a.toList.map (·.v)) }
            let bs ← Act.product pm pg.vals pg.zp 1 (it * 2 ^ 20) ups
            st := ws.zipIdx.map fun ((r, v, mb, l, c, _), i) =>
              if v.isEmpty then r
              else
                let ev := (List.range 64).foldl (fun (t : Ev) j => t.or (at_ i j).ev) {}
                { m := mb, l := l, seen := true, acc := r.acc.zipIdx.map fun (a, ch) =>
                    let y := accAt bs d.dim i ch
                    f.fma a c ⟨y.v, y.ev.or ev⟩ }
            read := read ++ [{ first := r0, rows := cnt, keys := pg.grad || sg || (pg.keys.views 0).any View.grad,
                               vals := fun ch => (pg.vals.views (ch / 64)).any View.grad }]
            it := it + 1
            Act.count 0x188 1
        out := out ++ st
    let arr := out.toArray
    let row (i : Nat) : RowState := (arr[i]?).getD (RowState.start 0)
    let live (i : Nat) : Bool := (row i).seen
    let cell (i k : Nat) : FV :=
      let r := row i
      if !live i then FV.of (.zero false)
      else let rc := trans 7 r.l; f.mul (r.acc.getD k (FV.of (.zero false))) rc
    let lse (i : Nat) : FV :=
      let r := row i
      if !live i then maxF true else f.add r.m (trans 3 r.l)
    let gq (b : Nat) : Bool := d.grad || (q.views b).any View.grad ||
      (List.range (min 64 (rows - 64 * b))).any fun i => (qpos.getD ((64 * b + i) % d.m) (0, false)).2
    let served (b : Nat) : List PageFlags := read.filter fun p => decide (p.first < 64 * b + 64) && decide (64 * b < p.first + p.rows)
    let gO (b t : Nat) : Bool := gq b || (served b).any fun p =>
      p.keys || (List.range fo.rowElems).any fun c => p.vals (t * fo.rowElems + c)
    Act.writeGrid fo f d.o rows d.dim cell gO (fun i k => i * d.dim + k) live
    let stats := (List.range rows).flatMap fun i =>
      let g := gq (i / 64) || read.any fun p => decide (p.first ≤ i) && decide (i < p.first + p.rows) && p.keys
      [((row i).m, g), (lse i, g)]
    Act.storePlain .fp32 f d.stats stats d.grad 0
    Act.rotated evs live
    Act.beats 0x30 rows it

/-- ATTN_FWD (R155 to R166). -/
def execAttnFwd (at_ : CtxRef) (upsets : List Upset) (s : State) : Host.Outcome State Fault Refusal :=
  s.act fun w => w.issue at_ [0x30] .matrix (Act.attnFwd upsets)

/-! ### ATTN_BWD (R167) -/

/-- FP32 sums in scratchpad, by row and column. -/
abbrev Sums := Array (Array FV)

/-- Sums at zero. -/
def Sums.zero (r c : Nat) : Sums := Array.replicate r (Array.replicate c (FV.of (.zero false)))
/-- One sum. -/
def Sums.at_ (s : Sums) (i j : Nat) : FV := ((s[i]?).bind fun r => r[j]?).getD (FV.of (.zero false))
/-- Add a product to the sums, row `i` of it to row `i0 + i`, each through `post`. -/
def Sums.addTo (s : Sums) (i0 rows : Nat) (post : FV → FV) (x : Nat → Nat → FV) : Sums :=
  (s.toList.zipIdx.map fun (r, i) =>
    if i0 ≤ i && i < i0 + rows then (r.toList.zipIdx.map fun (a, j) => FloatFmt.fp32.add a (post (x (i - i0) j))).toArray else r).toArray

/-- ATTN_BWD's computation. DESIGN CHOICE (log entry 109): the elements of dK and dV are numbered on in the order written,
where R100 is silent; how many tiles give way to the transposed blocks (R47, R167) is a free value (log entry 129). -/
def Act.attnBwd (ups : List Upset) : Act Unit := do
  match AttnDesc.of (← get).desc with
  | none => Act.fail .refusedFormat (.index 0 (← get).dseq)
  | some d =>
    let f := FloatFmt.fp32
    let pr ← Act.attnParam d.p
    let fo := d.fo.getD .fp32
    let fd ← match pr.fdkv with
      | some .fp32 => pure Fmt.fp32
      | some .bf16 => pure Fmt.bf16
      | some .fp16 => pure Fmt.fp16
      | _ => Act.fail .refusedFormat (.addr d.p)
    let qpos ← Act.qpos d pr
    let (q, evs) ← Act.queries d pr qpos
    let rows := d.heads * d.m
    let per := ceilDiv d.dim fo.rowElems
    let om ← Act.mat fo d.o per rows d.dim 0
    let dom ← Act.mat fo pr.dO per rows d.dim 0
    let stv ← Act.views .fp32 d.stats (ceilDiv (2 * rows) 1024)
    Act.input ((List.range (2 * rows)).map fun i => (streamEl .fp32 stv 0 i).ev)
    let lse (i : Nat) : FV := FV.of (streamEl .fp32 stv 0 (2 * i + 1)).val
    let dqOld ← Act.mat .fp32 pr.dQ (ceilDiv d.dim 16) rows d.dim 0
    Act.canWriteAll pr.dQ (gridTiles .fp32 rows d.dim)
    let delta := ((List.range rows).map fun i => reduceRow 64 id f.add ((List.range d.dim).map fun k =>
      f.mul (FV.of (dom.el i k).val) (FV.of (om.el i k).val))).toArray
    let bases ← Act.lists d.list (if d.shared then 1 else d.heads)
    let dBases ← Act.lists pr.dList (if d.shared then 1 else d.heads)
    let e ← get
    let mut dq := Sums.zero rows d.dim
    let mut it := 0
    let mut pages := 0
    let mut seen := List.replicate rows false
    for ((base, dBase), h) in (bases.zip dBases).zipIdx do
      let vs ← Act.visits d base
      let ds ← Act.visits d dBase
      let i0 := if d.shared then 0 else h * d.m
      let n := if d.shared then rows else d.m
      for ((k, en), (_, den)) in vs.zip ds do
        match ← Act.visit d base (qpos.map (·.1)) k en true with
        | none => pure ()
        | some pg =>
          let da := den % 2 ^ 48
          Act.check (da != 0) .refusedFormat (.addr (tileAfter dBase ((4 + k) / 512)))
          Act.canWriteAll da (keyTiles fd d.dim + valTiles fd d.dim)
          let mut dk := Sums.zero 64 d.dim
          let mut dv := Sums.zero d.dim 64
          for g in List.range (ceilDiv n 256) do
            let r0 := i0 + 256 * g
            let cnt := min 256 (n - 256 * g)
            let qm := q.from r0 cnt
            let pos := (List.range cnt).map fun r => (qpos.getD ((r0 + r) % d.m) (0, false)).1
            let (vis, _) ← Act.visible d pr pos pg.n pg.valid
            seen := seen.zipIdx.map fun (b, i) => b || (decide (r0 ≤ i) && !(vis.getD (i - r0) []).isEmpty)
            let s ← Act.scores d qm pg it ups
            let pFull : Sums := ((vis.zipIdx.map fun (v, i) => ((List.range 64).map fun j =>
              if v.contains j then trans 1 (f.sub (s i j) (lse (r0 + i))) else FV.of (.zero false)).toArray).toArray)
            let draw (i j : Nat) : Rounding :=
              .stoch (Config.innerDraw e.x.seed e.task e.ctx e.dseq ((it * 256 + i) * 64 + j)).toNat
            let pArr : Sums := ((List.range cnt).map fun i => ((List.range 64).map fun j => narrowTo d.pf .away (pFull.at_ i j)).toArray).toArray
            let pN (i j : Nat) : FV := pArr.at_ i j
            let evOf (l : List FV) : Ev := l.foldl (fun (t : Ev) x => t.or x.ev) {}
            let marked (ev : Nat → Nat → Ev) (y : Nat → Nat → FV) (i j : Nat) : FV := let x := y i j; ⟨x.v, x.ev.or (ev i j)⟩
            let pCol := ((List.range 64).map fun t => evOf ((List.range cnt).map fun r => pN r t)).toArray
            let doT := Mat.staged d.dim cnt fo (fun c r => (dom.el (r0 + r) c).val) dom.allViews
            let pv (m : Nat → Nat → FV) : List View := stagedViews ((List.range cnt).flatMap fun i => (List.range 64).map fun j => (m i j).v)
            -- dV^T = dO^T P, formed as P^T dO
            let y1 ← Act.staged (fun _ _ => pairRun d.pf fo false) (Mat.staged 64 cnt d.pf (fun t r => (pN r t).v) (pv pN)) doT 1 (it * 2 ^ 20) ups
            dv := dv.addTo 0 d.dim id (marked (fun _ t => (pCol[t]?).getD {}) fun c t => y1 t c)
            -- dP = dO V^T
            let y2 ← Act.staged (fun _ c => pairRun fo (pg.vals.fmtAt c 0) pg.zp)
              (Mat.staged cnt d.dim fo (fun r c => (dom.el (r0 + r) c).val) dom.allViews)
              (Mat.staged 64 d.dim pg.fmt (fun t c => (pg.vals.el c t).val) pg.vals.allViews) 2 (it * 2 ^ 20) ups
            let dS (i j : Nat) : FV := f.mul (pFull.at_ i j) (f.sub (y2 i j) ((delta[r0 + i]?).getD (FV.of (.zero false))))
            let dsArr : Sums := ((List.range cnt).map fun i => ((List.range 64).map fun j => narrowTo d.pf (draw i j) (dS i j)).toArray).toArray
            let dsRow := ((List.range cnt).map fun i => evOf ((List.range 64).map fun j => dsArr.at_ i j)).toArray
            let dsCol := ((List.range 64).map fun t => evOf ((List.range cnt).map fun i => dsArr.at_ i t)).toArray
            -- each visible element of dS is narrowed stochastically (R103, R172)
            Act.modFl fun fl => { fl with counts := { fl.counts with sr := fl.counts.sr + (vis.map List.length).sum } }
            -- dQ += SCALE dS K
            let y3 ← Act.staged (fun c _ => pairRun d.pf (pg.keys.fmtAt 0 c) pg.zp) (Mat.staged cnt 64 d.pf (fun i j => (dsArr.at_ i j).v) (pv dsArr.at_))
              (Mat.staged d.dim 64 pg.fmt (fun c t => (pg.keys.el t c).val) pg.keys.allViews) 3 (it * 2 ^ 20) ups
            dq := dq.addTo r0 cnt (fun x => f.rne (x.v.mul d.scale) x.ev) (marked (fun i _ => (dsRow[i]?).getD {}) y3)
            -- dK += SCALE dS^T Q
            let y4 ← Act.staged (fun _ _ => pairRun d.pf d.fq d.zpqEn) (Mat.staged 64 cnt d.pf (fun t i => (dsArr.at_ i t).v) (pv dsArr.at_))
              (Mat.staged d.dim cnt d.fq (fun c r => (qm.el r c).val) q.allViews) 4 (it * 2 ^ 20) ups
            dk := dk.addTo 0 64 (fun x => f.rne (x.v.mul d.scale) x.ev) (marked (fun t _ => (dsCol[t]?).getD {}) y4)
            it := it + 1
            Act.count 0x188 1
          let kArr := dk
          let vArr := dv
          Act.writeGrid fd f da 64 d.dim (fun t c => kArr.at_ t c) (fun _ _ => true)
            fun t c => pages * 128 * d.dim + t * d.dim + c
          Act.writeGrid fd f (tileAfter da (keyTiles fd d.dim)) d.dim 64 (fun c t => vArr.at_ c t) (fun _ _ => true)
            fun c t => (2 * pages + 1) * 64 * d.dim + c * 64 + t
          pages := pages + 1
    let qArr := dq
    Act.writeGrid .fp32 f pr.dQ rows d.dim (fun i c => f.add (FV.of (dqOld.el i c).val) (qArr.at_ i c)) (fun _ _ => true)
      fun i c => i * d.dim + c
    Act.rotated evs fun i => seen.getD i false
    modify fun e => { e with w := e.w.stageSlots e.core e.fl.refs (Config.stageSlots rows d.dim it).toNat }
    Act.beats 0x31 rows it

/-- ATTN_BWD (R167). -/
def execAttnBwd (at_ : CtxRef) (upsets : List Upset) (s : State) : Host.Outcome State Fault Refusal :=
  s.act fun w => w.issue at_ [0x31] .matrix (Act.attnBwd upsets)

/-! ### KV_APPEND (R168 to R170) -/

/-- An append in progress: the list's header, its tiles and the tail's as changed so far, pages sealed, and the number of elements
written, by which the next ones are numbered (R100, log entry 109). -/
structure Append where
  count : Nat
  valid : Nat
  tail : Bool
  next : Nat
  left : Nat
  tiles : List (Nat × Tile)
  seals : Nat
  elems : Nat := 0

/-- A tile as the append sees it. -/
def Act.appTile (a : Append) (va : Nat) : Act Tile := do
  match a.tiles.find? fun x => x.1 == va with
  | some (_, t) => return t
  | none => Act.tile va

/-- Keep a changed tile. -/
def Append.keep (a : Append) (va : Nat) (t : Tile) : Append :=
  { a with tiles := (va, t) :: a.tiles.filter fun x => x.1 != va }

/-- The same in the engine: the tile counts as written from now on (R26). -/
def Act.keep (a : Append) (va : Nat) (t : Tile) : Act Append := do
  modify fun e => { e with touched := va :: e.touched }
  return a.keep va t

/-- Write a list entry. -/
def Act.setEntry (a : Append) (base e v : Nat) : Act Append := do
  let va := tileAfter base (e / 512)
  Act.canWrite va
  let t ← Act.appTile a va
  Act.keep a va (t.setNum (e % 512 * 8) 8 v)

/-- A tail tile as it stands: it is read as BF16, so its code is compared (R85). -/
def Act.tailTile (a : Append) (va : Nat) : Act Tile := do
  let t ← Act.appTile a va
  Act.check (t.format == 3) .refusedFormat (.addr va)
  return t

/-- The source of an append: BF16 or wider keys and values, token by token, each with the gradient flag of its tiles. -/
structure Source where
  key : Nat → Nat → Lane
  val : Nat → Nat → Lane

/-- Write one token into the tail, in BF16 (R170). A tile that takes its first token is not read for what it held. -/
def Act.toTail (d : AttnDesc) (src : Source) (addr slot i : Nat) (a : Append) : Act Append := do
  let e ← get
  let kt := keyTiles .bf16 d.dim
  let f := FloatFmt.fp32
  let put (va : Nat) (isKey fresh : Bool) (cells : List (Nat × Nat × Lane)) (a : Append) : Act Append := do
    Act.canWrite va
    let t ← if fresh then Act.appTile a va else Act.tailTile a va
    if isKey && !fresh && !(a.tiles.any fun x => x.1 == va) then Act.check (t.rotated == d.keyRot) .refusedFormat (.addr va)
    let g := d.grad || cells.any (·.2.2.2) || (!fresh && t.gradient)
    let cs := cells.map fun (o, idx, x) => (o, x.1, Fmt.bf16.convert (e.mode (narrows f .bf16) g (a.elems + idx)) 0 none x.1.v)
    Act.outputs (cs.map fun (_, x, c) => (x, c)) g
    let t := cs.foldl (fun (u : Tile) (o, _, c) => match c with | .code k _ => u.setNum o 2 k | .escape _ _ => u) t
    Act.keep a va ((t.setNum 4100 1 3).setNum 4101 1 (flagsByte false (isKey && (d.rope || (!fresh && t.rotated))) g))
  let a ← (List.range kt).foldlM (fun a j => put (tileAfter addr j) true (slot == 0)
    ((List.range (min 32 (d.dim - 32 * j))).map fun c => ((slot * 32 + c) * 2, 32 * j + c, src.key i (32 * j + c))) a) a
  let a ← (List.range (ceilDiv d.dim 64)).foldlM (fun a b => put (tileAfter addr (kt + 2 * b + slot / 32)) false (slot % 32 == 0)
    ((List.range (min 64 (d.dim - 64 * b))).map fun c =>
      ((c * 32 + slot % 32) * 2, d.dim + 64 * b + c, src.val i (64 * b + c))) a) a
  return { a with elems := a.elems + 2 * d.dim }

/-- The amax entry of a block of values. -/
def amaxOf (asym : Bool) (l : List Num) : AmaxEntry :=
  let b := amaxEntryOf asym l
  ⟨(FloatFmt.fp32.decode (rd b 0 4)).1, (FloatFmt.fp32.decode (rd b 4 4)).1⟩

/-- Seal 64 tokens into the page at SEAL (R170): `key t c` and `val t c` give them, with their gradient flags. DESIGN CHOICE (log entry
109): the page's elements are numbered on from what was written before, where R100 is silent. -/
def Act.sealPage (d : AttnDesc) (pr : AttnParam) (base : Nat) (key val : Nat → Nat → Lane) (rotated : Bool) (a : Append) : Act Append := do
  Act.check (decide (0 < a.left)) .refusedFit (.index 0 (← get).dseq)
  let f := d.fkv
  let q := f.rowElems
  let kt := keyTiles f d.dim
  let w := ceilDiv 64 q
  let n := kt + valTiles f d.dim
  Act.canWriteAll a.next n
  Act.zeroPointOk f a.next
  let store (j : Nat) (els : List Lane) (rot : Bool) (real : Nat → Bool) : Act Unit := do
    let va := tileAfter a.next j
    let first := a.elems + j * f.elems
    let es := (lanesOf f.block 128 els).map fun l => amaxOf (f == .int8) (l.map fun x => x.1.v)
    let sc : Scaling := { ents := fun k => es.getD k ⟨.zero false, .zero false⟩, gap := pr.gap,
                          zp := if f = .int8 then some d.zpkv else none, hdr := pr.spill, real := real }
    if f.scaled then Act.storeScaled f .fp32 va els d.grad rot first sc
    else
      let e ← get
      let g := d.grad || els.any (·.2)
      let cs := convAll e f .fp32 (fun _ => 127) none g first els
      Act.outputs (sc.live cs) (narrows .fp32 f && g)
      Act.write va (Tile.ofCodes f (codesOf f cs) [] [] (flagsByte false rot g) 0) 4096
  for j in List.range kt do
    store j ((List.range 64).flatMap fun t => (List.range q).map fun c =>
      if q * j + c < d.dim then key t (q * j + c) else Lane.zero) rotated fun p => q * j + p % q < d.dim
  for b in List.range (ceilDiv d.dim 64) do
    for k in List.range w do
      store (kt + b * w + k) ((List.range 64).flatMap fun r => (List.range q).map fun t =>
        if 64 * b + r < d.dim then val (q * k + t) (64 * b + r) else Lane.zero) false fun p => 64 * b + p / q < d.dim
  let a ← Act.setEntry a base (3 + a.count) (a.next + 64 * 2 ^ 48)
  Act.count 0x198 1
  return { a with next := tileAfter a.next n, left := a.left - 1, seals := a.seals + 1, elems := a.elems + n * f.elems, valid := 64,
                  tail := false }

/-- Seal the full tail: a BF16 cache takes a copy, another format is measured and applied (R170), which reads the tail's elements and
counts their input events (R71, R87). -/
def Act.sealTail (d : AttnDesc) (pr : AttnParam) (base addr : Nat) (a : Append) : Act Append := do
  let kt := keyTiles .bf16 d.dim
  let ks ← (List.range kt).mapM fun j => Act.tailTile a (tileAfter addr j)
  let vs ← (List.range (valTiles .bf16 d.dim)).mapM fun j => Act.tailTile a (tileAfter addr (kt + j))
  if d.fkv = .bf16 then
    Act.check (decide (0 < a.left)) .refusedFit (.index 0 (← get).dseq)
    Act.canWriteAll a.next (ks.length + vs.length)
    for (t, j) in (ks ++ vs).zipIdx do
      Act.write (tileAfter a.next j) ((t.setNum 4101 1 (flagsByte false t.rotated (d.grad || t.gradient))).measure .bf16 0) 4096
    let a ← Act.setEntry a base (3 + a.count) (a.next + 64 * 2 ^ 48)
    Act.count 0x198 1
    return { a with next := tileAfter a.next (ks.length + vs.length), left := a.left - 1, seals := a.seals + 1, valid := 64, tail := false }
  else
    let read (ts : List Tile) (j p : Nat) : Num × InEv := ((ts[j]?).getD []).value .bf16 0 p
    let el (ts : List Tile) (j p : Nat) : Lane := (FV.of (read ts j p).1, ((ts[j]?).getD []).gradient)
    let cells := (List.range 64).flatMap fun t => (List.range d.dim).map fun c => (t, c)
    Act.input (cells.map fun (t, c) => (read ks (c / 32) (t * 32 + c % 32)).2)
    Act.input (cells.map fun (t, c) => (read vs (c / 64 * 2 + t / 32) (c % 64 * 32 + t % 32)).2)
    Act.sealPage d pr base (fun t c => el ks (c / 32) (t * 32 + c % 32)) (fun t c => el vs (c / 64 * 2 + t / 32) (c % 64 * 32 + t % 32))
      (ks.any Tile.rotated) a

/-- The tokens from `i` on, in order (R170); `fuel` bounds their number. -/
def Act.appendFrom (d : AttnDesc) (pr : AttnParam) (src : Source) (tail : Nat) : Nat → Nat → Append → Act Append
  | 0, _, a => return a
  | k + 1, i, a => do
    if d.m ≤ i then return a
    else
      let last := a.count
      if a.tail && a.count != 0 && decide (a.valid < 64) then
        let t ← Act.appTile a (tileAfter d.list ((3 + last) / 512))
        let addr := t.num ((3 + last) % 512 * 8) 6
        let a ← Act.toTail d src addr a.valid i a
        let a := { a with valid := a.valid + 1 }
        let a ← Act.setEntry a d.list (3 + a.count) (addr + a.valid * 2 ^ 48 + 2 ^ 63)
        let a ← if a.valid = 64 then Act.sealTail d pr d.list addr a else pure a
        Act.appendFrom d pr src tail k (i + 1) a
      else
        Act.check (decide (a.count < 16384)) .refusedFit (.index 0 (← get).dseq)
        let a := { a with count := a.count + 1 }
        if decide (i + 64 ≤ d.m) && (last == 0 || a.valid == 64) then
          let a ← Act.sealPage d pr d.list (fun t c => src.key (i + t) c) (fun t c => src.val (i + t) c) d.rope a
          Act.appendFrom d pr src tail k (i + 64) a
        else
          let a ← Act.toTail d src tail 0 i a
          let a ← Act.setEntry a d.list (3 + a.count) (tail + 2 ^ 48 + 2 ^ 63)
          Act.appendFrom d pr src tail k (i + 1) { a with valid := 1, tail := true }

/-- KV_APPEND's computation. -/
def Act.kvAppend : Act Unit := do
  match AttnDesc.of (← get).desc with
  | none => Act.fail .refusedFormat (.index 0 (← get).dseq)
  | some d =>
    let pr ← Act.attnParam d.p
    let d := { d with grad := d.grad || pr.grad }
    if d.fkv.girder then Act.spillHeader pr.spill
    let per := ceilDiv d.dim d.fq.rowElems
    let km ← Act.mat d.fq d.q per d.m d.dim 0
    let vm ← Act.mat d.fq d.o per d.m d.dim 0
    let count ← Act.listCount d.list
    let tail ← Act.entry d.list 1
    let seal_ ← Act.entry d.list 2
    let left ← Act.entry d.list 3
    Act.check (decide (tail < 2 ^ 48) && decide (seal_ < 2 ^ 48) && decide (left < 2 ^ 16)) .refusedFormat (.addr d.list)
    let last ← if count = 0 then pure 0 else Act.entry d.list (3 + count)
    let valid := bits last 54 48
    Act.check (count == 0 || (bits last 62 55 == 0 && decide (1 ≤ valid) && decide (valid ≤ 64))) .refusedFormat (.addr d.list)
    let t0 := if count = 0 then 0 else 64 * (count - 1) + valid
    let read (m : Mat) (i c : Nat) : Lane :=
      (FV.of (m.el i c).val, (((m.views (i / 64))[c / d.fq.rowElems]?).map View.grad).getD false)
    let key : Nat → Nat → Lane ←
      if d.rope then do
        Act.check (pr.rot != 0) .refusedFormat (.addr d.p)
        let r ← Act.rotary pr.rot 0
        Act.check (r.hdim == d.dim) .refusedFormat (.addr pr.rot)
        Act.check (decide (t0 + d.m - 1 + r.offset < 2 ^ 24)) .refusedFormat (.addr pr.rot)
        let arr := ((List.range d.m).map fun i => ((List.range d.dim).map fun c =>
          r.at_ (t0 + i, false) (fun t => some (read km i t)) (.zero false) c).toArray).toArray
        pure fun i c => ((arr[i]?).bind fun r => r[c]?).getD Lane.zero
      else pure (read km)
    let src : Source := { key := key, val := read vm }
    let a ← Act.appendFrom d pr src tail d.m 0
      { count := count, valid := valid, tail := bit last 63, next := seal_, left := left, tiles := [], seals := 0 }
    let a ← Act.setEntry a d.list 0 a.count
    let a ← Act.setEntry a d.list 2 a.next
    let a ← Act.setEntry a d.list 3 a.left
    for (va, t) in a.tiles do
      Act.write va (t.measure (if t.format = 3 then .bf16 else .fp32) 0) 4096
    Act.beats 0x32 d.m a.seals

/-- KV_APPEND (R170). -/
def execKvAppend (at_ : CtxRef) (s : State) : Host.Outcome State Fault Refusal :=
  s.act fun w => w.issue at_ [0x32] .vector Act.kvAppend

end Sys2Proof.Machine
end

