-- ==== Sys2Proof/Machine/Operands.lean ====
section
/-! DEFINITION. Program images and the static checks of their descriptors (R29, R233 to R235, R435, R436, R438; R95, R104, R111,
R112, R116, R117, R137 to R149, R156, R157, R182, R316). -/

namespace Sys2Proof.Machine

open Sys2Proof

/-! ### Tile ranges -/

/-- A run of tiles: first number, how many. -/
abbrev Run' := Nat × Nat

/-- Do two lists of runs meet? -/
def runsMeet (a b : List Run') : Bool := a.any fun x => b.any fun y => decide (x.1 < y.1 + y.2) && decide (y.1 < x.1 + x.2)

/-- Tiles of runs. -/
def runTiles (l : List Run') : List Nat := l.flatMap fun (i, n) => (List.range n).map fun k => tileOfNo (i + k)

/-- Runs of an operand in the layout of R114. -/
def matRuns (f : Fmt) (base stride rows cols : Nat) : List Run' :=
  (List.range (ceilDiv rows 64)).map fun b => (tileNo base + b * stride, ceilDiv cols f.rowElems)

/-- Run of a stream of `n` elements. -/
def streamRun (f : Fmt) (base n : Nat) : List Run' := [(tileNo base, ceilDiv n f.elems)]

/-- Runs that a descriptor reads and writes, as far as its own fields give them. `vlen` is the context's VLEN. -/
def descRuns (d : List Byte) (vlen : Nat) : List Run' × List Run' :=
  match rd d 0 1 with
  | 0x10 | 0x11 =>
    match MatDesc.of d with
    | none => ([], [])
    | some m =>
      let c := matRuns m.fc m.addrC m.strideC m.m m.n
      (matRuns m.fa m.addrA m.strideA m.m m.k ++ matRuns m.fw m.addrW m.strideW m.n m.k
         ++ (if m.segs = 0 then [] else [(tileNo m.addrSeg, ceilDiv m.segs 256)]),
       c ++ (if m.addrDefer = 0 then [] else [(tileNo m.addrDefer, 1)]))
  | 0x20 | 0x22 =>
    let v := VecDesc.of d
    let upd := rd d 0 1 == 0x22
    let inp (f : Option Fmt) (a k : Nat) : List Run' := match f with
      | none => []
      | some f => streamRun f a (if upd then vlen else bcastLen (v.bcast / 4 ^ k % 4) vlen v.rowLen)
    let st : List Run' := match v.fz with
      | some f => if upd then streamRun f v.z ((if v.arith % 4 = 3 then 2 else 1) * vlen) else inp v.fz v.z 2
      | none => []
    let out : List Run' := match v.fo with
      | none => []
      | some f =>
        if v.o = 0 || (bit v.stages 4 && v.noStore) then []
        else if v.mode = 1 then (match Fmt.ofCode v.zpoRaw with | some g => streamRun g v.o vlen | none => [])
        else streamRun f v.o vlen
    let red : List Run' :=
      if upd then []
      else if bit v.stages 4 then streamRun (if v.fp64 then .fp64 else .fp32) v.r (ceilDiv vlen v.rowLen * (if v.reduce = 5 then 2 else 1))
      else if v.mode = 1 then (match v.fo with | some f => [(tileNo v.r, ceilDiv (ceilDiv vlen f.elems) 4)] | none => [])
      else []
    (inp v.fx v.x 0 ++ inp v.fy v.y 1 ++ st ++ (if upd then [(tileNo v.p, 1), (tileNo v.r, 1)] else []), out ++ red)
  | 0x21 => ([(tileNo (rd d 46 6), 1)], [])
  | 0x30 | 0x31 | 0x32 =>
    match AttnDesc.of d with
    | none => ([], [])
    | some a =>
      let q := matRuns a.fq a.q (ceilDiv a.dim a.fq.rowElems) (a.heads * a.m) a.dim
      let p := [(tileNo a.p, 1), (tileNo a.list, 1)]
      let stats : List Run' := streamRun .fp32 a.stats (2 * a.heads * a.m)
      let o (f : Fmt) := matRuns f a.o (ceilDiv a.dim f.rowElems) (a.heads * a.m) a.dim
      match rd d 0 1 with
      | 0x30 => (q ++ p, o (a.fo.getD .fp32) ++ stats)
      | 0x31 => (q ++ p ++ o (a.fo.getD .fp32) ++ stats, [])
      | _ => (q ++ p ++ o a.fq, [])
  | 0x40 | 0x41 =>
    let n := rd d 40 4
    ([(tileNo (rd d 16 6), ceilDiv n 512)]
       ++ (if bit (rd d 1 1) 5 then [(tileNo (rd d 22 6), ceilDiv (rd d 44 4 + 1) 1024)] else [])
       ++ (if bit (rd d 1 1) 6 then [(tileNo (rd d 28 6), ceilDiv n 1024)] else []), [(tileNo (rd d 34 6), 1)])
  | 0x50 | 0x51 => ([], [(tileNo (rd d 16 6), rd d 28 4)])
  | _ => ([(tileNo (rd d 22 6), ceilDiv (rd d 32 2) 2048)], [(tileNo (rd d 16 6), rd d 28 4)])

/-! ### Static checks: fields (check 1 of R29) -/

/-- All bits of a mask clear in a field. -/
def clearBits (d : List Byte) (o n mask : Nat) : Bool := rd d o n &&& mask == 0
/-- A field is 0. -/
def zeroAt (d : List Byte) (o n : Nat) : Bool := rd d o n == 0
/-- A field holds a tile address. -/
def tileAtField (d : List Byte) (o : Nat) : Bool := isTileAddr (rd d o 6)
/-- A code of R65, or 0. -/
def codeOr0 (c : Nat) : Bool := decide (c ≤ 11)

/-- Sources an FMA configuration uses: 0 X, 1 Y, 2 Z, 3 P. DESIGN CHOICE (log entry 116): the reserved code 7 in a field that OP does not
use, on which R142 is silent, is accepted. -/
def fmaUses (cfg : Nat) : List Nat :=
  let s (o : Nat) := cfg / 2 ^ o % 8
  match cfg % 16 with
  | 0 | 4 => [s 4]
  | 2 | 3 => [s 4, s 7]
  | _ => [s 4, s 7, s 10]

/-- Input streams that a VECTOR descriptor uses. -/
def VecDesc.uses (v : VecDesc) : List Nat :=
  let u1 := if bit v.stages 1 then fmaUses (v.arith % 8192) else []
  let u2 := if bit v.stages 2 then fmaUses (v.arith / 8192 % 8192) else []
  let px1 := if bit v.stages 1 then u1 else [0]
  -- P is X for FMA1 and FMA1's result for FMA2
  let base := (if bit v.stages 2 && !u2.contains 3 then [] else px1) ++ u2.filter fun s => s != 3
  (base.map fun s => if s = 3 then 0 else s).filter fun s => decide (s ≤ 2)

/-- Fields of a VECTOR descriptor. -/
def vectorFields (d : List Byte) : Bool :=
  let v := VecDesc.of d
  let on (f : Option Fmt) (o : Nat) : Bool := f.isNone || tileAtField d o
  clearBits d 1 1 1 && (List.range 4).all (fun i => codeOr0 (rd d (2 + i) 1)) && clearBits d 9 1 0x80 && clearBits d 54 1 0xC0
    && clearBits d 55 1 0xF0 && clearBits d 56 1 0xF0 && clearBits d 57 1 0xC0 && clearBits d 60 4 0xFC000000
    && on v.fx 16 && on v.fy 22 && on v.fz 28
    && (v.fo.isNone || (v.mode == 1 && v.o == 0) || (bit v.stages 4 && v.noStore) || tileAtField d 34)
    && (!(bit v.stages 4 || v.mode == 1 || v.mode == 2) || tileAtField d 40)
    && (!bit v.stages 5 || tileAtField d 46)

/-- Fields of a GATHER_GEMV descriptor (R150). X is in no INT8 format, so a zero point on it is refused (R95). DESIGN CHOICE (log
entry 108): FP64 in FLAGS and bytes 58 and 59, for which the rule names no value, are not looked at. -/
def gemvFields (d : List Byte) : Bool :=
  clearBits d 1 1 0x21 && [5, 6, 3].contains (rd d 2 1) && zeroAt d 3 2 && decide (1 ≤ rd d 5 1) && decide (rd d 5 1 ≤ 4)
    && zeroAt d 9 1 && zeroAt d 26 8 && zeroAt d 40 6 && zeroAt d 54 4 && tileAtField d 16 && tileAtField d 34 && tileAtField d 46

/-- Fields of an UPDATE descriptor (R104, R151). DESIGN CHOICE: R151 is silent on FP64 in FLAGS (log entry 134) and on FMT_Z for an optimiser
without state (log entry 135); a descriptor with either set is refused here. -/
def updateFields (d : List Byte) : Bool :=
  let v := VecDesc.of d
  clearBits d 1 1 0x41 && v.fx.isSome && codeOr0 (rd d 5 1) && zeroAt d 9 1 && zeroAt d 54 4 && clearBits d 60 4 0xFFFFFFFC
    && v.fy == some .fp32 && (if v.arith % 4 = 0 then rd d 4 1 == 0 else v.fz == some .fp32)
    && (rd d 5 1 == 0 || (decide (2 ≤ rd d 5 1) && decide (rd d 5 1 ≤ 4)))
    && tileAtField d 16 && tileAtField d 22 && (v.fz.isNone || tileAtField d 28) && (v.o == 0 || tileAtField d 34)
    && tileAtField d 40 && tileAtField d 46

/-- Fields of a matrix descriptor (R116). -/
def matrixFields (d : List Byte) : Bool :=
  let ad := rd d 0 1 == 0x11
  clearBits d 1 1 0x80 && (MatDesc.of d).isSome && decide (1 ≤ rd d 4 1) && decide (rd d 4 1 ≤ 4) && zeroAt d 46 2
    && tileAtField d 16 && tileAtField d 24 && tileAtField d 32
    && (if ad then rd d 14 2 != 0 && tileAtField d 52 && (zeroAt d 58 6 || tileAtField d 58) else zeroAt d 14 2 && zeroAt d 52 12)

/-- Fields of an attention descriptor (R156, R157). DESIGN CHOICE: R157 does not list WINDOW (log entry 138) nor PAGE_COUNT (log entry 139)
among the values that are refused. A WINDOW out of the range of R156 is refused only where MASK names it, a PAGE_COUNT out of its range
only for ATTN_FWD and ATTN_BWD. -/
def attnFields (d : List Byte) : Bool :=
  let k := rd d 0 1
  let app := k == 0x32
  match AttnDesc.of d with
  | none => false
  | some a =>
    clearBits d 1 1 0x80 && clearBits d 9 1 0xF8 && zeroAt d 60 4 && a.pfmt != 3
      && (if app then [2, 3, 4] else [3, 4, 5, 6, 7]).contains (rd d 2 1) && [3, 5, 6, 7, 10].contains (rd d 3 1)
      && (if app then zeroAt d 4 1 && zeroAt d 34 6 && a.heads == 1 else [2, 3, 4].contains (rd d 4 1) && tileAtField d 34)
      && decide (a.heads * a.m ≤ 65536) && tileAtField d 16 && tileAtField d 22 && tileAtField d 28
      && tileAtField d 40
      && (app || (decide (1 ≤ a.count) && decide (a.count ≤ 16384)))
      && (!bit a.mask 2 || (decide (1 ≤ a.window) && decide (a.window ≤ 1048576)))

/-- Fields of an embedding descriptor (R182). -/
def embFields (d : List Byte) : Bool :=
  let pool := bit (rd d 1 1) 5
  clearBits d 1 1 0x83 && zeroAt d 3 1 && zeroAt d 9 1 && zeroAt d 14 2 && zeroAt d 48 16
    && (if rd d 0 1 = 0x40 then [2, 3, 4] else [2, 3, 4, 5, 6]).contains (rd d 2 1)
    && tileAtField d 16 && (!pool || tileAtField d 22) && (!bit (rd d 1 1) 6 || tileAtField d 28) && tileAtField d 34
    && decide (1 ≤ rd d 40 4) && decide (rd d 40 4 ≤ 4194304)
    && (if pool then decide (1 ≤ rd d 44 4) && decide (rd d 44 4 ≤ 1048576) else zeroAt d 44 4)

/-- Fields of a Viaduct descriptor (R316, R318). -/
def vdtFields (d : List Byte) : Bool :=
  let coll := decide (0x52 ≤ rd d 0 1)
  clearBits d 1 1 0xA1 && zeroAt d 3 1 && zeroAt d 34 30 && tileAtField d 16 && tileAtField d 22 && decide (rd d 9 1 < 64)
    && decide (1 ≤ rd d 28 4)
    && (if coll then [2, 3].contains (rd d 2 1) && decide (2 ≤ rd d 32 2) && decide (rd d 32 2 ≤ 16384) && rd d 28 4 % rd d 32 2 == 0
        else zeroAt d 2 1 && decide (rd d 4 2 < 16384))

/-! ### Static checks: pairs and stages (check 2 of R29) -/

/-- Is a zero point in range (R95)? -/
def zpOk (z : Int) : Bool := decide (-127 ≤ z) && decide (z ≤ 126)

/-- The pairs of R111 and R112. -/
def pairOk (a f : Fmt) (zpa zpw : Bool) : Bool :=
  let base :=
    match a, f with
    | .e4m3, .e4m3 | .e4m3, .e5m2 | .e4m3, .e2m1 | .e5m2, .e4m3 | .e5m2, .e5m2 | .e5m2, .e2m1 => true
    | .int8, .int8 | .int8, .int4 | .e4m3, .girder8 | .e4m3, .girder4 | .int8, .girder8 | .int8, .girder4 => true
    | .bf16, .bf16 | .fp16, .fp16 | .fp32, .fp32 | .fp64, .fp64 => true
    | .bf16, .e4m3 | .bf16, .e5m2 | .bf16, .girder8 | .bf16, .girder4 | .bf16, .int8 => true
    | .e4m3, .bf16 | .int8, .bf16 => true
    | .fp16, .int8 => zpw
    | _, _ => false
  base && (!zpa || a == .int8) && (!zpw || (f == .int8 && (a == .fp16 || a == .bf16 || a == .int8)))

/-- A matrix descriptor's pair, zero points and overlaps (R95, R111, R112, R117, R127). -/
def W.matrixOk (w : W) (n : Nat) (d : List Byte) : Bool :=
  match MatDesc.of d with
  | none => false
  | some m =>
    let c := matRuns m.fc m.addrC m.strideC m.m m.n
    let seg : List Run' := if m.segs = 0 then [] else [(tileNo m.addrSeg, ceilDiv m.segs 256)]
    pairOk m.fa m.fw m.zpaEn m.zpwEn && (m.fc != .fp64 || m.fa == .fp64) && (!m.zpaEn || (zpOk m.zpa && !w.onDeck n m.addrA)) && (!m.zpwEn || (zpOk m.zpw && !w.onDeck n m.addrW))
      && !runsMeet c (matRuns m.fa m.addrA m.strideA m.m m.k) && !runsMeet c (matRuns m.fw m.addrW m.strideW m.n m.k) && !runsMeet c seg
      && (m.addrDefer == 0 || !runsMeet [(tileNo m.addrDefer, 1)] seg)
      && (rd d 0 1 != 0x11 || m.fa == .e4m3 || m.fa == .e5m2 || m.fa == .bf16)

/-- A VECTOR descriptor's stages, formats, lengths and overlaps (R137 to R149). DESIGN CHOICE (log entry 118): rotary with an APPLY into
a Girder format, of which R146 does not speak, is accepted, with ADDR_P for the rotary record and the spill header. -/
def W.vectorOk (w : W) (n : Nat) (d : List Byte) (vlen : Nat) : Bool :=
  let v := VecDesc.of d
  let f (k : Nat) : Option Fmt := [v.fx, v.fy, v.fz].getD k none
  let base (k : Nat) : Nat := [v.x, v.y, v.z].getD k 0
  let mode (k : Nat) : Nat := v.bcast / 4 ^ k % 4
  let cfgOk (cfg : Nat) : Bool := decide (cfg % 16 ≤ 5) && !(fmaUses cfg).contains 7
  let stored := !(bit v.stages 4 && v.noStore)
  let out : List Run' := match v.fo with
    | none => []
    | some g =>
      if !stored then []
      else if v.mode = 1 then
        (match Fmt.ofCode v.zpoRaw with | some h => if v.o = 0 then [] else streamRun h v.o vlen | none => [])
      else streamRun g v.o vlen
  let outFmt : Option Fmt := if v.mode = 1 then Fmt.ofCode v.zpoRaw else v.fo
  let red : List Run' :=
    if bit v.stages 4 then streamRun (if v.fp64 then .fp64 else .fp32) v.r (ceilDiv vlen v.rowLen * (if v.reduce = 5 then 2 else 1))
    else if v.mode = 1 then (match v.fo with | some g => [(tileNo v.r, ceilDiv (ceilDiv vlen g.elems) 4)] | none => [])
    else []
  let recs : List Run' := if v.mode = 2 then (match v.fo with | some g => [(tileNo v.r, ceilDiv (ceilDiv vlen g.elems) 4)] | none => []) else []
  let same (k : Nat) (g : Fmt) : Bool := mode k == 0 && base k == v.o && outFmt == some g && !g.scaled && !out.isEmpty
  let shared := (List.range 3).filter fun k => ((f k).map (same k)).getD false
  let inOk (k : Nat) : Bool :=
    match f k with
    | none => true
    | some g =>
      let r := streamRun g (base k) (bcastLen (mode k) vlen v.rowLen)
      (same k g || !runsMeet out r) && !runsMeet red r && !runsMeet recs r
  v.uses.all (fun k => (f k).isSome) && (bit v.stages 0 || v.bcast == 0)
    && (!bit v.stages 1 || cfgOk (v.arith % 8192)) && (!bit v.stages 2 || cfgOk (v.arith / 8192 % 8192))
    && (!bit v.stages 3 || (decide (1 ≤ v.trans) && decide (v.trans ≤ 10)))
    && (!bit v.stages 4 || (decide (v.reduce ≤ 5) && v.mode != 1 && v.mode != 2))
    && (!v.fp64 || (!bit v.stages 3 && !bit v.stages 5))
    && (match v.mode with
        | 0 => decide (rd d 5 1 ≤ 4)
        | 1 => decide (5 ≤ rd d 5 1) && (v.o == 0 || (decide (1 ≤ v.zpoRaw) && decide (v.zpoRaw ≤ 4)))
        | 2 => decide (5 ≤ rd d 5 1)
        | _ => false)
    && (match v.fo with
        | some g => !g.scaled || (vlen % g.block == 0 && (!g.girder || vlen % g.elems == 0))
        | none => true)
    && (!v.zpxEn || (v.fx == some .int8 && zpOk v.zpx && !w.onDeck n v.x))
    && (!v.zpoEn || v.fo.isNone || (v.fo == some .int8 && (v.mode == 1 || (zpOk (signed 8 v.zpoRaw) && !w.onDeck n v.o))))
    && (!(v.mode == 2 && (v.fo.map Fmt.girder).getD false) || (v.p != 0 && isTileAddr v.p && v.p % pageBytes == 0))
    && (List.range 3).all inOk && decide (shared.length ≤ 1) && !runsMeet out red && !runsMeet out recs

/-- An UPDATE descriptor's streams: O may coincide exactly with X, else neither O nor ADDR_R's tile overlaps an input, nor do the master
and the state, which are written in place (R147, R151). DESIGN CHOICE (log entry 136): an overlap of X, Y and Z with each other, on
which the rules are silent, is refused. -/
def W.updateOk (w : W) (n : Nat) (d : List Byte) (vlen : Nat) : Bool :=
  let v := VecDesc.of d
  let x := match v.fx with | some f => streamRun f v.x vlen | none => []
  let y := streamRun .fp32 v.y vlen
  let z := if v.fz.isNone then [] else streamRun .fp32 v.z ((if v.arith % 4 = 3 then 2 else 1) * vlen)
  let o := match v.fo with | some f => if v.o = 0 then [] else streamRun f v.o vlen | none => []
  let p : List Run' := [(tileNo v.p, 1)]
  let r : List Run' := [(tileNo v.r, 1)]
  let same := v.o == v.x && v.fo == v.fx && !((v.fx.map Fmt.scaled).getD false)
  (!v.zpxEn || (v.fx == some .int8 && zpOk v.zpx && !w.onDeck n v.x))
    && !runsMeet x y && !runsMeet x z && (same || !runsMeet x o) && !runsMeet y z && !runsMeet y o && !runsMeet z o
    && !runsMeet p (y ++ z ++ o) && !runsMeet r (x ++ y ++ z ++ o)

/-- A GATHER_GEMV descriptor's output overlaps neither X nor the deferral list (R147). The rows stand in its ADAPTER descriptor, whose own
check covers them all (R117, R150); here the first row block is compared. -/
def gemvOk (d : List Byte) (vlen rowLen : Nat) : Bool :=
  match Fmt.ofCode (rd d 2 1), Fmt.ofCode (rd d 5 1) with
  | some fx, some fo =>
    !runsMeet (matRuns fo (rd d 34 6) (rd d 24 2) 64 vlen) (matRuns fx (rd d 16 6) (rd d 22 2) 64 rowLen ++ [(tileNo (rd d 46 6), 1)])
  | _, _ => false

/-- An attention descriptor's zero points (R95). -/
def W.attnOk (w : W) (n : Nat) (d : List Byte) : Bool :=
  match AttnDesc.of d with
  | none => false
  | some a =>
    (!a.zpqEn || (a.fq == .int8 && zpOk a.zpq && !w.onDeck n a.q)) && (a.fkv != .int8 || zpOk a.zpkv)

/-- A descriptor of a program of a kind passes checks 1 and 2; `vlen` is the VLEN in force when it issues, none where no
VL_LOAD came before (R138). -/
def W.descOk (w : W) (n : Nat) (kind : StepKind) (d : List Byte) (vlen : Option Nat) : Bool :=
  match rd d 0 1 with
  | 0x10 | 0x11 => matrixFields d && w.matrixOk n d
  | 0x20 => vectorFields d && (match vlen with | some v => w.vectorOk n d v | none => false)
  | 0x21 => vlen.isSome && gemvFields d && gemvOk d (rd d 14 2 + 1) (rd d 52 2 + 1)
  | 0x22 => !(kind == .serve || kind == .fwd || kind == .eval) && updateFields d
              && (match vlen with | some v => w.updateOk n d v | none => false)
  | 0x30 | 0x31 | 0x32 => attnFields d && w.attnOk n d
  | 0x40 => embFields d
  | 0x41 => !(kind == .serve || kind == .eval) && embFields d
  | 0x50 | 0x51 | 0x52 | 0x53 => vdtFields d
  | _ => false

/-- The descriptors of a stream with the VLEN in force for each (R138). -/
def withVlen : Option Nat → List (List Byte) → List (List Byte × Option Nat)
  | _, [] => []
  | v, d :: l =>
    let vec := rd d 0 1 == 0x20 || rd d 0 1 == 0x22
    let v := if vec && bit (rd d 1 1) 7 then some (rd d 14 2 + 1) else v
    (d, v) :: withVlen v l

/-- Tokens that a descriptor names. -/
def tokensOf (d : List Byte) : List Nat := (sigOf d).toList ++ (waitsOf d).map (·.1)

/-- Are the waits of a task reachable (R436)? -/
def TaskDef.reachable (t : TaskDef) : Bool :=
  t.streams.zipIdx.all fun (s, c) => s.zipIdx.all fun (d, i) => (waitsOf d).all fun (k, thr) =>
    let n := (t.streams.zipIdx.map fun (s', c') =>
      ((if c' = c then s'.take i else s').filter fun d' => sigOf d' == some k).length).sum
    decide (thr ≤ n)

/-! ### Schedules (R438) -/

/-- A prefetch schedule at an offset, `len` bytes at most; `exact` asks that it fill them. None where it breaks R438 for a
program with `tasks` tasks and these LAYER0s. -/
def parseSched (bs : List Byte) (off len tasks : Nat) (layer0s : List Nat) (exact : Bool) : Option (List (List SchedRange)) :=
  let layers := rd bs off 4
  let ranges := rd bs (off + 4) 4
  let size := 16 + 8 * layers + 16 * ranges
  if len < 16 || layers = 0 || 65536 < layers || len < size || (exact && size != len) || rd bs (off + 8) 8 ≠ 0 then none
  else
    let ls := (List.range layers).map fun i => (rd bs (off + 16 + 8 * i) 4, rd bs (off + 20 + 8 * i) 4)
    let at_ (i : Nat) : Nat := off + 16 + 8 * layers + 16 * i
    let rs := (List.range ranges).map fun i =>
      ({ addr := rd bs (at_ i) 6, task := rd bs (at_ i + 6) 2, tiles := rd bs (at_ i + 8) 4 : SchedRange }, rd bs (at_ i + 12) 4)
    let starts := ls.foldl (fun (acc : Option Nat) l => acc.bind fun k => if l.1 = k then some (k + l.2) else none) (some 0)
    if starts == some ranges && rs.all (fun (r, z) => z == 0 && decide (r.task < tasks) && isTileAddr r.addr && r.tiles != 0)
        && layer0s.all fun l => decide (l < layers) then
      some (ls.map fun (f, c) => ((rs.drop f).take c).map (·.1))
    else none

/-! ### Images (R233, R435) -/

/-- A program from its image: the fields that check 1 needs are in range, every structure lies within IMAGE_BYTES. Values above
the ranges of R435's second part are kept, for the checks that follow. -/
def parseProgram (n h : Nat) (bs : List Byte) : Option Program :=
  let len := rd bs 32 4
  let tasks := rd bs 6 2
  let offT := rd bs 36 4
  let offP := rd bs 40 4
  let offE := rd bs 44 4
  let tabs := rd bs 30 2
  match StepKind.ofCode (rd bs 4 1) with
  | none => none
  | some kind =>
    if rd bs 0 4 ≠ 0x32504E42 || kind == .secure || 1 < rd bs 5 1 || tasks = 0 || 4096 < tasks || rd bs 8 2 = 0 || 8 < rd bs 14 1
        || 64 < rd bs 15 1 || rd bs 16 4 = 0 || rd bs 20 4 = 0 || rd bs 24 2 = 0 || (rd bs 26 2 != 0 && !(kind == .update))
        || 15 < rd bs 28 1 || 1024 < tabs || rd bs 48 8 ≠ 0 || rd bs 56 8 ≠ 0
        || len < offT + 16 * tasks || len < offE + 2 * tabs || len < offP then none
    else
      let ents := (List.range tasks).map fun i => (bs.drop (offT + 16 * i)).take 16
      let streamsOf (e : List Byte) : List (Nat × Nat) := (List.range (rd e 0 1)).map fun c =>
        (rd bs (rd e 4 4 + 8 * c) 4, rd bs (rd e 4 4 + 8 * c + 4) 4)
      if ents.any fun e => rd e 0 1 == 0 || rd e 1 1 != 0 || rd e 2 2 == 0 || rd e 12 4 != 0 || decide (len < rd e 4 4 + 8 * rd e 0 1)
          || (streamsOf e).any fun (o, c) => decide (len < o + 64 * c) then none
      else
        match parseSched bs offP (len - offP) tasks (ents.map fun e => rd e 8 4) false with
        | none => none
        | some sched =>
          some
            { span := n, handle := h, image := bs, kind := kind, pipelined := bit (rd bs 5 1) 0, minCores := rd bs 8 2, slots := rd bs 10 2,
              deckMask := rd bs 12 2, pfDepth := rd bs 14 1, warmup := rd bs 15 1, maxSeq := rd bs 16 4, maxRows := rd bs 20 4,
              maxBag := rd bs 24 2, evalEvery := rd bs 26 2, evalRing := rd bs 28 1, piers := rd bs 29 1,
              tables := (List.range tabs).map fun i => rd bs (offE + 2 * i) 2,
              tasks := ents.map fun e =>
                { contexts := rd e 0 1, tokens := rd e 2 2, layer0 := rd e 8 4,
                  streams := (streamsOf e).map fun (o, c) => (List.range c).map fun i => (bs.drop (o + 64 * i)).take 64 },
              sched := sched, unload := [] }

/-- All descriptors of a program with the VLEN in force. -/
def Program.descs (p : Program) : List (List Byte × Option Nat) := p.tasks.flatMap fun t => t.streams.flatMap (withVlen none)

/-- Bytes of the schedule of a program image. -/
def schedBytes (bs : List Byte) : Nat := let o := rd bs 40 4; 16 + 8 * rd bs o 4 + 16 * rd bs (o + 4) 4

/-- Tables that a program's descriptors and its header name. -/
def Program.tablesNamed (p : Program) : List Nat :=
  (p.tables ++ p.descs.filterMap fun (d, _) => if rd d 0 1 = 0x40 ∨ rd d 0 1 = 0x41 then some (rd d 4 2) else none).dedup

/-- Key slots that a program names. -/
def Program.keysNamed (p : Program) : List Nat :=
  (p.descs.filterMap fun (d, _) => if 0x50 ≤ rd d 0 1 && bit (rd d 1 1) 6 then some (rd d 14 2) else none).dedup

/-- Is every operand tile of a program resident in some core of the span (check 8)? -/
def W.allResident (w : W) (n : Nat) (p : Program) : Bool :=
  p.descs.all fun (d, v) =>
    let (r, q) := descRuns d (v.getD 1)
    (runTiles (r ++ q)).all fun va => (w.coresOf n).any fun l => (w.core' l).tiles.any fun e => e.addr == va && e.state != .fetching

/-- The load-time checks of R29, in order; the status of the first that fails. An image names no adapter, so check 4 finds nothing
that could fail it: ranks are held to their limits at ADAPTER_LOAD (R222), counts as segment tables are read (R129) (log entry 110). -/
def W.loadFault (w : W) (n : Nat) (bs : List Byte) (length : Nat) : Option Program → Option Status
  | none => some .refusedFormat
  | some p =>
    if rd bs 32 4 ≠ length then some .refusedFormat
    else if !(p.descs.all fun (d, v) => w.descOk n p.kind d v) then some .refusedFormat
    else if !(p.tablesNamed.all fun i => decide (i < 1024) && (w.table n i).isSome) || !(p.keysNamed.all fun k => w.holdsKey n k) then
      some .refusedPermission
    else if p.tasks.any (fun t => decide (32 < t.contexts) || decide (256 < t.tokens)
        || t.streams.any fun s => s.any fun d => (tokensOf d).any fun k => decide (t.tokens ≤ k)) || 64 < p.piers
        || !(p.tasks.all TaskDef.reachable) then some .refusedFit
    else if (w.coresOf n).length < p.minCores || 128 < p.minCores || 2880 < p.slots || (w.sp n).spadSlots < p.slots then some .refusedFit
    else if 1048576 < p.maxSeq || 65536 < p.maxRows || 2 ^ 26 < length || 2 ^ 24 < schedBytes bs then some .refusedFit
    else if w.pwr.trestle && !w.allResident n p then some .trestleLimit
    else if 256 ≤ (w.step.programs.filter fun q => q.span == n).length then some .refusedFit
    else none

end Sys2Proof.Machine
end

