-- ==== Sys2Proof/Machine/Programs.lean ====
section
/-! DEFINITION. PROGRAM_LOAD, PROGRAM_UNLOAD and PREFETCH_PLAN (R29, R234, R266, R438). -/

namespace Sys2Proof.Machine

open Sys2Proof

/-- The lowest program handle that a span does not use (R234). -/
def W.freeHandle (w : W) (n : Nat) : Nat := ((List.range 256).find? fun h => (w.program n h).isNone).getD 0

/-- PROGRAM_LOAD (R29, R234): the checks in order, then the program is loaded under its handle. -/
def execProgramLoad (p : Pkt) (s : State) : Host.Outcome State Fault Refusal :=
  s.act fun w => w.intake opProgramLoad p fun c w =>
    let length := p.arg 24 4
    let bs := padTo length p.block
    let prog := parseProgram c.fn (w.freeHandle c.fn) bs
    match w.loadFault c.fn bs length prog, prog with
    | some st, _ => w.answer c st
    | none, none => w.answer c .refusedFormat
    | none, some q => { w with step.programs := w.step.programs ++ [q] }.answer c .ok (.count q.handle)

/-- PROGRAM_UNLOAD (R234, R266): replies once no admitted step runs the program. -/
def execProgramUnload (p : Pkt) (s : State) : Host.Outcome State Fault Refusal :=
  s.act fun w => w.intake opProgramUnload p fun c w =>
    let h := p.arg 12 1
    if (w.program c.fn h).isNone then w.answer c .refusedFormat
    else
      let w := w.beginHeld c
      let ps := w.step.programs.map fun (q : Program) =>
        if q.span = c.fn ∧ q.handle = h then { q with unload := q.unload ++ [c.id] } else q
      { w with step.programs := ps }.settlePrograms

/-- PREFETCH_PLAN (R438). -/
def execPrefetchPlan (p : Pkt) (s : State) : Host.Outcome State Fault Refusal :=
  s.act fun w => w.intake opPrefetchPlan p fun c w =>
    let length := p.arg 24 4
    let h := p.arg 12 1
    if 2 ^ 24 < length then w.answer c .refusedFit
    else
      match w.program c.fn h with
      | none => w.answer c .refusedFormat
      | some q =>
        match parseSched (padTo length p.block) 0 length q.tasks.length (q.tasks.map (·.layer0)) true with
        | none => w.answer c .refusedFormat
        | some sc =>
          let ps := w.step.programs.map fun (x : Program) => if x.span = c.fn ∧ x.handle = h then { x with sched := sc } else x
          { w with step.programs := ps }.answer c .ok

end Sys2Proof.Machine
end

