-- ==== Sys2Proof/Machine/Steps.lean ====
section
/-! DEFINITION. Steps up to their compute phase: submission, cancelling, admission with its bindings, tickets and chunks,
placement, run-ahead (R18, R23, R31, R101, R187, R212 to R216, R226, R235 to R248, R267, R352, R434, R439). -/

namespace Sys2Proof.Machine

open Sys2Proof

/-! ### STEP_SUBMIT and STEP_CANCEL -/

/-- A step just read (R23, R267). -/
def Step.ofPkt (p : Pkt) (c : Cmd) : Step :=
  { id := c.id, cmd := c.id, span := c.fn, ring := c.ring, seq := c.seq, handle := p.arg 12 1, seedValid := bit (p.arg 13 1) 0,
    seedIn := BitVec.ofNat 64 (p.arg 16 8), nreq := p.arg 14 2, addrReq := p.arg 24 6, addrTok := p.arg 30 6,
    addrArg := p.arg 36 6, nadp := p.arg 42 2, addrAdp := p.arg 44 6, phase := .read, seed := 0#64, counts := {}, binds := [],
    adapters := [], requests := [], taken := [], tickets := [], tasks := [], written := [], genChanged := false, lr := [],
    adpThresh := 0, aborting := none, failed := none, stagedBinds := [], stagedTiles := [], sched := [], putsOpen := 0,
    accepts := [], reloads := [], adpUsed := [] }

/-- STEP_SUBMIT (R267): read and kept; its parameters are checked at admission. During a firmware activation such packets wait
in their rings (R393). -/
def execStepSubmit (p : Pkt) (s : State) : Host.Outcome State Fault Refusal :=
  s.act fun w => w.if (!w.activating) fun w =>
    w.intake opStepSubmit p fun c w =>
      { w with step.steps := w.step.steps ++ [Step.ofPkt p c] }.begin c

/-- STEP_CANCEL (R439). -/
def execStepCancel (p : Pkt) (s : State) : Host.Outcome State Fault Refusal :=
  s.act fun w => w.intake opStepCancel p fun c w =>
    let r := p.arg 12 1
    if 15 < r then w.answer c .refusedFormat
    else
      match (w.ringSteps c.fn r).find? fun x => x.seq == p.arg 16 3 && (x.phase == .read || x.phase == .staged) with
      | some x => (w.answer c .ok (.count 1)).failStep x.id .squashed .none
      | none => w.answer c .ok (.count 0)

/-! ### The boundary (R23, R235, R236, R244, R352, R357) -/

/-- The head step of a ring: the first read and not admitted. -/
def W.ringHead (w : W) (n r : Nat) : Option Step := (w.ringSteps n r).find? fun x => x.phase == .read || x.phase == .staged

/-- Is a ring named as EVAL_RING by a loaded program with a cadence (R244)? -/
def W.isEvalRing (w : W) (n r : Nat) : Bool := w.step.programs.any fun p => p.span == n && p.evalEvery != 0 && p.evalRing == r

/-- Training rings that wait for the head step of an evaluation ring (R244). -/
def W.evalWaiters (w : W) (n r : Nat) : List Nat := (List.range 16).filter fun k => (w.sched n k).evalDue == some r

/-- Is a ring held for an evaluation: one that is due and has its step, or one that is in its compute phase (R244)? -/
def W.heldForEval (w : W) (n r : Nat) : Bool :=
  let g := w.sched n r
  (match g.evalDue with | some e => (w.ringHead n e).isSome | none => false)
    || (match g.evalStep with | some i => ((w.stepOf i).map (·.phase)) == some .compute | none => false)

/-- Is a step of this kind counted (R352)? -/
def StepKind.counted (k : StepKind) : Bool := k == .update || k == .embed

/-- Would a counted step take N - N_seal beyond K (R352)? Counted steps that are admitted and not committed count. -/
def W.heldForSeal (w : W) (n : Nat) (k : StepKind) : Bool :=
  match w.secOf n with
  | none => false
  | some s =>
    let open_ := (w.step.steps.filter fun x => x.span == n && x.admitted && ((w.program n x.handle).map (·.kind.counted)) == some true).length
    k.counted && decide (s.policy.k < s.n + open_ + 1 - s.nSeal)

/-- May the head step of a ring be admitted now? -/
def W.canAdmit (w : W) (n r : Nat) : Bool :=
  match w.ringHead n r with
  | none => false
  | some x =>
    w.serving && !w.activating && (w.sp n).mode == .active && !(w.sp n).stopped && (w.sp n).freezing.isNone
      && !((w.ringSteps n r).any fun y => y.phase == .compute) && x.reloads.isEmpty && !w.heldForEval n r
      && !(((w.secOf n).map (·.due)).getD false)
      && !(w.heldForSeal n (((w.program n x.handle).map (·.kind)).getD .serve))
      && (!w.isEvalRing n r || !(w.evalWaiters n r).isEmpty)

/-- The ring whose head the BN2 admits at this boundary (R236): a due evaluation, else the one that has waited longest. -/
def W.admitPick (w : W) (n : Nat) : Option Nat :=
  let c := (List.range 16).filter fun r => w.canAdmit n r
  let e := c.filter fun r => !(w.evalWaiters n r).isEmpty
  (if e.isEmpty then c else e).foldl (fun (b : Option Nat) r => match b with
    | none => some r
    | some k => if (w.sched n r).lastAdmit < (w.sched n k).lastAdmit then some r else some k) none

/-! ### Lists in span memory (R34, R42, R85, R212, R240, R267) -/

/-- A list tile that the BN2 reads for a step: what forbids it; `fmt` tells whether its format code is compared (R85). -/
def W.listFault (w : W) (x : Step) (fmt : Bool) (va : Nat) : Option Status :=
  if !isTileAddr va then some .refusedFormat
  else if w.hidden x (va / pageBytes) then some .refusedPermission
  else
    match w.locate x.span [] va with
    | .lost => some .poisoned
    | .home _ _ =>
      let t := (w.rowTile x.span va).getD []
      if !t.keystoneOk then some .keystone
      else if t.poison then some .poisoned
      else if fmt && t.format != 2 then some .refusedFormat
      else none
    | _ => some .refusedPermission

/-- The first tile of a list of `k` entries, `per` to a tile, that cannot be read. -/
def W.listCheck (w : W) (x : Step) (fmt : Bool) (a k per : Nat) : Option (Status × Nat) :=
  if k = 0 then none
  else (List.range (ceilDiv k per)).findSome? fun j => (w.listFault x fmt (tileAfter a j)).map fun s => (s, tileAfter a j)

/-- Entry `i` of a list, as bytes. -/
def W.listEntry (w : W) (n a i per size : Nat) : List Byte :=
  Tile.slice ((w.rowTile n (listAt a i per size).1).getD []) (listAt a i per size).2 size

/-- Request entries (R213). -/
def W.requestsOf (w : W) (x : Step) : List (ReqEntry × List Byte) :=
  (List.range x.nreq).map fun i =>
    let b := w.listEntry x.span x.addrReq i 256 16
    ({ reqId := rd b 0 4, handle := rd b 4 2, flags := rd b 6 1, rstatus := 0, rnote := 0 }, b)

/-- Adapter-list handles (R267). -/
def W.adapterList (w : W) (x : Step) : List Nat :=
  (List.range x.nadp).map fun i => rd (w.listEntry x.span x.addrAdp i 2048 2) 0 2

/-- Token-table entries: DECODE and PENDING (R240). -/
def W.tokenTable (w : W) (x : Step) : List (Nat × Nat) :=
  if x.addrTok = 0 then []
  else (List.range x.nreq).map fun i =>
    let b := w.listEntry x.span x.addrTok i 512 8
    (rd b 3 1, rd b 0 3)

/-! ### Chunks (R241, R242) -/

/-- The inner loop of R241: chunks of one entry. State: rows, budget, n; answers TAKEN, the state, and whether selection
ends. -/
def chunkEntry (maxRows chunk minC : Nat) : Nat → Nat → Nat → Int → Nat → Nat → Nat × Nat × Int × Nat × Bool
  | 0, _, rows, budget, n, taken => (taken, rows, budget, n, false)
  | fuel + 1, left, rows, budget, n, taken =>
    if left = 0 then (taken, rows, budget, n, false)
    else
      let c := min left chunk
      let tight := decide (budget < (c : Int)) && (decide (minC ≤ n) || decide (maxRows - rows < c))
      let c := if tight then (max budget 0).toNat / 64 * 64 else c
      if c = 0 then (taken, rows, budget, n, true)
      else chunkEntry maxRows chunk minC fuel (left - c) (rows + c) (budget - c) (n + 1) (taken + c)

/-- The outer loop: entries in list order. -/
def chunkAll (maxRows chunk minC : Nat) : List Nat → Nat → Int → Nat → List Nat
  | [], _, _, _ => []
  | p :: ps, rows, budget, n =>
    let (t, rows, budget, n, stop) := chunkEntry maxRows chunk minC (p + 1) p rows budget n 0
    if stop then t :: ps.map fun _ => 0 else t :: chunkAll maxRows chunk minC ps rows budget n

/-- TAKEN of every entry; none when the decode rows alone exceed MAX_ROWS. -/
def W.chunks (w : W) (x : Step) (p : Program) (tok : List (Nat × Nat)) : Option (List Nat) :=
  let rows := (tok.map (·.1)).sum
  if p.maxRows < rows then none
  else
    some (chunkAll p.maxRows (w.chunk (w.homeDie x.span x.ring)) (w.minChunks x.span) (tok.map (·.2)) rows
      ((min (w.target x.span) p.maxRows : Nat) - (rows : Int)) 0)

/-! ### Demands and bindings (R212 to R216, R219, R223) -/

/-- The current generation of a slot; none for an EMPTY one. -/
def W.genNow (w : W) (n k : Nat) : Option Nat := if (w.slot n k).current.isSome then some (w.slot n k).gen else none

/-- The adapter of an entry's handle, resident and of the span. -/
def W.adapterOf (w : W) (n h : Nat) : Option Adapter := (w.resident h).filter fun a => a.span == n

/-- The generation of a slot that a request demands (R214). -/
def W.demand (w : W) (n : Nat) (e : ReqEntry) (k : Nat) : Option Nat :=
  let own : Option Nat :=
    match w.adapterOf n e.handle with
    | some a => if w.adapterSlot a == some k then w.newestWith n k a.deckDigest else w.genNow n k
    | none => w.genNow n k
  match w.request n e.reqId with
  | some r =>
    if r.hold || r.grace then (match r.bindOf k with | some b => some b.gen | none => own) else own
  | none => own

/-- Is a request held by its contract in a slot: does it demand another generation than the current one (R214)? -/
def W.heldByContract (w : W) (n : Nat) (e : ReqEntry) (k : Nat) : Bool :=
  match w.adapterOf n e.handle with
  | some a => w.adapterSlot a == some k && w.demand n e k != w.genNow n k
  | none => false

/-- A request in grace that its entry ends (R228: END within grace closes it at once). -/
def W.endsGrace (w : W) (n : Nat) (e : ReqEntry) : Bool :=
  bit e.flags 1 && !bit e.flags 0 && !bit e.flags 3 && ((w.request n e.reqId).map (·.grace)).getD false

/-- Failures of one request before bindings are compared (R215). `opens` are the REQ_IDs that earlier entries open. -/
def W.requestFault (w : W) (n : Nat) (slots : List Nat) (opens : List Nat) (e : ReqEntry) (b : List Byte) : Option Status :=
  let open_ := bit e.flags 0
  let r := w.request n e.reqId
  let adapterOk : Option Status :=
    if e.handle = 0xFFFF then none
    else
      match w.adapterOf n e.handle with
      | none => some .refusedContract
      | some a =>
        match w.adapterSlot a with
        | none => some .refusedContract
        | some k => if slots.contains k && (w.newestWith n k a.deckDigest).isSome then none else some .refusedContract
  if (bit e.flags 2 && !open_) || 16 ≤ e.flags || 8 ≤ rd b 8 1 || rd b 9 7 ≠ 0 then some .refusedFormat
  else if w.endsGrace n e then none
  else if open_ && (r.isSome || opens.contains e.reqId) then some .refusedFormat
  else if !open_ && r.isNone && !opens.contains e.reqId then some .refusedFormat
  else if open_ then
    if 65536 ≤ w.deck.requests.length + opens.length then some .refusedFit
    else if ((w.adapter e.handle).map (·.evicting)).getD false && e.handle ≠ 0xFFFF then some .refusedContract
    else adapterOk
  else
    match r with
    | none => adapterOk
    | some r =>
      if r.grace then
        if !bit e.flags 3 then some .adapterEvicted
        else
          match w.adapterOf n e.handle with
          | some a =>
            let fits := ((w.adapterSlot a).bind r.bindOf).any fun b => slots.contains b.slot && w.digestOf b.image == some a.deckDigest
            if a.digest = r.adapterDigest ∧ a.deckDigest = r.deckDigest ∧ fits then none else some .refusedContract
          | none => some .refusedContract
      else if e.handle ≠ r.handle then some .refusedContract
      else if ((w.adapter e.handle).map fun a => a.evicting && a.force).getD false && e.handle ≠ 0xFFFF then some .adapterEvicted
      else adapterOk

/-- The same for every entry, in list order. -/
def W.requestFaults (w : W) (n : Nat) (slots : List Nat) : List Nat → List (ReqEntry × List Byte) → List (Option Status)
  | _, [] => []
  | opens, (e, b) :: l =>
    let f := w.requestFault n slots opens e b
    f :: W.requestFaults w n slots (if bit e.flags 0 then e.reqId :: opens else opens) l

/-- What a step binds and what its requests come to. -/
structure Binding where
  binds : List Bind
  requests : List ReqEntry
  fail : Option (Status × Nat)

/-- Request entries of a step that binds nothing: of their notes only GEN_HELD stands (R214, R216, R228). -/
def unbound (l : List (ReqEntry × Status)) : List ReqEntry :=
  l.map fun (e, st) => { e with rstatus := st.code, rnote := if bit e.rnote 1 then 2 else 0 }

/-- Bind the slots of a step and judge its requests (R212 to R216). The demand of the first request that has not failed by
itself decides. A slot of the step that is EMPTY, with no request that demands an older generation, refuses the step (R219).
`tooLong` marks the requests whose PENDING exceeds MAX_SEQ (R240). -/
def W.bindStep (w : W) (n : Nat) (slots : List Nat) (reqs : List (ReqEntry × List Byte)) (tooLong : List Bool) : Except Status Binding :=
  let own := (w.requestFaults n slots [] reqs).zipIdx.map fun (f, i) =>
    f.orElse fun _ => if tooLong.getD i false then some .refusedFit else none
  let judged := reqs.zip own
  let live := judged.filterMap fun ((e, _), f) => if f.isNone && !w.endsGrace n e then some e else none
  let binds := slots.filterMap fun k =>
    let g := match live.head? with | some e => w.demand n e k | none => w.genNow n k
    g.bind fun g => (w.genImage n k g).map fun i => ({ slot := k, gen := g, image := i } : Bind)
  let wants (e : ReqEntry) (k : Nat) : Option Nat := w.demand n e k
  let differs (e : ReqEntry) : Bool := slots.any fun k =>
    match binds.find? fun b => b.slot == k with | some b => wants e k != some b.gen | none => (wants e k).isSome
  let empty (e : ReqEntry) : Bool := slots.any fun k => (wants e k).isNone
  let st : List (ReqEntry × Option Status) := judged.map fun ((e, _), f) =>
    match f with
    | some s => (e, some s)
    | none =>
      if w.endsGrace n e then (e, none)
      else if empty e then (e, some .refusedContract)
      else if differs e then ({ e with rnote := if slots.any (fun k => w.heldByContract n e k) then 2 else 0 }, some .retryLater)
      else
        let old := ((w.request n e.reqId).map (·.binds)).getD []
        let hold := ((w.request n e.reqId).map (·.hold)).getD (bit e.flags 2)
        let changed := !hold && binds.any fun b => old.any fun o => o.slot == b.slot && o.gen != b.gen
        let held := slots.any fun k => w.heldByContract n e k
        let resumed := bit e.flags 3 && ((w.request n e.reqId).map (·.grace)).getD false
        ({ e with rnote := (if changed then 1 else 0) + (if held then 2 else 0) + (if resumed then 4 else 0) }, none)
  match st.zipIdx.find? fun (x, _) => x.2.isSome with
  | some ((_, some s), i) =>
    .ok { binds := [], fail := some (s, i),
          requests := unbound (st.map fun (e, f) => (e, f.getD .squashed)) }
  | _ =>
    if binds.length < slots.length then .error .refusedContract
    else .ok { binds := binds, fail := none, requests := st.map (·.1) }

/-- Deck slots that a program names (R233). -/
def Program.slotsNamed (p : Program) : List Nat := (List.range 16).filter fun k => bit p.deckMask k

/-- Does an adapter of the list fit the binding (R223)? -/
def W.adapterFits (w : W) (n : Nat) (binds : List Bind) (h : Nat) : Bool :=
  match w.adapterOf n h with
  | none => false
  | some a =>
    !(a.evicting && a.force) &&
      (match w.adapterSlot a with
       | none => false
       | some k => (match binds.find? fun b => b.slot == k with
                    | some b => w.digestOf b.image == some a.deckDigest
                    | none => false))

/-! ### Placement (R18, R237, R239, R346) -/

/-- Depth D of schedule prefetch on a core (R52). -/
def W.depth (w : W) (p : Program) (l : Nat) : Nat :=
  match w.physOf l with | some c => min p.pfDepth (w.pfLimit (c / 36)) | none => 0

/-- Runs of tiles that a schedule lists for a task in `d` layers from a layer on. -/
def schedRuns (sched : List (List SchedRange)) (layer d task : Nat) : List Run' :=
  ((sched.drop layer).take d).flatten.filterMap fun r => if r.task = task then some (tileNo r.addr, r.tiles) else none

/-- Affinity score of a core for a task (R237). -/
def W.score (w : W) (p : Program) (sched : List (List SchedRange)) (binds : List Bind) (task l : Nat) : Nat :=
  let runs := schedRuns sched (((p.tasks[task]?).map (·.layer0)).getD 0) (w.depth p l) task
  ((w.core' l).tiles.filter fun e => (!(e.state matches .fetching) || e.pin != .none)
    && (match e.gen with
        | none => true
        | some g => binds.any fun b => b.gen == g && (w.slotAt p.span (e.addr / pageBytes) binds).map (·.1) == some b.slot)
    && runs.any fun r => decide (r.1 ≤ tileNo e.addr) && decide (tileNo e.addr < r.1 + r.2)).length

/-- Contexts and tokens that the running tasks on a core hold (R18, R434). -/
def W.heldOn (w : W) (l : Nat) : Nat × Nat :=
  let ts := (w.step.steps.filter fun x => x.phase == .compute).flatMap fun x => x.tasks.filter fun t => t.core == some l && !t.ended
  ((ts.map fun t => t.ctxs.length).sum, (ts.map fun t => t.tokens.length).sum)

/-- Is a core under an automatic test, which yields to a task (R346)? -/
def W.autoTest (w : W) (l : Nat) : Bool :=
  match w.physOf l with
  | none => false
  | some c => (w.phys c).state == .testing && w.core.tests.any fun j => j.kind == 3 && j.cores.contains c

/-- May a task be placed on a core? `extra` are contexts and tokens that earlier tentative placements take there. -/
def W.qualifies (w : W) (t : TaskDef) (extra : List (Nat × Nat × Nat)) (l : Nat) : Bool :=
  let (c, k) := w.heldOn l
  let mine := extra.filter fun e => e.1 == l
  (w.placeable l || (w.autoTest l && !w.leaving l)) && decide (c + (mine.map (·.2.1)).sum + t.contexts ≤ 32)
    && decide (k + (mine.map (·.2.2)).sum + t.tokens ≤ 256)

/-- Cluster of a logical core. -/
def W.clusterOf (w : W) (l : Nat) : Nat := ((w.physOf l).map (· / 9)).getD 0

/-- The best core of a list: highest score, then the home core, then the lowest number. -/
def bestCore (score : Nat → Nat) (home : Option Nat) (ls : List Nat) : Option Nat :=
  ls.foldl (fun (b : Option Nat) l => match b with
    | none => some l
    | some k => if score k < score l || (score k == score l && home == some l && home != some k) then some l else some k) none

/-- The core for a task (R237): among awake cores, else in the sleeping cluster with the highest total score. -/
def W.chooseCore (w : W) (n : Nat) (p : Program) (sched : List (List SchedRange)) (binds : List Bind) (home : Option Nat)
    (task : Nat) (t : TaskDef) (extra : List (Nat × Nat × Nat)) : Option Nat :=
  let ok := (w.coresOf n).filter fun l => w.qualifies t extra l
  let sc := w.score p sched binds task
  let up := ok.filter fun l => w.awake l
  match bestCore sc home up with
  | some l => some l
  | none =>
    let cs := (ok.map w.clusterOf).dedup
    let total (c : Nat) : Nat := ((ok.filter fun l => w.clusterOf l == c).map sc).sum
    let best := (List.range 16).foldl (fun (b : Option Nat) c =>
      if !cs.contains c then b
      else match b with
        | none => some c
        | some k => if total k < total c then some c else some k) none
    best.bind fun c => bestCore sc home (ok.filter fun l => w.clusterOf l == c)

/-- Wake a core's cluster (R239): whether a wake had to be started. -/
def W.wakeFor (w : W) (n l : Nat) : Bool × W :=
  let c := w.clusterOf l
  if (w.cluster c).asleep && !(w.cluster c).waking then
    (true, (w.modCluster c fun x => { x with waking := true }).count n 0x210 1)
  else (false, w)

/-- An automatic test yields its cores (R346). -/
def W.yieldTest (w : W) (l : Nat) : W :=
  if !w.autoTest l then w
  else
    w.with (w.physOf l) fun c w =>
      let js := w.core.tests.filter fun j => j.kind == 3 && j.cores.contains c
      let w := { w with core.tests := w.core.tests.filter fun j => !(j.kind == 3 && j.cores.contains c) }
      w.handBack (js.flatMap (·.cores))

/-- A task as it starts: tokens zero (R20), contexts at the head of their streams, VLEN unset (R138). Its contexts wait for their
engines from the moment it is placed (R17). -/
def TaskDef.start (t : TaskDef) (i : Nat) (core : Option Nat) : Task :=
  { idx := i, core := core, tokens := List.replicate t.tokens 0, ended := false, written := [],
    ctxs := List.replicate t.contexts { next := 0, vlen := none, state := .ready, captured := [], since := 0 } }

/-- Has a task nothing left: every stream issued, nothing in flight (R434)? -/
def W.taskOver (w : W) (p : Program) (id : Nat) (t : Task) : Bool :=
  t.core.isSome && (t.ctxs.zipIdx.all fun (c, j) => decide ((p.stream t.idx j).length ≤ c.next))
    && !(w.step.inflight.any fun f => f.step == id && f.task == t.idx)

/-- Tasks that are over end: their contexts and tokens go back to the core (R434). -/
def W.endTasks (w : W) (id : Nat) : W :=
  match w.stepOf id with
  | none => w
  | some x =>
    match w.program x.span x.handle with
    | none => w
    | some p => w.modStep id fun y => { y with tasks := y.tasks.map fun (t : Task) => if w.taskOver p id t then { t with ended := true } else t }

/-- A core's cluster is at a step boundary when none of its cores holds a task: in full service its clock is then 2.2 GHz (R379). -/
def W.atBoundary (w : W) (l : Nat) : W :=
  w.with (w.physOf l) fun c w => w.if (decide (w.pwr.phase = 6) && !w.busyCluster (c / 9) && !(w.cluster (c / 9)).fast) fun w =>
    w.modCluster (c / 9) fun x => { x with fast := true }

/-- Place one task of an admitted step (R237); whether it found a core, and whether a wake had to be started. -/
def W.placeTask (w : W) (id i : Nat) : Bool × Bool × W :=
  match w.stepOf id with
  | none => (false, false, w)
  | some x =>
    match w.program x.span x.handle with
    | none => (false, false, w)
    | some p =>
      match p.tasks[i]? with
      | none => (false, false, w)
      | some t =>
        let home := (x.homes.find? fun h => h.1 == i).map (·.2)
        match w.chooseCore x.span p x.sched x.binds home i t [] with
        | none => (false, false, w)
        | some l =>
          let w := if home == some l then w.count x.span 0x208 1 else w
          let (woke, w) := ((w.yieldTest l).atBoundary l).wakeFor x.span l
          let now := w.core.clock
          let w := { w with core.clock := now + 1 }.modStep id fun y => { y with tasks := y.tasks.map fun (k : Task) =>
            if k.idx = i then { k with core := some l, ctxs := k.ctxs.map fun (c : Ctx) => { c with since := now } } else k }
          let w := w.modSched x.span x.ring fun g =>
            { g with homes := (g.homes.filter fun h => !(h.1 == x.handle && h.2.1 == i)) ++ [(x.handle, i, l)] }
          let w := (w.settleTask id i).trace x.span l 1 0 i x.traceSeq []
          (true, woke, w.endTasks id)

/-- Place the tasks from number `i` on, until one has to wait (R237 step 3); whether a wake had to be started. -/
def W.placeFrom (w : W) (id : Nat) : Nat → Nat → Bool → Bool × W
  | 0, _, woke => (woke, w)
  | k + 1, i, woke =>
    match w.placeTask id i with
    | (false, _, w) => (woke, w)
    | (true, b, w) => W.placeFrom w id k (i + 1) (woke || b)

/-! ### Admission (R235) -/

/-- Parameters of STEP_SUBMIT in order (R267)? -/
def Step.paramsOk (x : Step) (serve : Bool) : Bool :=
  decide (x.nreq ≤ 16384) && decide (x.nadp ≤ 4096) && ((x.addrReq == 0) == (x.nreq == 0)) && ((x.addrAdp == 0) == (x.nadp == 0))
    && (if serve && x.nreq != 0 then x.addrTok != 0 else x.addrTok == 0)

/-- Does a step break the order of its ring's pipeline (R243)? -/
def RingSched.breaks (g : RingSched) (p : Program) : Bool :=
  let wu := max 1 p.warmup
  p.pipelined &&
    ((match g.warmup with | some k => k != wu | none => false) ||
      (match p.kind with
       | .fwd => !decide (g.fwd < wu + g.bwd)
       | .bwd => !decide (g.bwd < g.fwd)
       | .update => g.fwd != g.bwd
       | _ => false))

/-- The pipeline's counts after an admission (R243). -/
def RingSched.takeIn (g : RingSched) (p : Program) : RingSched :=
  if !p.pipelined then g
  else
    let g := { g with warmup := some (max 1 p.warmup) }
    match p.kind with
    | .fwd => { g with fwd := g.fwd + 1 }
    | .bwd => { g with bwd := g.bwd + 1 }
    | .update => { g with fwd := 0, bwd := 0 }
    | _ => g

/-- Cores of a span that tasks can count on (R31): those in service, of the retired ones that still hold their logical number as many of a
cluster as it has spares to take their place, and numbers that wait for a spare under test (R335). -/
def W.coresLeft (w : W) (n : Nat) : Nat :=
  let held := (w.coresOf n).filterMap w.physOf
  let gone (cl : Nat) : Nat := (held.filter fun c => (w.phys c).state == .retired && c / 9 == cl).length
  let empty (cl : Nat) : Nat := (((List.range 8).map (8 * cl + ·)).filter fun l => w.owner l == n && (w.physOf l).isNone).length
  ((List.range 16).map fun cl =>
    (held.filter fun c => (w.phys c).state != .retired && c / 9 == cl).length + min (w.sparesIn cl).length (gone cl + empty cl)).sum

/-- What an admission has settled before it changes anything. -/
structure Admission where
  prog : Program
  bind : Binding
  adapters : List Nat
  taken : List Nat

/-- The refusals of admission, in order (R31, R129, R215, R223, R240, R243, R244, R267, R270): the status and its detail, and
the request entries when the list could be read. -/
def W.admitCheck (w : W) (x : Step) : Except (Status × Detail × List ReqEntry) Admission :=
  let n := x.span
  let g := w.sched n x.ring
  match w.program n x.handle with
  | none => .error (.refusedFormat, .none, [])
  | some p =>
    if !x.paramsOk (p.kind == .serve) then .error (.refusedFormat, .none, [])
    else if g.broken || g.breaks p then .error (.refusedFormat, .pipeline g.fwd g.bwd, [])
    else if w.isEvalRing n x.ring && !(p.kind == .eval) then .error (.refusedFormat, .none, [])
    else if w.coresLeft n < p.minCores then .error (.refusedFit, .none, [])
    else if w.pwr.trestle && !w.allResident n p then .error (.trestleLimit, .none, [])
    else
      let bad := ((w.listCheck x false x.addrReq x.nreq 256).orElse fun _ =>
        if x.addrTok = 0 then none else w.listCheck x false x.addrTok x.nreq 512).orElse fun _ => w.listCheck x true x.addrAdp x.nadp 2048
      match bad with
      | some (st, va) => .error (st, .addr va, [])
      | none =>
        let reqs := w.requestsOf x
        let plain (st : Status) : List ReqEntry := unbound (reqs.map fun (e, _) => (e, st))
        let tok := w.tokenTable x
        match w.bindStep n p.slotsNamed reqs (tok.map fun t => decide (p.maxSeq < t.2)) with
        | .error st => .error (st, .none, plain st)
        | .ok b =>
          match b.fail with
          | some (st, i) => .error (st, .index 3 i, b.requests)
          | none =>
            let plain (st : Status) : List ReqEntry := unbound (b.requests.map fun e => (e, st))
            match w.chunks x p tok with
              | none => .error (.refusedFit, .none, plain .refusedFit)
              | some taken =>
                let list := w.adapterList x
                if list.any fun h => !w.adapterFits n b.binds h then .error (.refusedContract, .none, plain .refusedContract)
                else
                  let hs := ((reqs.filterMap fun (e, _) => if e.handle = 0xFFFF || w.endsGrace n e then none else some e.handle) ++ list).dedup
                  if 4096 < hs.length then .error (.refusedFit, .none, plain .refusedFit)
                  else .ok { prog := p, bind := b, adapters := hs, taken := taken }

/-- COLD adapters that the step would bind at count 0: their factors come first (R226). -/
def W.coldOnes (w : W) (a : Admission) : List Nat := a.adapters.filter fun h => ((w.adapter h).map fun a => !a.valid).getD false

/-- Ask for the factors of COLD adapters; a PEER source is asked over Viaduct. -/
def W.askReload (w : W) (x : Step) (hs : List Nat) : W :=
  let w := w.modStep x.id fun y => { y with reloads := hs }
  w.each hs fun h w => w.with (w.adapter h) fun a w =>
    if a.source = 2 && a.key < 4096 then
      w.send x.span a.peer x.span (w.keyHandle a.key) false tyGetReq 0 (leBytes 1 2 ++ leBytes 32 a.deckDigest.toNat) (some x.id)
    else w

/-- Of the tiles that an earlier staging of a step prefetched, the deck tiles of generations that it does not bind any more are
invalidated (R54). -/
def W.dropStale (w : W) (x : Step) (binds : List Bind) : W :=
  let stale (va : Nat) (e : TileEnt) : Bool := match e.gen with
    | none => false
    | some g => match w.locate x.span binds va with | .deck k _ _ => k != g | _ => true
  w.each x.stagedTiles fun (l, va) w => w.dropEnts l fun e =>
    e.addr == va && stale va e && e.pin == .none && e.refs == 0 && !(e.state matches .dirty)

/-- A staging whose bindings differ is squashed and restaged (R54, R212): tiles of generations no longer bound go. -/
def W.restage (w : W) (x : Step) (binds : List Bind) : W :=
  let w := if x.phase = .staged ∧ x.stagedBinds ≠ binds then (w.count x.span 0x1E0 1).count x.span 0x220 1 else w
  w.dropStale x binds

/-- Tickets of a step (R187): the next epoch where its program holds an EMB_GRAD for the table, else the last one taken. The
update block is noted for the epoch (R193). -/
def W.takeTickets (w : W) (n : Nat) (p : Program) : List Ticket × W :=
  let grads := (p.descs.filterMap fun (d, _) => if rd d 0 1 = 0x41 then some (rd d 4 2) else none).dedup
  p.tablesNamed.foldl (fun (acc : List Ticket × W) id =>
    let (ts, w) := acc
    match w.table n id with
    | none => acc
    | some t =>
      if grads.contains id then
        let e := t.ticket + 1
        let snap := Tile.slice ((w.rowTile n t.addrUpd).getD []) 0 96
        (ts ++ [{ table := id, epoch := e, update := true }],
         w.setTable n id (some { t with ticket := e, snaps := t.snaps ++ [(e, snap)] }))
      else (ts ++ [{ table := id, epoch := t.ticket, update := false }], w)) ([], w)

/-- Learning-rate entries of a program's UPDATEs, with the exponent as it stands (R106). DESIGN CHOICE (log entry 130): an E outside the
range of R105, for which the rule names no effect, is used as the INT8 value it is. -/
def W.lrEntries (w : W) (n : Nat) (p : Program) : List LrUse :=
  let as := (p.descs.filterMap fun (d, _) => if rd d 0 1 = 0x22 then some (VecDesc.of d).p else none).dedup
  as.filterMap fun a => (w.rowTile n a).map fun t => { addr := a, e := signed 8 (t.num 0 1), amax := .zero false, sat := false }

/-- Open and rebind the requests of an admitted step (R213, R214, R228). -/
def W.openRequests (w : W) (n : Nat) (b : Binding) : W :=
  w.each b.requests fun e w =>
    if w.endsGrace n e then w.closeRequest n e.reqId
    else if bit e.flags 0 then
      let a := w.adapter e.handle
      let r : OpenReq :=
        { span := n, reqId := e.reqId, handle := e.handle, hold := bit e.flags 2, binds := b.binds,
          adapterDigest := (a.map (·.digest)).getD 0#256, deckDigest := (a.map (·.deckDigest)).getD 0#256, grace := false }
      { w with deck.requests := w.deck.requests ++ [r] }
    else
      let rs := w.deck.requests.map fun (r : OpenReq) =>
        if r.span = n ∧ r.reqId = e.reqId then
          { r with handle := e.handle, grace := false,
                   binds := (r.binds.filter fun o => !(b.binds.any fun q => q.slot == o.slot)) ++ b.binds }
        else r
      { w with deck.requests := rs }

/-- An evaluation step is admitted for the first ring that waits for one: that ring is held until its compute phase ends
(R244). -/
def W.takeEval (w : W) (x : Step) : W :=
  match (w.evalWaiters x.span x.ring).head? with
  | some k => w.modSched x.span k fun g => { g with evalDue := none, evalStep := some x.id }
  | none => w

/-- A step is admitted (R23, R101, R187, R212, R216, R235, R237). -/
def W.takeIn (w : W) (x : Step) (a : Admission) : W :=
  let n := x.span
  let p := a.prog
  let w := w.restage x a.bind.binds
  let seed := if x.seedValid then x.seedIn else (w.sp n).seed
  let w := if x.seedValid then w else w.modSp n fun s => { s with seed := s.seed + 1#64 }
  let (tickets, w) := w.takeTickets n p
  let lr := w.lrEntries n p
  let prev := (w.sched n x.ring).prevBinds
  let gen := a.bind.requests.any (fun e => bit e.rnote 0) || a.bind.binds.any fun b => prev.any fun o => o.slot == b.slot && o.gen != b.gen
  let w := w.openRequests n a.bind
  let (stamp, w) := w.fresh
  let homes := ((w.sched n x.ring).homes.filter fun h => h.1 == x.handle).map (·.2)
  let w := (w.modSched n x.ring fun g =>
    { g.takeIn p with lastAdmit := stamp,
                      prevBinds := a.bind.binds,
                      homes := g.homes.filter fun h => h.1 != x.handle }).modStep x.id fun y => { y with homes := homes }
  let w := w.each a.adapters fun h w => w.modAdapter h fun y => { y with lastBound := stamp }
  let w := w.count n 0x1F8 (a.bind.requests.filter fun e => bit e.rnote 2).length
  let w := (w.count n 0x200 1).modStep x.id fun y =>
    { y with phase := .compute, seed := seed, binds := a.bind.binds, adapters := a.adapters, requests := a.bind.requests, taken := a.taken,
             tickets := tickets, lr := lr, genChanged := gen, adpThresh := w.pathThresh (w.homeDie n x.ring),
             stagedBinds := [], stagedTiles := [], sched := p.sched, tasks := p.tasks.zipIdx.map fun (t, i) => t.start i none }
  let w := w.takeEval x
  let (woke, w) := w.placeFrom x.id p.tasks.length 0 false
  if woke then w.count n 0x218 1 else w

/-- A step is refused at admission (R31, R215): its requests carry their statuses; one in grace that it ends is closed. A break
of the pipeline's order stays (R243). -/
def W.refuseStep (w : W) (x : Step) (st : Status) (d : Detail) (rs : List ReqEntry) : W :=
  let w := match st, d with | .keystone, .addr va => w.listTileBad x.span va | _, _ => w
  let w := match d with | .pipeline _ _ => w.modSched x.span x.ring fun g => { g with broken := true } | _ => w
  let w := w.each (rs.filter fun e => w.endsGrace x.span e) fun e w => w.closeRequest x.span e.reqId
  let w := match (w.evalWaiters x.span x.ring).head? with
    | some k => w.modSched x.span k fun g => { g with evalDue := none }
    | none => w
  (w.modStep x.id fun y => { y with requests := rs, taken := rs.map fun _ => 0 }).failStep x.id st d

/-- A ring whose evaluation found no step goes on (R244). -/
def W.missEval (w : W) (n r : Nat) : W :=
  match (w.sched n r).evalDue with
  | some e => if (w.ringHead n e).isNone then (w.modSched n r fun g => { g with evalDue := none }).count n 0x228 1 else w
  | none => w

/-- STEP_ADMIT (R235): the head step of a ring at its boundary. -/
def execStepAdmit (span ring : Nat) (s : State) : Host.Outcome State Fault Refusal :=
  s.act fun w => w.if (w.admitPick span == some ring) fun w =>
    let w := w.missEval span ring
    w.with (w.ringHead span ring) fun x w =>
      match w.admitCheck x with
      | .error (st, d, rs) => w.refuseStep x st d rs
      | .ok a =>
        let cold := w.coldOnes a
        if cold.isEmpty then w.takeIn x a else w.askReload x cold

/-- Does a step wait for a securing step that is due: none of its tasks has started (R245)? -/
def W.afterSecuring (w : W) (x : Step) : Bool := ((w.secOf x.span).map (·.due)).getD false && x.tasks.all fun t => t.core.isNone && !t.ended

/-- TASK_PLACE_DEFERRED (R237 step 3): the first task that waits is placed at a core boundary. -/
def execTaskPlaceDeferred (step task : Nat) (s : State) : Host.Outcome State Fault Refusal :=
  s.act fun w => w.with (w.stepOf step) fun x w =>
    w.if (x.phase == .compute && !w.afterSecuring x && ((x.tasks.find? fun t => t.core.isNone && !t.ended).map (·.idx)) == some task) fun w => (w.placeTask step task).2.2

/-! ### Run-ahead (R246 to R248) and prefetch (R52, R53) -/

/-- Prefetch a tile on a core, where the limits allow: at most 16 fetches (R22), pages mapped and not being unmapped (R35,
R438), no second copy of a HOT tile (R48). -/
def W.prefetchTile (w : W) (x : Step) (binds : List Bind) (l va : Nat) : W :=
  if w.hidden x (va / pageBytes) || !isTileAddr va then w
  else
    let busy := ((w.core' l).tiles.filter fun e => e.state matches .fetching).length
    match w.locate x.span binds va with
    | .home _ _ => if (w.hotAt x.span va).isSome || 16 ≤ busy then w else w.startFetch l va none true
    | .deck g _ _ => if (w.hotAt x.span va (some g)).isSome || 16 ≤ busy then w else w.startFetch l va (some g) true
    | _ => w

/-- Prefetch the tiles of a layer for the tasks of a step that have a core. -/
def W.prefetchLayer (w : W) (x : Step) (p : Program) (sched : List (List SchedRange)) (binds : List Bind) (layer : Nat) : W :=
  w.each x.tasks fun t w => w.with t.core fun l w =>
    let l0 := ((p.tasks[t.idx]?).map (·.layer0)).getD 0
    if t.ended || layer < l0 || w.depth p l = 0 then w
    else w.each (runTiles (schedRuns sched layer 1 t.idx)) fun va w => w.prefetchTile x binds l va

/-- Index-stream tiles of a task (R246 step 4). -/
def Program.indexTiles (p : Program) (i : Nat) : List Nat :=
  (((p.tasks[i]?).map (·.streams)).getD []).flatten.flatMap fun d =>
    if rd d 0 1 = 0x40 ∨ rd d 0 1 = 0x41 then runTiles [(tileNo (rd d 16 6), ceilDiv (rd d 40 4) 512)] else []

/-- Tiles of a step's request list and token table (R212, R240). -/
def Step.listTiles (x : Step) : List Nat :=
  (if x.nreq = 0 then [] else runTiles [(tileNo x.addrReq, ceilDiv x.nreq 256)])
    ++ (if x.addrTok = 0 then [] else runTiles [(tileNo x.addrTok, ceilDiv x.nreq 512)])

/-- The tiles that a staging prefetches: the index streams of its tasks, and the step's request list and token table (R246 item 4), which
go to the core of its first task (log entry 72). -/
def W.prefetchLists (w : W) (x : Step) (p : Program) (binds : List Bind) : W :=
  let w := w.each x.tasks fun t w => w.with t.core fun l w => w.each (p.indexTiles t.idx) fun va w => w.prefetchTile x binds l va
  w.with (x.tasks.findSome? (·.core)) fun l w => w.each x.listTiles fun va w => w.prefetchTile x binds l va

/-- Addresses and generations in the tile maps of a span, with their core. -/
def W.held (w : W) (n : Nat) : List (Nat × Nat × Option Nat) :=
  (w.coresOf n).flatMap fun l => (w.core' l).tiles.map fun e => (l, e.addr, e.gen)

/-- Run-ahead of a staged step does `f`: the tiles that it brings are on record, for R54. -/
def W.staging (w : W) (x : Step) (f : W → W) : W :=
  let old := w.held x.span
  let w := f w
  let new := ((w.held x.span).filter fun q => !old.contains q).map fun q => (q.1, q.2.1)
  w.modStep x.id fun y => { y with stagedTiles := (y.stagedTiles ++ new).dedup }

/-- PREFETCH (R52, R53): the tile mover takes up a layer of the schedule; of a staged step also what is missing of its lists (R246). -/
def execPrefetch (step layer : Nat) (s : State) : Host.Outcome State Fault Refusal :=
  s.act fun w => w.with (w.stepOf step) fun x w => w.with (w.program x.span x.handle) fun p w =>
    if x.phase = .compute then w.prefetchLayer x p x.sched x.binds layer
    else if x.phase = .staged then
      let near := x.tasks.any fun t => match t.core with
        | some l => let l0 := ((p.tasks[t.idx]?).map (·.layer0)).getD 0; decide (l0 ≤ layer) && decide (layer < l0 + w.depth p l)
        | none => false
      w.staging x fun w => (w.if near fun w => w.prefetchLayer x p p.sched x.stagedBinds layer).prefetchLists x p x.stagedBinds
    else w

/-- Tentative placement of the tasks of a step (R246): the cores it comes to, without holding them. -/
def W.tentative (w : W) (x : Step) (p : Program) (binds : List Bind) : List (TaskDef × Nat) → List (Nat × Nat × Nat) → List (Nat × Nat)
  | [], _ => []
  | (t, i) :: l, extra =>
    let home := ((w.sched x.span x.ring).homes.find? fun h => h.1 == x.handle && h.2.1 == i).map (·.2.2)
    match w.chooseCore x.span p p.sched binds home i t extra with
    | none => []
    | some c => (i, c) :: W.tentative w x p binds l ((c, t.contexts, t.tokens) :: extra)

/-- Stage a step (R246): placement, wakes, prefetch of the first D layers, of the index streams, and of the step's lists, which go to the
core of its first task (log entry 72), under the current generations. An earlier staging's deck tiles of other generations go (R54). -/
def W.stage (w : W) (x : Step) (p : Program) : W :=
  let n := x.span
  let binds := (w.currentBinds n).filter fun b => bit p.deckMask b.slot
  let w := w.dropStale x binds
  let place := w.tentative x p binds p.tasks.zipIdx []
  let w := w.each place fun (_, l) w => (w.wakeFor n l).2
  let x' : Step := { x with phase := .staged, stagedBinds := binds,
                            tasks := p.tasks.zipIdx.map fun (t, i) => t.start i ((place.find? fun q => q.1 == i).map (·.2)) }
  let w := w.modStep x.id fun _ => x'
  let layers := (p.tasks.map (·.layer0)).foldl max 0 + p.pfDepth
  w.staging x' fun w =>
    let w := w.each (List.range layers) fun k w =>
      w.each x'.tasks fun t w => w.with t.core fun l w =>
        let l0 := ((p.tasks[t.idx]?).map (·.layer0)).getD 0
        if k < l0 || l0 + w.depth p l ≤ k then w
        else w.each (runTiles (schedRuns p.sched k 1 t.idx)) fun va w => w.prefetchTile x' binds l va
    w.prefetchLists x' p binds

/-- RUN_AHEAD_STAGE (R246, R247): while a step of the ring runs, the next one is prepared, once. Nothing is written but
scratchpad copies and wakes. -/
def execRunAheadStage (span ring : Nat) (s : State) : Host.Outcome State Fault Refusal :=
  s.act fun w => w.with (w.ringHead span ring) fun x w => w.with (w.program span x.handle) fun p w =>
    w.if (w.serving && x.phase == .read && ((w.ringSteps span ring).any fun y => y.phase == .compute) && (w.sp span).mode == .active
        && !(w.sp span).stopped && (w.sp span).freezing.isNone) fun w => w.stage x p

end Sys2Proof.Machine
end

