-- ==== Sys2Proof/Machine/StepRun.lean ====
section
/-! DEFINITION. Steps from their compute phase on: descriptors and fetches that complete, pier barriers, deadlock, the end of
the compute phase, commit, and the sleep of clusters and dies (R19 to R21, R24, R26, R40 to R42, R50, R51, R55, R107, R188,
R220, R239, R244, R352 to R354, R383). -/

namespace Sys2Proof.Machine

open Sys2Proof

/-! ### DESCRIPTOR_COMPLETE (R19, R20, R40, R86, R87, R140) -/

/-- One output tile becomes visible in the scratchpad; of a tile that is only partly covered the rest stays (R140). -/
def W.applyWrite (w : W) (n l : Nat) (parts : List (Nat × Nat × Int)) (va : Nat) (t : Tile) : W :=
  let cur : Tile := match w.readEnt ((w.hotAt n va).getD l) va none with
    | .data d _ _ => d
    | _ => (w.stored n va).getD []
  w.writePad n l va (match parts.find? fun q => q.1 == va with
    | some (_, p, zp) => t.over cur p zp
    | none => t)

/-- What a descriptor adds to a learning-rate entry of its step (R107). -/
def LrUse.merge (old : List LrUse) (u : LrUse) : List LrUse :=
  if old.any fun q => q.addr == u.addr then
    old.map fun (q : LrUse) => if q.addr = u.addr then { q with amax := q.amax.max u.amax, sat := q.sat || u.sat } else q
  else old ++ [u]

/-- BODY of an OP record (R413). -/
def opBody (f : InFlight) (cycles : Nat) : List Byte :=
  leBytes 1 (match f.engine with | .matrix => 0 | .vector => 1 | .gather => 2 | .mover => 3) ++ leBytes 3 f.dseq
    ++ leBytes 4 cycles ++ leBytes 8 (summary f.counts false)

/-- Signal a token (R19): one that would pass 65,535 holds; whether it did so (R20). -/
def W.signalToken (w : W) (id task k : Nat) : Bool × W :=
  let full := match (w.stepOf id).bind fun x => x.tasks.find? fun t => t.idx == task with
    | some t => decide (65535 ≤ t.tokens.getD k 0)
    | none => false
  if full then (true, w)
  else
    (false, w.modStep id fun y => { y with tasks := y.tasks.map fun (t : Task) =>
      if t.idx = task then { t with tokens := t.tokens.set k (t.tokens.getD k 0 + 1) } else t })

/-- Does a context of a step wait for this tile on this core: its own, or the one that a HOT pin has serve it (R48)? -/
def W.waitsFor (w : W) (n l va : Nat) (gen : Option Nat) (x : Step) (t : Task) (c : Ctx) : Bool :=
  x.span == n && c.state == .waitFetch va gen && (t.core == some l || w.hotAt n va gen == some l)

/-- Wake the contexts that wait for tiles just written on a core. -/
def W.wakeFor' (w : W) (n l : Nat) (vas : List Nat) : W :=
  w.wakeCtxs fun x t c => vas.any fun va => w.waitsFor n l va none x t c

/-- An engine finishes a descriptor: its writes become visible, then its counts and its token (R19). -/
def W.complete (w : W) (x : Step) (f : InFlight) : W :=
  let n := x.span
  let vas := (f.writes.map (·.1)).dedup
  let w := w.each f.writes fun (va, t) w => w.applyWrite n f.core f.parts va t
  let w := { w.dropRefs f with step.inflight := w.step.inflight.filter fun g => !g.same f }
  let w := w.modStep x.id fun y =>
    { y with counts := y.counts.add f.counts, written := (y.written ++ vas).dedup, lr := f.lr.foldl LrUse.merge y.lr,
             tasks := y.tasks.map fun (t : Task) => if t.idx = f.task then { t with written := (t.written ++ vas).dedup } else t }
  let w := w.countFormats n f.counts
  let w := w.each f.cnts fun (off, k) w => w.count n off k
  let (cyc, w) := w.freeVal
  let w := w.trace n f.core 3 f.ctx f.task x.traceSeq (opBody f cyc.toNat)
  let (full, w) := match f.sig with | some k => w.signalToken x.id f.task k | none => (false, w)
  if full then w.failStep x.id .deviceFault (.token f.core f.ctx (f.sig.getD 0) false)
  else ((w.settleTask x.id f.task).wakeFor' n f.core vas).endTasks x.id

/-- An ABORT_STEP stops a descriptor at its next output block or page iteration (R28, R155): what it has written so far the step has
written; the descriptor itself does not complete. -/
def W.stopHalf (w : W) (x : Step) (f : InFlight) : W :=
  let (half, w) := w.halfWritten f
  let w := { w.dropRefs f with step.inflight := w.step.inflight.filter fun g => !g.same f }
  w.modStep x.id fun y => { y with written := (y.written ++ half).dedup }

/-! ### TILE_FETCH_COMPLETE (R40 to R42, R46, R55, R57, R220, R221) -/

/-- Where a core's fetch of a tile reads: its physical address. -/
def W.fetchSource (w : W) (n va : Nat) (gen : Option Nat) : Option Nat :=
  match gen, w.locate n ((gen.map (w.genBinds n)).getD []) va with
  | none, .home pa _ => some pa
  | some _, .deck _ _ pa => some pa
  | _, _ => none

/-- Steps with a context that waits for this tile. -/
def W.fetchWaiters (w : W) (n l va : Nat) (gen : Option Nat) : List Nat :=
  (w.step.steps.filter fun x => x.tasks.any fun t => t.ctxs.any fun c => w.waitsFor n l va gen x t c).map (·.id)

/-- A fetched tile is in its slot: the contexts that wait for it go on, and the spill tiles of a forwarding tile follow (R83), which a
staging that has brought the tile brings too (R54). -/
def W.deliver (w : W) (n l va : Nat) (gen : Option Nat) (pre : Bool) (t : Tile) : W :=
  let spills := if pre then (spillAddrs va t).map fun a => (l, a) else []
  let note (x : Step) : Step :=
    if x.phase = .staged ∧ (l, va) ∈ x.stagedTiles then { x with stagedTiles := (x.stagedTiles ++ spills).dedup } else x
  let w := { w with step.steps := w.step.steps.map note }
  (((w.modEnt l va gen fun e => { e with state := .clean, data := t }).resid l (if pre then 1 else 0) va pre).wakeCtxs
    fun x k c => w.waitsFor n l va gen x k c).fetchSpills l va gen t pre

/-- The outcome of a fetch by the tile as stored: a keystone that does not hold fails both times. -/
def fetchOutcome (t : Tile) : FetchOutcome → FetchOutcome
  | .uncorrectable => .uncorrectable
  | o => if t.keystoneOk then o else .bothBad

/-- A tile fetch arrives (R41, R42, R55, R57). A prefetch that meets an error frees its slot, and the event is counted; no second copy is
read for it. -/
def W.fetched (w : W) (n l va : Nat) (gen : Option Nat) (e : TileEnt) (o : FetchOutcome) : W :=
  let waiters := w.fetchWaiters n l va gen
  let pre := e.prefetch && waiters.isEmpty && e.pin == .none
  let drop (w : W) : W := w.dropEnts l fun q => q.is va gen
  match w.fetchSource n va gen with
  | none => (drop w).wakeCtxs fun x t c => w.waitsFor n l va gen x t c
  | some pa =>
    let t := w.tileAt pa
    let frame := pa / pageBytes
    let tile := pa % pageBytes / tileBytes
    let deck := gen.bind fun g => w.deckTile n va g
    let bad (w : W) (seen : Tile) : W :=
      match deck with
      | some (i, k) => w.deckBad i k
      | none => (w.poisonHome n va).deliver n l va gen e.prefetch seen
    let good (w : W) : W :=
      match deck with
      | some (i, k) =>
        if t.poison || ((w.image i).map fun im => im.bad.contains k).getD false then (if pre then drop w else w.deckBad i k)
        else w.deliver n l va gen e.prefetch t
      | none => w.deliver n l va gen e.prefetch t
    match fetchOutcome t o with
    | .good => good w
    | .corrected => good ((w.count n 0x260 1).rowEvent frame tile .correctedSymbol)
    | .firstBad => let w := w.count n 0x248 1; if pre then drop w else good w
    | .bothBad =>
      if pre then drop (w.count n 0x248 1)
      else
        let w := (w.count n 0x248 2).channelEvent (chanOf frame) .doubleFetch
        if gen.isSome then bad w t
        else bad (w.each waiters fun id w => w.failStep id .keystone (.addr va)) t.poisoned
    | .uncorrectable => let w := w.rowEvent frame tile .uncorrectable; if pre then drop w else bad w t.poisoned

/-- TILE_FETCH_COMPLETE (R41), for one of the fetches that the mover has outstanding (R22). A fetch that found no slot before takes one
now (R47); a context that waits for a tile that has come meanwhile goes on. -/
def execTileFetchComplete (core addr : Nat) (gen : Option Nat) (outcome : FetchOutcome) (s : State) :
    Host.Outcome State Fault Refusal :=
  s.act fun w =>
    let n := w.owner core
    let free := ((w.hotAt n addr gen).getD core) == core
    let w := if free && (w.ent core addr gen).isNone && !(w.fetchWaiters n core addr gen).isEmpty then w.startFetch core addr gen false else w
    w.with (w.ent core addr gen) fun e w =>
      if e.state matches .fetching then
        w.if ((w.core' core).outstanding e) fun w => (w.fetched n core addr gen e outcome).settlePins
      else w.wakeCtxs fun x t c => w.waitsFor n core addr gen x t c

/-! ### Pier barriers and deadlock (R21, R51) -/

/-- Write back tiles of a core that are DIRTY and not HOT-pinned, for a step: the first whose keystone does not hold. -/
def W.writeBack (w : W) (n l : Nat) (vas : List Nat) : Option Nat × W :=
  let es := (w.core' l).tiles.filter fun e => e.state == .dirty && e.pin != .hot && e.gen.isNone && vas.contains e.addr
  match es.find? fun e => !e.data.keystoneOk with
  | some e => (some e.addr, (w.count n 0x248 1).coreEventAt l .coreKeystone)
  | none =>
    (none, w.each es fun e w =>
      let w := w.storeTile n e.addr e.data
      (w.modEnt l e.addr none fun x => { x with state := .clean, data := (w.stored n e.addr).getD x.data }).resid l 6 e.addr false)

/-- Write back on several cores, until a keystone fails; answers the addresses written back. -/
def W.writeBackAll (w : W) (n : Nat) : List (Nat × List Nat) → List (Nat × Nat) → (Option Nat × List (Nat × Nat)) × W
  | [], done => ((none, done), w)
  | (l, vas) :: rest, done =>
    let mine := ((w.core' l).tiles.filter fun e => e.state == .dirty && e.pin != .hot && e.gen.isNone && vas.contains e.addr).map (·.addr)
    match w.writeBack n l vas with
    | (some va, w) => ((some va, done), w)
    | (none, w) => W.writeBackAll w n rest (done ++ mine.map fun va => (l, va))

/-- PIER_BARRIER_RELEASE (R51): every participating task has arrived; the participants' tiles are written back and their
cores invalidate CLEAN copies of those addresses. -/
def execPierBarrierRelease (step pier : Nat) (tasks : List Nat) (s : State) : Host.Outcome State Fault Refusal :=
  s.act fun w => w.with (w.stepOf step) fun x w => w.with (w.program x.span x.handle) fun p w =>
    let ts := x.tasks.filter fun t => tasks.contains t.idx
    w.if (x.phase == .compute && decide (pier < p.piers) && !ts.isEmpty && ts.all fun t => t.core.isSome || t.ended) fun w =>
      let cores := (ts.filterMap (·.core)).dedup
      let jobs := cores.map fun l => (l, (ts.filter fun t => t.core == some l).flatMap (·.written))
      match w.writeBackAll x.span jobs [] with
      | ((some va, _), w) => (w.failStep step .keystone (.addr va)).settlePins
      | ((none, done), w) => (w.each (done.map (·.2)).dedup fun va w => w.each cores fun l w => w.invalidate l va).settlePins

/-- The contexts of a task that wait, with what they wait for: a pier barrier (true) where `piers` says that a READY context stands at
one, or the first token that has not reached its threshold. None for a context that does not wait. -/
def Task.waits (t : Task) (p : Program) (piers : List (Nat × Nat × Nat)) : List (Nat × Option (Nat × Bool)) :=
  t.ctxs.zipIdx.filterMap fun (c, j) => ((p.stream t.idx j)[c.next]?).map fun d =>
    (j, match c.state with
      | .waitToken => ((waitsOf d).find? fun q => decide (t.tokens.getD q.1 0 < q.2)).map fun q => (q.1, false)
      | .ready => (piers.find? fun q => q.1 == t.idx && q.2.1 == j && decide (q.2.2 < p.piers)).map fun q => (q.2.2, true)
      | _ => none)

/-- STEP_DEADLOCK_TIMEOUT (R21): for 50 ms nothing was in flight and every context with descriptors left waited on a token or at a pier
barrier. -/
def execStepDeadlockTimeout (step : StuckStep) (s : State) : Host.Outcome State Fault Refusal :=
  s.act fun w => w.with (w.stepOf step.id) fun x w => w.with (w.program x.span x.handle) fun p w =>
    let open_ := x.tasks.filter fun t => !t.ended
    let all_ := open_.flatMap fun t => (t.waits p step.piers).map fun q => (t.core, q)
    w.if (x.phase == .compute && (all_.all fun q => q.1.isSome && q.2.2.isSome) && !(w.step.inflight.any fun f => f.step == step.id)) fun w =>
      match all_.head? with
      | some (some l, c, some (k, pier)) => (w.failStep step.id .squashed (.token l c k pier)).settlePins
      | _ => w

/-! ### The end of the compute phase, and commit (R24, R50, R107, R188, R213, R216, R244) -/

/-- Does a step hold ACCEPT from every owner of its tickets' tables (R188 step 4)? -/
def W.acceptsHeld (w : W) (x : Step) : Bool :=
  (x.tickets.filter (·.update)).all fun k =>
    match w.table x.span k.table with
    | none => true
    | some t => !(t.voidBy.any fun v => v.1 == k.epoch) && (w.groupRanks x.span t).all fun r => x.accepts.contains (k.table, k.epoch, r)

/-- Steps that wait in their commit phase on a stalled table end. -/
def W.settleStalls (w : W) : W :=
  w.each (w.step.steps.filter fun x => x.phase == .commit && !w.acceptsHeld x
      && x.tickets.any fun k => k.update && ((w.table x.span k.table).map (·.stalled)).getD false) fun x w => w.failStep x.id .squashed .none

/-- COMPUTE_PHASE_END (R24, R188 step 1): the last descriptor has completed. CLOSE goes out for the tickets of an updating
step; one whose epoch is void already, or whose table is stalled, ends. The tiles that name the ranks are checked (R180). -/
def execComputePhaseEnd (step : Nat) (s : State) : Host.Outcome State Fault Refusal :=
  s.act fun w => w.with (w.stepOf step) fun x w =>
    w.if (x.phase == .compute && x.tasks.all (·.ended) && !(w.step.inflight.any fun f => f.step == step)) fun w =>
      let lists := (x.tickets.filter (·.update)).flatMap fun k => ((w.table x.span k.table).map Table.groupTiles).getD []
      match w.carrierFault x.span lists with
      | some (st, va) => ((w.carrierBad x.span (st, va)).failStep step st (.addr va)).settlePins
      | none =>
        let w := w.modStep step fun y => { y with phase := .commit }
        let w := w.each (x.tickets.filter (·.update)) fun k w => w.closeEpoch x.span k.table k.epoch
        w.settleVoids.settleStalls

/-- The new bytes of a learning-rate entry (R105, R107): `u` is what the step found. -/
def lrAdjust (t : Tile) (u : LrUse) : List Byte :=
  let b := t.slice 0 32
  let ups := (rd b 12 4 + 1) % 2 ^ 32
  if u.amax.isZero || u.amax.isNan then b.take 12 ++ leBytes 4 ups ++ b.drop 16
  else
    let top := u.amax.log2
    let a := top - u.e
    let now := a + signed 8 (rd b 0 1)
    let out := decide (now < signed 8 (rd b 2 1)) || decide (signed 8 (rd b 1 1) < now)
    let moves := out && !bit (rd b 3 1) 0
    let e := max (-126) (min 126 (-a))
    let flags := rd b 3 1 - (if bit (rd b 3 1) 1 then 2 else 0) + (if u.sat then 2 else 0)
    let i := (ups + 2 ^ 32 - 1) % 16
    let h := max (-128) (min 127 top)
    (if moves then leBytes 1 (e % 256).toNat else b.take 1) ++ (b.drop 1).take 2 ++ leBytes 1 flags
      ++ leBytes 4 (rd b 4 4 + (if moves then 1 else 0)) ++ leBytes 4 (FloatFmt.fp32.encode u.amax) ++ leBytes 4 ups
      ++ (((b.drop 16).take 16).set i (BitVec.ofNat 8 (h % 256).toNat))

/-- Adjust the learning-rate entries that a step updated (R107). -/
def W.adjustLr (w : W) (x : Step) : W :=
  w.each x.lr fun u w => w.with (w.rowTile x.span u.addr) fun t w => w.patchTile x.span u.addr 0 (lrAdjust t u)

/-! ### The cadence of securing (R352 to R354) -/

/-- a / b rounded to FP32. -/
def rneQuot (a b : Nat) : Num :=
  if a = 0 ∨ b = 0 then .zero false
  else
    let q := a * 2 ^ 300 / b
    (FloatFmt.fp32.rne (.fin false (2 * q + (if q * b = a * 2 ^ 300 then 0 else 1)) (-301))).v

/-- Quotient of two FP32 values, rounded to FP32. -/
def fp32Div : Num → Num → Num
  | .fin _ m e, .fin _ k f => if k = 0 then FloatFmt.fp32.largest false else (FloatFmt.fp32.rne ((rneQuotExact m k).scale (e - f))).v
  | _, _ => .nan
where
  /-- m / k with a sticky last bit. -/
  rneQuotExact (m k : Nat) : Num :=
    let q := m * 2 ^ 300 / k
    .fin false (2 * q + (if q * k = m * 2 ^ 300 then 0 else 1)) (-301)

/-- floor of a non-negative value. -/
def Num.floorNat : Num → Nat
  | .fin false m e => if 0 ≤ e then m * 2 ^ e.toNat else m / 2 ^ (-e).toNat
  | _ => 0

/-- The interval of R353, in FP32: `c` the pauses in us, `stamps` of the counted commits in ns, `risk` of R417. -/
def secureInterval (p : Policy) (c stamps : List Nat) (risk : Nat) : Nat :=
  let f := FloatFmt.fp32
  let lam := (f.decode p.lambda).1
  if lam.isZero || lam.sign || lam.isNan then p.k
  else
    let pause := if c.isEmpty then rneQuot 1 100 else rneQuot c.sum (c.length * 1000000)
    let tStep := if stamps.length < 65 then rneQuot 1 10 else rneQuot (stamps.getLastD 0 - stamps.headD 0) 64000000000
    let one := FV.of (.ofNat 1)
    let le := (f.mul (FV.of (fp32Div lam (.ofNat 3600))) (f.add one (FV.of (rneQuot risk 4096)))).v
    let r := trans 6 (FV.of (fp32Div (f.mul (FV.of (.ofNat 2)) (FV.of pause)).v le))
    max 1 (min p.k (fp32Div r.v tStep).floorNat)

/-- A counted step has committed (R352): its time counts towards T_step (R353), N advances, and the cadence, or an abort of the last point,
may make a secure point due (R353, R354, R357). -/
def W.countStep (w : W) (n : Nat) : W :=
  let now := (Config.timeStamp w.free).toNat
  let gaps := (w.sp n).gaps
  let stamps := (gaps ++ [now]).drop (gaps.length + 1 - 65)
  let w := { w with free := w.free + 1 }.modSp n fun x => { x with gaps := stamps }
  match w.secOf n with
  | none => w
  | some s =>
    let k := s.n + 1
    let i := secureInterval s.policy s.pauses stamps ((Sparse.get hltReset w.obs.hlt 0x6000).toNat % 65536)
    let due := if s.policy.sync then k % 2 ^ Nat.log2 i == 0 else decide (i ≤ k - s.nSec)
    w.modSec n fun s => { s with n := k, due := s.due || due || s.again, again := false }

/-- An UPDATE step of a ring has committed (R244): at the cadence, an evaluation is due, or is missed. -/
def W.countUpdate (w : W) (x : Step) (p : Program) : W :=
  if p.evalEvery = 0 then w
  else
    let n := x.span
    let k := (w.sched n x.ring).updates + 1
    if k < p.evalEvery then w.modSched n x.ring fun g => { g with updates := k }
    else
      let w := w.modSched n x.ring fun g => { g with updates := 0 }
      if (w.ringHead n p.evalRing).isSome then w.modSched n x.ring fun g => { g with evalDue := some p.evalRing }
      else w.count n 0x228 1

/-- The step commits (R24): written tiles go home with their keystones, copies elsewhere are invalidated (R50), learning-rate
entries are adjusted, ended requests close, and the reply follows in ring order. -/
def W.commit (w : W) (x : Step) : W :=
  let n := x.span
  match w.writeBackAll n ((w.coresOf n).map fun l => (l, x.written)) [] with
  | ((some va, _), w) => w.failStep x.id .keystone (.addr va)
  | ((none, done), w) =>
    let w := w.each done fun (l, va) w => w.invalidateOthers n l va
    let w := w.adjustLr x
    let w := w.each (x.requests.filter fun e => bit e.flags 1) fun e w => w.closeRequest n e.reqId
    let w := match w.program n x.handle with
      | some p =>
        let w := if p.kind == StepKind.update then w.countUpdate x p else w
        if p.kind.counted then w.countStep n else w
      | none => w
    w.endStep x.id .ok .none

/-- STEP_COMMIT (R24): every Viaduct put is acknowledged and every owner has accepted. -/
def execStepCommit (step : Nat) (s : State) : Host.Outcome State Fault Refusal :=
  s.act fun w => w.with (w.stepOf step) fun x w =>
    w.if (x.phase == .commit && x.putsOpen == 0 && w.acceptsHeld x) fun w => (w.commit x).settlePins

/-! ### Sleep (R239, R383) -/

/-- Does a core hold a task, or a placement by run-ahead? -/
def W.hostsWork (w : W) (l : Nat) : Bool :=
  w.busyCore l || w.step.steps.any fun x => x.phase == .staged && x.tasks.any fun t => t.core == some l

/-- Logical cores of a cluster. -/
def W.coresIn (w : W) (c : Nat) : List Nat := (List.range 128).filter fun l => match w.physOf l with | some k => k / 9 == c | none => false

/-- CLUSTER_SLEEP (R239): 1 ms without a task or a run-ahead placement, and no HOT pin in its slots. -/
def execClusterSleep (cluster : Nat) (s : State) : Host.Outcome State Fault Refusal :=
  s.act fun w =>
    let ls := w.coresIn cluster
    w.if (decide (cluster < 16) && w.serving && !(w.cluster cluster).asleep && !(ls.any fun l => w.hostsWork l)
        && !(ls.any fun l => (w.core' l).tiles.any fun e => e.pin == .hot)
        && !(w.core.tests.any fun j => j.cores.any fun c => c / 9 == cluster)) fun w =>
      w.modCluster cluster fun x => { x with asleep := true, waking := false }

/-- CLUSTER_WAKE_DONE (R239, R371, R383): the cluster runs again, at the voltage its process monitors set; its die wakes with
it. -/
def execClusterWakeDone (cluster : Nat) (s : State) : Host.Outcome State Fault Refusal :=
  s.act fun w =>
    let c := w.cluster cluster
    w.if (decide (cluster < 16) && c.asleep && c.waking && !c.dead) fun w =>
      let (v, w) := w.freeVal
      (w.modCluster cluster fun x => { x with asleep := false, waking := false, millivolts := 600 + 5 * (v.toNat % 61) }).modDie (cluster / 4)
        fun d => { d with asleep := false }

/-- DIE_SLEEP (R383): its four clusters have slept for 10 ms, and DIE_SLEEP_EN is set. -/
def execDieSleep (die : Nat) (s : State) : Host.Outcome State Fault Refusal :=
  s.act fun w =>
    w.if (decide (die < 4) && bit (w.regv 0 0x550C) 1 && !(w.die die).resetting
        && (List.range 4).all fun k => (w.cluster (4 * die + k)).asleep && !(w.cluster (4 * die + k)).waking) fun w =>
      w.modDie die fun d => { d with asleep := true }

end Sys2Proof.Machine
end

