-- ==== Sys2Proof/Machine/Tables.lean ====
section
/-! DEFINITION. Embedding tables at their owner and on the command ring: creation, the hot set, look-ups, coalescing, the epoch
barrier, the update unit, migrating rows (R180 to R199). -/

namespace Sys2Proof.Machine

open Sys2Proof

/-! ### Regions and TABLE_CREATE (R180) -/

/-- Pages from a page on that are mapped WRITABLE without a gap, at most `k`. -/
def W.writableRun (w : W) (n : Nat) : Nat → Nat → Nat
  | 0, _ => 0
  | k + 1, vp =>
    match w.page n vp with
    | some e => if e.writable && !e.deck then W.writableRun w n k (vp + 1) + 1 else 0
    | none => 0

/-- May `k` tiles from a tile on be a region of a table: their first page is WRITABLE, and the WRITABLE pages that follow reach
over them? -/
def W.regionFault (w : W) (n a k : Nat) : Option Status :=
  let run := w.writableRun n w.hbm.pages.length (a / pageBytes)
  if k = 0 then none
  else if run = 0 then some .refusedPermission
  else if run * pageTiles < a % pageBytes / tileBytes + k then some .refusedFit
  else none

/-- A table from its descriptor (R180), with every epoch at 0. -/
def Table.ofDesc (b : List Byte) : Table :=
  let fl := rd b 7 1
  { id := rd b 0 2, dim := rd b 2 2 + 1, opt := rd b 4 1, range := rd b 5 1 == 1, idBits := rd b 6 1, determ := bit fl 0,
    stale := bits fl 5 1, seed := rd b 8 4, coalEntries := rd b 12 4, addrRows := rd b 16 6, group := rd b 22 2 + 1,
    addrMap := rd b 24 6, mapEntries := rd b 30 2, addrCoal := rd b 32 6, localRows := rd b 40 6, addrDir := rd b 48 6,
    dirLog2 := rd b 54 1, addrUpd := rd b 56 6, ticket := 0, applied := 0, applying := none, closes := [], closing := [],
    voids := [], voidBy := [], overflow := [], records := [], snaps := [], dir := [], held := [], stalled := false, moves := [],
    hot := [], fold := none, lastA := .zero false, lastSat := false }

/-- Are the fields of a table descriptor in range, and its resv fields zero? -/
def descriptorOk (b : List Byte) : Bool :=
  let hash := rd b 5 1 == 0
  decide (rd b 0 2 ≤ 1023) && decide (rd b 2 2 ≤ 1023) && decide (rd b 4 1 ≤ 2) && decide (rd b 5 1 ≤ 1)
    && (if hash then decide (10 ≤ rd b 6 1) && decide (rd b 6 1 ≤ 40) && rd b 30 2 == 0
        else rd b 6 1 == 0 && decide (1 ≤ rd b 30 2) && decide (rd b 30 2 ≤ 4096))
    && decide (rd b 7 1 < 64) && decide (bits (rd b 7 1) 5 1 ≤ 16) && decide (rd b 22 2 < 16384) && decide (rd b 54 1 ≤ 20)
    && rd b 38 2 == 0 && rd b 46 2 == 0 && rd b 55 1 == 0 && rd b 62 2 == 0
    && rd b 16 6 % pageBytes == 0 && isTileAddr (rd b 16 6) && isTileAddr (rd b 24 6) && isTileAddr (rd b 32 6)
    && (rd b 54 1 == 0 || isTileAddr (rd b 48 6)) && isTileAddr (rd b 56 6)

/-- Regions of a table: first tile and tiles. -/
def Table.regions (t : Table) : List (Nat × Nat) :=
  [(t.addrRows, t.rowTiles), (t.addrCoal, ceilDiv (t.coalEntries * (16 + 4 * t.dim)) 4096),
   (t.addrDir, if t.dirLog2 = 0 then 0 else ceilDiv (32 * 2 ^ t.dirLog2) 4096), (t.addrUpd, 1)]

/-- TABLE_CREATE (R180). An id that the span uses already is a field out of range. -/
def execTableCreate (p : Pkt) (s : State) : Host.Outcome State Fault Refusal :=
  s.act fun w => w.intake opTableCreate p fun c w =>
    let t := Table.ofDesc p.block
    let faults := t.regions.filterMap fun (a, k) => w.regionFault c.fn a k
    if !descriptorOk p.block || (w.table c.fn t.id).isSome then w.answer c .refusedFormat
    else if faults.contains .refusedPermission then w.answer c .refusedPermission
    else if !faults.isEmpty then w.answer c .refusedFit
    else (w.setTable c.fn t.id (some t)).answer c .ok

/-! ### Lists that a command names -/

/-- The first tile of a list that cannot be read: its number and the status (R34, R41, R42). -/
def W.listBad (w : W) (n a k : Nat) : Option (Status × Nat) :=
  (List.range k).findSome? fun i =>
    match w.rowTile n (tileAfter a i) with
    | none => some (.refusedPermission, i)
    | some t => if !t.keystoneOk then some (.keystone, i) else if t.poison then some (.poisoned, i) else none

/-! ### The hot set (R195, R196) -/

/-- Rows whose map home is a rank: under RANGE as far as the map's entries for it reach, under HASH the indices that R181 gives it. -/
def W.rowsOf (w : W) (n : Nat) (t : Table) (rank : Nat) : Nat :=
  let at_ (o k : Nat) : Nat := w.streamNum n t.addrMap o k
  if t.range then
    (List.range (t.mapEntries - 1)).foldl (fun m i =>
      if at_ (16 * i + 6) 2 = rank then max m (at_ (16 * i + 8) 6 + (at_ (16 * (i + 1)) 6 - at_ (16 * i) 6)) else m) 0
  else ceilDiv (2 ^ t.idBits) (max 1 t.group)

/-- Local rows with the folded slots, of which the failed rank's rows need so many here (R365). -/
def W.rowsHere (w : W) (n : Nat) (t : Table) : Nat :=
  t.localRows + (match t.fold with
    | some (f, _) => ceilDiv (w.rowsOf n t f) (max 1 (w.groupRanks n t).length)
    | none => 0)

/-- Is a local row a folded one whose flip has not fallen (R365)? It counts as a row that moves (R198). -/
def Table.folding (t : Table) (j : Nat) : Bool := decide (t.localRows ≤ j) && t.fold.isSome && !t.foldFlipped

/-- The local tiles of listed rows that this rank owns and that do not move, and the number of rows skipped; none where a row is
not one of the table. -/
def W.hotTiles (w : W) (n : Nat) (t : Table) (rows : List Nat) : Option (List Nat × Nat) :=
  let homes := rows.map fun r =>
    if t.dir.any fun d => d.row == r && d.state == .moving then some none
    else (w.ownerOf n t r).map fun h => if w.isSelf t h.1 && !t.folding h.2 then some h.2 else none
  if homes.any fun h => h.isNone || (h.map fun j => (j.map fun j => decide (w.rowsHere n t ≤ j)).getD false).getD false then none
  else
    let js := homes.filterMap fun h => h.getD none
    some ((js.flatMap fun j => (t.rowAt j).1).dedup, rows.length - js.length)

/-- Would these pins break R49, core by core? -/
def W.hotFit (w : W) (n : Nat) (pins : List (Nat × Nat)) : Bool :=
  (w.coresOf n).all fun l =>
    let vas := ((pins.filter fun q => q.1 == l).map (·.2)).filter fun va => !((w.core' l).tiles.any fun e => e.addr == va && e.pin != .none)
    (vas.isEmpty || w.pinsFit l vas.length) && pins.all fun q => (w.hotAt n q.2).getD q.1 == q.1

/-- A refresh that no application holds back (R196 steps 2 to 4): the old pins go, the new ones come as slots do, and the reply with the last.
A set that breaks R49 is refused and the old one stays (R195). Pins of an earlier refresh that still wait are given up (log entry 141). -/
def W.refreshHot (w : W) (n id : Nat) (r : Refresh) : W :=
  w.with (w.table n id) fun t w =>
    let ls := (w.coresOf n).filter w.placeable
    let free := w.each t.hot fun (l, va) w => w.unpin n l [va]
    let pins := r.vas.zipIdx.filterMap fun (va, i) => (ls[i % ls.length]?).map fun l => (l, va)
    if pins.length < r.vas.length || !free.hotFit n pins then w.finish r.cmd .refusedFit
    else
      let w := free.modTable n id fun t => { t with hot := pins }
      let old := updateWhere (fun (j : PinJob) => j.span == n && j.table == some id) (fun j => { j with left := [] }) w.core.pinJobs
      let j : PinJob := { cmd := r.cmd, span := n, cls := .hot, left := pins, table := some id, count := r.skipped }
      { w with core.pinJobs := old ++ [j] }.settlePins

/-- HOTSET_REFRESH (R195, R196). An application in progress completes first. A tile that finds no slot waits for one (R47), and no epoch is
applied until the last has its own. The tiles of the map that name the rows' owners are checked (R180). -/
def execHotsetRefresh (p : Pkt) (s : State) : Host.Outcome State Fault Refusal :=
  s.act fun w => w.intake opHotsetRefresh p fun c w =>
    let n := c.fn
    let k := p.arg 24 4
    let a := p.arg 16 6
    match (if p.arg 12 2 < 1024 then w.table n (p.arg 12 2) else none) with
    | none => w.answer c .refusedFormat
    | some t =>
      if 65536 < k || !isTileAddr a then w.answer c .refusedFormat
      else
        match w.listBad n a (ceilDiv k 512) with
        | some (st, i) => (if st = .keystone then w.listTileBad n (tileAfter a i) else w).answer c st (.index 4 i)
        | none =>
          let rows := (List.range k).map fun i => w.streamNum n a (8 * i) 8
          match w.carrierFault n (rows.flatMap t.mapTiles).dedup with
          | some (st, va) => (w.carrierBad n (st, va)).answer c st (.addr va)
          | none =>
            match w.hotTiles n t rows with
            | none => w.answer c .refusedFormat
            | some (vas, skipped) =>
              let r : Refresh := { cmd := c.id, vas := vas, skipped := skipped }
              let w := w.begin c
              if t.applying.isSome then w.modTable n t.id fun t => { t with refresh := t.refresh ++ [r] }
              else w.refreshHot n t.id r

/-! ### Look-ups at the owner (R184, R189, R190, R198) -/

/-- What an owner answers to a look-up: the record, whether a tile of it is poisoned and whether one carries the gradient flag; or
why there is none. -/
inductive LookRes where
  | row (rec_ : List Byte) (poison grad : Bool)
  | moved (rank : Nat)
  | stalled
  | bad
  | fault (st : Status) (va : Nat)
  | hold
deriving DecidableEq, Repr

/-- Is the epoch condition of R189 met? -/
def Table.ready (t : Table) (epoch : Nat) (update : Bool) : Bool :=
  if update then decide (epoch ≤ t.applied + 1 + t.stale) else decide (epoch ≤ t.applied + t.stale)

/-- Does a local index lie in the folded slots, which wait for their restore (R365)? -/
def Table.awaits (t : Table) (j : Nat) : Bool := decide (t.localRows ≤ j) && (t.fold.map (·.2)) == some false

/-- An owner looks at a look-up. The tiles of the map that name the row's owner are checked (R180). -/
def W.lookUp (w : W) (n : Nat) (t : Table) (epoch : Nat) (update : Bool) (row : Nat) : LookRes :=
  if t.stalled then .stalled
  else
    match w.carrierFault n (t.mapTiles row), w.ownerOf n t row with
    | some (st, va), _ => .fault st va
    | none, none => .bad
    | none, some (r, j) =>
      if !w.isSelf t r then .moved r
      else if w.rowsHere n t ≤ j then .bad
      else if t.awaits j || !t.ready epoch update then .hold
      else
        match w.readRow n t j with
        | some (b, p) => .row b p (w.rowGrad n t j)
        | none =>
          let va := ((t.rowAt j).1.find? fun va => (w.rowTile n va).isNone).getD 0
          if w.locate n [] va = .lost then .row [] true false else .fault .refusedPermission va

/-- The same, where the read of the row may be uncorrectable (`bad`): its tiles in HBM are poisoned from then on (R42, R184). A row in a
HOT pin's slot is not read from HBM. A tile of the map whose keystone mismatches is counted (R40, R180). -/
def W.lookUpAt (w : W) (n : Nat) (t : Table) (epoch : Nat) (update : Bool) (row : Nat) (bad : Bool) : LookRes × W :=
  match w.lookUp n t epoch update row, bad with
  | .fault st va, _ => (.fault st va, w.carrierBad n (st, va))
  | .row b p g, true =>
    let vas := (((w.ownerOf n t row).map fun h => (t.rowAt h.2).1).getD []).filter fun va => (w.hotAt n va).isNone
    (.row b (p || !vas.isEmpty) g, w.each vas fun va w => w.spoilTile n va)
  | r, _ => (r, w)

/-- Hold a look-up. One that its epoch holds back is counted (R189); one of a folded row that waits for its restore is not (R365). -/
def W.holdLook (w : W) (n id : Nat) (h : HeldLook) : W :=
  let late := ((w.table n id).map fun t => !t.ready h.epoch h.update).getD false
  (w.modTable n id fun t => { t with held := t.held ++ [h] }).count n 0x1C8 (if late then 1 else 0)

/-- The payload of a look-up, a get of one row (log entry 22). -/
def lookBody (num table epoch : Nat) (update : Bool) (row : Nat) : List Byte :=
  leBytes 1 1 ++ leBytes 8 num ++ leBytes 2 table ++ leBytes 4 epoch ++ leBytes 1 (if update then 1 else 0) ++ leBytes 8 row

/-- An owner's answer to a remote look-up: a get response, or a redirect after the flip (R198). -/
def W.answerLook (w : W) (n src span num : Nat) (r : LookRes) : W :=
  let resp (k : Nat) (rest : List Byte) (w : W) : W := w.send n src span 0 false tyGetResp lookArg (leBytes 1 1 ++ leBytes 8 num ++ leBytes 1 k ++ rest) none
  match r with
  | .row b p g => resp 0 (leBytes 1 ((if p then 1 else 0) + (if g then 2 else 0)) ++ b) w
  | .moved rk => (w.count n 0x1D0 1).send n src span 0 true tyRedirect 0 (leBytes 8 num ++ leBytes 2 rk) none
  | .stalled => resp 1 [] w
  | .bad => resp 2 [] w
  | .fault st va => resp 3 (leBytes 1 st.code ++ leBytes 8 va) w
  | .hold => w

/-! ### Look-ups at the requester (R184, R185) -/

/-- A pad (R183). -/
def padId : Nat := 0xFFFFFFFFFFFFFFFF

/-- Output rows of an EMB_LOOKUP once every row is there (R185), with the gradient flag of what was read for each (R103). A row of a pad
without POOL holds open values (log entry 107). -/
def Act.lookRows : Act Unit := do
  let e ← get
  match e.fl.look with
  | none => pure ()
  | some k =>
    let f := FloatFmt.fp32
    let dec (c : Nat) : FV := FV.of (f.decode c).1
    let vec (i c : Nat) : FV := match k.rows.find? fun r => r.1 == i with
      | some (_, b, _) => dec (rd b (8 + 4 * c) 4)
      | none => FV.of (.zero false)
    let wt (i : Nat) : FV := match k.weights[i]? with | some c => dec c | none => FV.of (.ofNat 1)
    let flag (i : Nat) : Bool := k.flags.getD i false || k.rows.any fun r => r.1 == i && r.2.2
    Act.input (k.rows.flatMap fun (_, b, _) => (List.range k.dim).map fun c => (f.decode (rd b (8 + 4 * c) 4)).2)
    let els : List (List Lane) := if k.offs.isEmpty then
        k.ids.zipIdx.map fun (r, i) => (List.range k.dim).map fun c =>
          (if r = padId then FV.of (e.openNum (i * k.dim + c)) else f.mul (wt i) (vec i c), flag i)
      else
        (List.range (k.offs.length - 1)).map fun b =>
          let lo := k.offs.getD b 0
          let all_ := (List.range (k.offs.getD (b + 1) 0 - lo)).map (lo + ·)
          let is := all_.filter fun i => k.ids.getD i padId != padId
          let g := k.flags.getD (k.ids.length + b) false || all_.any flag
          (List.range k.dim).map fun c => (is.foldl (fun acc i => f.fma (wt i) (vec i c) acc) (FV.of (.zero false)), g)
    Act.storePlain ((Fmt.ofCode k.fmt).getD .fp32) f k.addr els.flatten false 0

/-- The descriptor that waits for a look-up. -/
def W.lookOf (w : W) (num : Nat) : Option InFlight :=
  w.step.inflight.find? fun f => (f.look.map fun k => k.pend.any fun q => q.1 == num).getD false

/-- Replace the record of a descriptor that an engine holds. -/
def W.setInFlight (w : W) (f : InFlight) : W :=
  { w with step.inflight := updateWhere (fun g => g.same f) (fun _ => f) w.step.inflight }

/-- When the last row of an EMB_LOOKUP has come, its output rows are formed. -/
def W.settleLook (w : W) (f : InFlight) : W :=
  let left := ((f.look.map fun k => k.pend.length + k.rest.length).getD 0)
  let f := { f with remote := left }
  if left ≠ 0 then w.setInFlight f
  else
    w.with (w.stepOf f.step) fun x w =>
      let e : Eng := { w := w, x := x, task := f.task, ctx := f.ctx, dseq := f.dseq, core := f.core, desc := [], vlen := 0, fl := f, cap := [] }
      let (_, e) := Act.lookRows.exec e
      e.w.setInFlight e.fl

/-- Ask a rank for a row. -/
def W.askRow (w : W) (n : Nat) (k : Look) (num i rank : Nat) (step : Nat) : W :=
  w.send n rank n 0 false tyGetReq 0 (lookBody num k.table k.epoch k.update (k.ids.getD i 0)) (some step)

/-- One index of an EMB_LOOKUP is looked up: answered at once by a row of this module, held, or asked of another rank (R184, R189). -/
def W.lookOne (w : W) (n step : Nat) (t : Table) (k : Look) (i : Nat) : Except (Status × Detail) Look × W :=
  let row := k.ids.getD i padId
  let (num, w) := w.fresh
  let asked : Look := { k with pend := k.pend ++ [(num, i, false)] }
  match w.lookUpAt n t k.epoch k.update row (k.bad.contains i) with
  | (.row b p g, w) =>
    if p then (.error (.poisoned, .index 2 i), w)
    else if !t.vkeyOk b then (.error (.keystone, .index 2 i), w)
    else (.ok { k with rows := k.rows ++ [(i, b, g)] }, w)
  | (.hold, w) =>
    (.ok asked, w.holdLook n k.table { id := num, epoch := k.epoch, update := k.update, row := row, src := w.rank.getD 0, span := n })
  | (.moved rk, w) => (.ok asked, w.askRow n k num i rk step)
  | (.stalled, w) => (.error (.squashed, .none), w)
  | (.bad, w) => (.error (.refusedFormat, .index 2 i), w)
  | (.fault st va, w) => (.error (st, .addr va), w)

/-- Look up indices in order while the gather engine may have another request outstanding: 512 at most, `busy` of them of other
descriptors (R22). The others wait. -/
def W.lookMany (w : W) (n step busy : Nat) (t : Table) : List Nat → Look → Except (Status × Detail) Look × W
  | [], k => (.ok { k with rest := [] }, w)
  | i :: is, k =>
    if 512 ≤ busy + k.pend.length then (.ok { k with rest := i :: is }, w)
    else
      match w.lookOne n step t k i with
      | (.ok k, w) => W.lookMany w n step busy t is k
      | (.error e, w) => (.error e, w)

/-- Requests that the gather engine of a core has outstanding for other descriptors than one (R22). -/
def W.gatherBusy (w : W) (l : Nat) (own : InFlight → Bool) : Nat :=
  ((w.step.inflight.filter fun g => g.core == l && !own g).map fun g => ((g.look.map fun k => k.pend.length).getD 0)).sum

/-- An EMB_LOOKUP goes on: indices that wait are looked up as far as R22 lets them, and the rows are formed when none is open. -/
def W.lookOn (w : W) (f : InFlight) : W :=
  w.with f.look fun k w => w.with (w.stepOf f.step) fun x w => w.with (w.table x.span k.table) fun t w =>
    match w.lookMany x.span x.id (w.gatherBusy f.core fun g => g.same f) t k.rest k with
    | (.error (st, d), w) => w.failStep x.id st d
    | (.ok k, w) => w.settleLook { f with look := some k }

/-- A request of a descriptor has ended: it goes on, and so do others of its core that wait for a request. -/
def W.lookFreed (w : W) (f : InFlight) : W :=
  let fs := (w.setInFlight f).step.inflight.filter fun g => g.same f || (g.core == f.core && (g.look.map fun k => !k.rest.isEmpty).getD false)
  (w.setInFlight f).each fs fun g w => w.with (w.step.inflight.find? fun h => h.same g) fun g w => w.lookOn g

/-- What reading a row does to the step that asked; `src` is the rank that answered, none for this module. A row read from another rank
counts as such with its descriptor (R201). -/
def W.takeRow (w : W) (f : InFlight) (k : Look) (num i : Nat) (again : Bool) (src : Option Nat) (r : LookRes) : W :=
  w.with (w.stepOf f.step) fun x w =>
    match r with
    | .row b p g =>
      let ok := ((w.table x.span k.table).map fun t => t.vkeyOk b).getD false
      if p then w.failStep x.id .poisoned (.index 2 i)
      else if ok then
        let k := { k with pend := k.pend.filter fun q => q.1 != num, rows := k.rows ++ [(i, b, g)] }
        w.lookFreed { f with look := some k, cnts := if src.isSome then f.cnts ++ [(0x1A8, 1)] else f.cnts }
      else
        match src with
        | some rk =>
          if again then w.failStep x.id .keystone (.index 2 i)
          else
            let k := { k with pend := k.pend.map fun q => if q.1 = num then (num, i, true) else q }
            (w.setInFlight { f with look := some k }).askRow x.span k num i rk x.id
        | none => w.failStep x.id .keystone (.index 2 i)
    | .stalled => w.failStep x.id .squashed .none
    | .bad => w.failStep x.id .refusedFormat (.index 2 i)
    | .fault st va => w.failStep x.id st (.addr va)
    | _ => w

/-- An answer to a look-up has come (R184, R198). -/
def W.lookArrived (w : W) (num : Nat) (src : Option Nat) (r : LookRes) : W :=
  w.with (w.lookOf num) fun f w => w.with f.look fun k w =>
  w.with (k.pend.find? fun q => q.1 == num) fun (_, i, again) w => w.with (w.stepOf f.step) fun x w =>
    match r with
    | .moved rk =>
      match w.table x.span k.table with
      | none => w
      | some t =>
        if w.isSelf t rk then
          let row := k.ids.getD i 0
          match w.lookUpAt x.span t k.epoch k.update row false with
          | (.hold, w) => w.holdLook x.span k.table { id := num, epoch := k.epoch, update := k.update, row := row, src := rk, span := x.span }
          | (.moved _, w) => w.failStep x.id .refusedFormat (.index 2 i)
          | (r, w) => w.takeRow f k num i again none r
        else w.askRow x.span k num i rk x.id
    | r => w.takeRow f k num i again src r

/-- Give a held look-up its answer: to this module's engine, or over Viaduct. -/
def W.deliverLook (w : W) (n : Nat) (t : Table) (h : HeldLook) (r : LookRes) : W :=
  if w.isSelf t h.src then w.lookArrived h.id none r else w.answerLook n h.src h.span h.id r

/-- A look-up from another rank reaches its owner; `bad` tells that the read of the row is uncorrectable. -/
def W.gotLook (w : W) (n src span : Nat) (b : List Byte) (bad : Bool) : W :=
  let num := rd b 1 8
  let id := rd b 9 2
  match w.table n id with
  | none => w.answerLook n src span num .bad
  | some t =>
    let h : HeldLook := { id := num, epoch := rd b 11 4, update := rd b 15 1 == 1, row := rd b 16 8, src := src, span := span }
    match w.lookUpAt n t h.epoch h.update h.row bad with
    | (.hold, w) => w.holdLook n id h
    | (r, w) => w.answerLook n src span num r

/-- LOOKUP_SERVE (R189): a held look-up, by its place in the order of arrival, may be served now; `bad` tells that the read of the row is
uncorrectable (R184). -/
def execLookupServe (span table : Nat) (look : ServedLook) (s : State) : Host.Outcome State Fault Refusal :=
  s.act fun w => w.with (w.table span table) fun t w => w.with (t.held[look.held]?) fun h w =>
    match w.lookUpAt span t h.epoch h.update h.row look.bad with
    | (.hold, w) => w
    | (r, w) => (w.modTable span table (fun t => { t with held := t.held.eraseIdx look.held })).deliverLook span t h r

/-! ### Coalescing (R191, R192) -/

/-- A sum of a record, with its history. -/
def RowRecord.sum (r : RowRecord) (i : Nat) : FV := ⟨(FloatFmt.fp32.decode (r.sums.getD i 0)).1, r.evs.getD i {}⟩

/-- The record with these sums. -/
def RowRecord.withSums (r : RowRecord) (l : List FV) : RowRecord :=
  { r with sums := l.map fun x => FloatFmt.fp32.encode x.v, evs := l.map (·.ev) }

/-- Another record for the same row joins one: element-wise sums, by RNE. -/
def RowRecord.plus (r q : RowRecord) : RowRecord :=
  r.withSums ((List.range (min r.sums.length q.sums.length)).map fun i => FloatFmt.fp32.add (r.sum i) (q.sum i))

/-- Payload of a row-update record: table, row, tag, sums; ARG holds the epoch, and the table once more (log entry 22). -/
def RowRecord.body (r : RowRecord) : List Byte :=
  leBytes 2 r.table ++ leBytes 6 r.row ++ leBytes 2 r.tag.rank ++ leBytes 2 r.tag.task ++ leBytes 1 r.tag.ctx ++ leBytes 4 r.tag.dseq
    ++ leBytes 4 r.tag.window ++ r.sums.flatMap (leBytes 4)

/-- A record from its frame. -/
def RowRecord.ofBody (epoch : Nat) (b : List Byte) : RowRecord :=
  { table := rd b 0 2, epoch := epoch, row := rd b 2 6,
    tag := { rank := rd b 8 2, task := rd b 10 2, ctx := rd b 12 1, dseq := rd b 13 4, window := rd b 17 4 },
    sums := (List.range ((b.length - 21) / 4)).map fun i => rd b (21 + 4 * i) 4 }

/-- A record reaches this module as its row's owner (R190 to R192). One for an epoch already closed or void is discarded; one for
a row that has moved on goes to its owner; one without a free entry voids its epoch. A record that comes from the rank which this
module's directory still takes for the owner is one forwarded at a flip (R198 step 4) whose DIR_UPDATE is still on its way: it stays.
`step` is the step of this module that formed it, `src` the rank that it came from. -/
def W.coalesce (w : W) (n : Nat) (r : RowRecord) (step src : Option Nat) : W :=
  match w.table n r.table with
  | none => w
  | some t =>
    match w.ownerOf n t r.row with
    | none => w
    | some (rk, _) =>
      if !w.isSelf t rk && src != some rk then w.send n rk n 0 false tyRowRec (recArg r.table r.epoch) r.body step
      else
        let w := w.count n 0x1B8 1
        if r.epoch ≤ t.applied || t.voids.contains r.epoch || t.applying == some r.epoch then
          (w.setTable n r.table (some { t with discarded := t.discarded + 1 })).health n unitAbut (.table r.table)
        else
          let same (q : RowRecord) : Bool := q.epoch == r.epoch && q.row == r.row
          if !t.determ && t.records.any same then
            w.setTable n r.table (some { t with records := updateWhere same (fun q => q.plus r) t.records })
          else if t.coalEntries ≤ t.records.length then (w.voidEpoch n r.table r.epoch (w.rank.getD 0) true).settleVoids
          else w.setTable n r.table (some { t with records := t.records ++ [r] })

/-- Order of the deterministic mode (R191). -/
def RecTag.le (a b : RecTag) : Bool :=
  let k (t : RecTag) : Nat := (((t.rank * 2 ^ 16 + t.task) * 2 ^ 8 + t.ctx) * 2 ^ 32 + t.dseq) * 2 ^ 32 + t.window
  decide (k a ≤ k b)

/-- Insert a record by its tag. -/
def insertRec (r : RowRecord) : List RowRecord → List RowRecord
  | [] => [r]
  | q :: qs => if r.tag.le q.tag then r :: q :: qs else q :: insertRec r qs

/-- One entry for each row of an epoch: its records summed, in tag order under DETERMINISTIC (R191). -/
def Table.entries (t : Table) (epoch : Nat) : List RowRecord :=
  let rs := t.records.filter fun r => r.epoch == epoch
  let rows := (rs.map (·.row)).dedup
  rows.filterMap fun row =>
    match (rs.filter fun r => r.row == row).foldr insertRec [] with
    | [] => none
    | q :: qs => some (qs.foldl RowRecord.plus q)

/-! ### The update unit (R193, R194) -/

/-- apply of R193: the new record; the scaled updates of its elements, each with whether it saturated by itself (R106); and the events of
the elements written, those of summing an entry on this rank among them (R86, R87, R98). -/
def Table.applyTo (t : Table) (snap : Tile) (epoch : Nat) (q : RowRecord) (r : List Byte) : List Byte × List (FV × Bool) × List Ev :=
  let f := FloatFmt.fp32
  let dec (c : Nat) : FV := FV.of (f.decode c).1
  let enc (x : FV) : List Byte := leBytes 4 (f.encode x.v)
  let d := t.dim
  let ex := signed 8 (snap.num 0 1)
  let hy := Hyper.of snap 32
  let s := f.rne (hy.lr.v.scale ex)
  let g (i : Nat) : FV := q.sum i
  let w (i : Nat) : FV := dec (rd r (8 + 4 * i) 4)
  let st (i : Nat) : FV := dec (rd r (8 + 4 * d + 4 * i) 4)
  let is := List.range d
  let (us, state) : List (FV × Bool) × List FV :=
    match t.opt with
    | 0 => (is.map fun i => let (u, sat, _) := hy.element 0 s (g i) (w i) (st i) (st i); (u, sat), [])
    | 1 =>
      let sq := ((reduceVals f 64 1 (is.map g)).head?).getD (FV.of (.zero false))
      let v := f.add (st 0) (f.mul sq (trans 7 (FV.of (.ofNat d))))
      let q := trans 7 (f.add (trans 6 v) hy.eps)
      (is.map fun i => let m := f.mul (g i) q; (f.mul s ⟨m.v.neg, m.ev⟩, (f.mul (FV.of s.v) (FV.of m.v)).ev.sat), [v])
    | _ =>
      let os := is.map fun i => hy.element 3 s (g i) (w i) (st i) (st (d + i))
      (os.map fun o => (o.1, o.2.1),
       (os.map fun o => o.2.2.getD 0 (FV.of (.zero false))) ++ os.map fun o => o.2.2.getD 1 (FV.of (.zero false)))
  let vec := (is.zip us).map fun (i, u) => applyScaled (w i) u.1 ex
  let head := leBytes 4 (rd r 0 4 + 1) ++ leBytes 4 epoch
  (t.seal head (vec.flatMap enc) (state.flatMap enc), us, (vec ++ state).map (·.ev))

/-- Apply one entry: a row whose checks fail twice, or whose tile is poisoned, is not updated; its tile is poisoned, the entry discarded
and counted (R194). An entry for a row that has another home by now goes there. Answers the scaled updates. -/
def W.applyEntry (w : W) (n : Nat) (t : Table) (snap : Tile) (epoch : Nat) (q : RowRecord) : List (FV × Bool) × W :=
  let lose (w : W) : W := (w.modTable n t.id fun t => { t with discarded := t.discarded + 1 }).health n unitAbut (.table t.id)
  match w.ownerOf n t q.row with
  | none => ([], lose w)
  | some (rk, j) =>
    if !w.isSelf t rk then ([], w.send n rk n 0 false tyRowRec (recArg q.table epoch) q.body none)
    else
      match w.readRow n t j with
      | none => ([], lose w)
      | some (b, p) =>
        if p || !t.checksOk b then ([], lose (w.poisonRow n t j))
        else
          let (b', us, evs) := t.applyTo snap epoch q b
          let w := ((w.writeRow n t j b').count n 0x1C0 1).countFormats n (evs.foldl (fun c e => c.output e false) {})
          (us, w.modSec n fun s => { s with rowsTouched := if s.rowsTouched.contains (t.id, q.row) then s.rowsTouched else s.rowsTouched ++ [(t.id, q.row)] })

/-! ### The directory (R197, R198) -/

/-- A directory entry as 32 bytes (R197). -/
def DirEnt.body (e : DirEnt) (free : Bool) : List Byte :=
  leBytes 6 e.row ++ leBytes 2 (if free then 0 else match e.state with | .home => 1 | .moving => 2) ++ leBytes 6 e.oldLocal ++ leBytes 2 e.oldRank
    ++ leBytes 6 e.newLocal ++ leBytes 2 e.newRank ++ leBytes 8 0

/-- A directory entry from 32 bytes; its STATE code beside it. -/
def DirEnt.read (b : List Byte) : DirEnt × Nat :=
  ({ row := rd b 0 6, state := if rd b 6 1 % 4 = 2 then .moving else .home, oldLocal := rd b 8 6, oldRank := rd b 14 2,
     newLocal := rd b 16 6, newRank := rd b 22 2 }, rd b 6 1 % 4)

/-- The place of a row's entry in the directory region: the one it has, or the lowest that is free (log entry 103). -/
def Table.dirPlace (t : Table) (row : Nat) : Nat :=
  match t.dir.find? fun d => d.row == row with
  | some d => d.place
  | none => ((List.range (t.dir.length + 1)).find? fun k => !(t.dir.any fun d => d.place == k)).getD 0

/-- The directory with an entry set, or freed. -/
def Table.setDir (t : Table) (e : DirEnt) (free : Bool) : Table :=
  { t with dir := (t.dir.filter fun d => d.row != e.row) ++ (if free then [] else [{ e with place := t.dirPlace e.row }]) }

/-- Set or free an entry of this rank's replica, in the table and in its directory region (R197). -/
def W.putDir (w : W) (n id : Nat) (e : DirEnt) (free : Bool) : W :=
  match w.table n id with
  | none => w
  | some t =>
    let p := t.dirPlace e.row
    let w := w.setTable n id (some (t.setDir e free))
    if t.dirLog2 = 0 || 2 ^ t.dirLog2 ≤ p then w
    else w.patchTile n (listAt t.addrDir p 128 32).1 (listAt t.addrDir p 128 32).2 (e.body free)

/-- Change an entry here and tell every other rank of the group (R197), where the list that names them can be read (R180). -/
def W.sendDir (w : W) (n id : Nat) (e : DirEnt) (free : Bool) : W :=
  match w.table n id with
  | none => w
  | some t =>
    match w.carrierFault n t.listTiles with
    | some f => (w.putDir n id e free).carrierBad n f
    | none =>
    (w.putDir n id e free).each ((w.groupRanks n t).filter fun r => !w.isSelf t r) fun r w =>
      w.sendCtl n r tyDir 0 (leBytes 2 id ++ e.body free)

/-- A row comes to rest at a home: HOME there, or no entry where the map says so (R199). -/
def W.restRow (w : W) (n id : Nat) (e : DirEnt) (rank local_ : Nat) : W :=
  match w.table n id with
  | none => w
  | some t =>
    let free := w.ownerOf n { t with dir := [] } e.row == some (rank, local_)
    w.sendDir n id { e with state := .home, newRank := rank, newLocal := local_ } free

/-- A move ends without a flip: its entries return to their old state (R199). -/
def W.failMove (w : W) (n id : Nat) (m : RowMove) (st : Status) : W :=
  let w := w.each m.rows fun e w => w.restRow n id e e.oldRank e.oldLocal
  let w := w.modTable n id fun t => { t with moves := t.moves.filter fun q => q.cmd != m.cmd }
  (w.finish m.cmd st).settleCloses n id

/-- ROW_MIGRATE (R198, R199). The list holds directory entries, of which ROW, NEW_LOCAL and NEW_RANK count (PRESUMED layout). -/
def execRowMigrate (p : Pkt) (s : State) : Host.Outcome State Fault Refusal :=
  s.act fun w => w.intake opRowMigrate p fun c w =>
    let n := c.fn
    let k := p.arg 24 2
    let a := p.arg 16 6
    match (if p.arg 12 2 < 1024 then w.table n (p.arg 12 2) else none) with
    | none => w.answer c .refusedFormat
    | some t =>
      if k = 0 || 4096 < k || !isTileAddr a then w.answer c .refusedFormat
      else
        match w.listBad n a (ceilDiv k 128) with
        | some (st, i) => (if st = .keystone then w.listTileBad n (tileAfter a i) else w).answer c st (.index 4 i)
        | none =>
          let es := (List.range k).map fun i =>
            (DirEnt.read ((List.range 32).map fun j => BitVec.ofNat 8 (w.streamNum n a (32 * i + j) 1))).1
          match w.carrierFault n t.listTiles with
          | some (st, va) => (w.carrierBad n (st, va)).answer c st (.addr va)
          | none =>
          let homes := es.map fun e => w.ownerOf n t e.row
          let self (r : Nat) : Bool := w.isSelf t r
          if homes.any (fun h => !((h.map fun h => self h.1).getD false)) || !((es.map (·.row)).dedup.length == k)
              || es.any fun e => !((w.groupRanks n t).contains e.newRank) || (self e.newRank && decide (t.localRows ≤ e.newLocal)) then
            w.answer c .refusedFormat
          else if (es.any fun e => t.dir.any fun d => d.row == e.row && d.state == .moving)
              || homes.any (fun h => (h.map fun h => t.folding h.2).getD false) then w.answer c .retryLater
          else if t.dirLog2 = 0 || 2 ^ t.dirLog2 < t.dir.length + (es.filter fun e => !(t.dir.any fun d => d.row == e.row)).length then
            w.answer c .refusedFit
          else
            let rows := (es.zip homes).filterMap fun (e, h) => h.map fun (r, j) => { e with state := DirState.moving, oldRank := r, oldLocal := j }
            let epoch := (t.applying.getD t.applied) + 1
            let w := w.each rows fun e w => w.sendDir n t.id e false
            let m : RowMove := { cmd := c.id, rows := rows, epoch := epoch, copied := false, acked := false, flipped := false }
            (w.modTable n t.id fun t => { t with moves := t.moves ++ [m] }).begin c

/-- Ranks that have not acknowledged copies of moving rows, sent or still waiting to be sent. -/
def W.copiesOpen (w : W) (n id : Nat) : List Nat :=
  let copy (ty arg : Nat) : Bool := isCopy ty arg && arg / 2 ^ 40 % 65536 == id
  ((w.vdt.flows.filter fun f => f.span == n && f.sent.any fun p => copy p.frame.ty p.frame.arg).map (·.rank))
    ++ (w.vdt.waiting.filter fun u => u.span == n && copy u.ty u.arg).map (·.rank)

/-- Moves whose copies have all been acknowledged say so. -/
def W.settleMoves (w : W) (n id : Nat) : W :=
  if !(w.copiesOpen n id).isEmpty then w
  else w.modTable n id fun t => { t with moves := t.moves.map fun m => if m.copied then { m with acked := true } else m }

/-- Copy the records of a move (R198 step 2), from the pinning core's slot for a hot row. -/
def W.copyMove (w : W) (n : Nat) (t : Table) (m : RowMove) : W :=
  let recs := m.rows.map fun e => (e, w.readRow n t e.oldLocal)
  if recs.any fun (_, r) => match r with | some (b, p) => p || !t.checksOk b | none => true then w.failMove n t.id m .poisoned
  else
    let w := w.each recs fun (e, r) w => w.with r fun (b, _) w =>
      if w.isSelf t e.newRank then w.writeRow n t e.newLocal b else w.send n e.newRank n 0 false tyPut (copyArg t.id e.newLocal) b none
    let mark (q : RowMove) : RowMove := if q.cmd = m.cmd then { q with copied := true } else q
    (w.modTable n t.id fun t => { t with moves := t.moves.map mark }).settleMoves n t.id

/-- ROW_MIGRATE_COPY (R198 step 2): APPLIED is at least n - 1. -/
def execRowMigrateCopy (span table : Nat) (s : State) : Host.Outcome State Fault Refusal :=
  s.act fun w => w.with (w.table span table) fun t w =>
    w.with (t.moves.find? fun m => !m.copied && decide (m.epoch ≤ t.applied + 1)) fun m w => w.if (!t.stalled) fun w => w.copyMove span t m

/-- ROW_MIGRATE_RELEASE (R198 step 6): no look-up in flight at the flip is left. -/
def execRowMigrateRelease (span table : Nat) (s : State) : Host.Outcome State Fault Refusal :=
  s.act fun w => w.with (w.table span table) fun t w =>
    w.with (t.moves.find? fun m => m.flipped && !(t.held.any fun h => m.rows.any fun e => e.row == h.row)) fun m w =>
      (w.modTable span table fun t => { t with moves := t.moves.filter fun q => q.cmd != m.cmd }).finish m.cmd .ok

/-- The flip (R198 step 4): every entry HOME at its new rank, everyone told, and the coalesced entries of the closing epoch sent on
as one record each; records of later epochs, of which the new home is the owner now, go there as they stand. -/
def W.flipMoves (w : W) (n id epoch : Nat) : W :=
  match w.table n id with
  | none => w
  | some t =>
    let es := (t.moves.filter fun m => !m.flipped).flatMap (·.rows)
    let w := w.each es fun e w => w.restRow n id e e.newRank e.newLocal
    let gone (r : RowRecord) : Option DirEnt := es.find? fun e => e.row == r.row && !w.isSelf t e.newRank
    let w := w.each (t.entries epoch ++ t.records.filter fun r => r.epoch != epoch) fun q w =>
      w.with (gone q) fun e w => w.send n e.newRank n 0 false tyRowRec (recArg q.table q.epoch) q.body none
    w.modTable n id fun t =>
      { t with moves := t.moves.map (fun m => { m with flipped := true }), records := t.records.filter fun r => (gone r).isNone }

/-! ### Closing and applying an epoch (R188, R193, R194) -/

/-- May the owner close the epoch after APPLIED? A migration waits for its acknowledgement (R198), records of folded rows for their
restore (R365), no application starts while a HOTSET_REFRESH runs or waits (R196), and a span that is reset or destroyed closes none (R294). -/
def W.mayClose (w : W) (n : Nat) (t : Table) : Bool :=
  let e := t.applied + 1
  let rs := w.groupRanks n t
  !w.ending n && !t.stalled && t.applying.isNone && !t.voids.contains e && !rs.isEmpty && rs.all (fun r => t.closes.contains (e, r))
    && t.moves.all (fun m => m.flipped || m.acked) && t.refresh.isEmpty && !(w.core.pinJobs.any fun j => j.span == n && j.table == some t.id)
    && !(t.records.any fun r => r.epoch == e && ((w.ownerOf n t r.row).map fun h => t.awaits h.2).getD false)

/-- A step with one more ACCEPT. -/
def Step.accepted (x : Step) (id epoch r : Nat) : Step :=
  if x.accepts.contains (id, epoch, r) then x else { x with accepts := x.accepts ++ [(id, epoch, r)] }

/-- ACCEPT of a rank for an epoch reaches the steps that hold its ticket (R188). -/
def W.acceptFrom (w : W) (n id epoch r : Nat) : W :=
  let mine (x : Step) : Bool := x.span == n && x.tickets.any fun k => k.table == id && k.epoch == epoch && k.update
  { w with step.steps := updateWhere mine (fun x => x.accepted id epoch r) w.step.steps }

/-- The learning-rate entry and hyperparameters that an epoch uses: the snapshot of this rank's own step. -/
def W.snapOf (w : W) (n : Nat) (t : Table) (epoch : Nat) : Tile :=
  match t.snaps.find? fun q => q.1 == epoch with
  | some (_, b) => Tile.setBytes [] 0 b
  | none => (w.rowTile n t.addrUpd).getD []

/-- Apply every entry of an epoch; the largest |u| and whether one saturated. -/
def W.applyAll (w : W) (n : Nat) (t : Table) (snap : Tile) (epoch : Nat) (es : List RowRecord) : W × Num × Bool :=
  es.foldl (fun (acc : W × Num × Bool) q =>
    let (us, w) := acc.1.applyEntry n t snap epoch q
    (w, us.foldl (fun m u => m.max u.1.v.abs) acc.2.1, acc.2.2 || us.any (·.2))) (w, .zero false, false)

/-- The owner closes an epoch: migrations flip, and folded rows that have been restored (R365), ACCEPT goes to every rank, the entries are applied (R188 step 2). -/
def W.closeNow (w : W) (n : Nat) (t : Table) : W :=
  let e := t.applied + 1
  let w := (w.flipMoves n t.id e).modTable n t.id fun t => { t with foldFlipped := t.foldFlipped || (t.fold.map (·.2)).getD false }
  let rs := w.groupRanks n t
  let w := w.each rs fun r w => if w.isSelf t r then w.acceptFrom n t.id e r else w.sendCtl n r tyAccept e (barrierBody t.id false)
  match w.table n t.id with
  | none => w
  | some t =>
    let (w, a, sat) := w.applyAll n t (w.snapOf n t e) e (t.entries e)
    let w := w.modTable n t.id fun t =>
      { t with applying := some e, records := t.records.filter fun r => r.epoch != e, lastA := a, lastSat := sat }
    w.settleCloses n t.id

/-- The rank list or range map cannot be read when an epoch is to close: the mismatch is counted (R40, R180), and the steps of this rank that
wait for the table end. DESIGN CHOICE (log entry 140): R180 has the tiles checked and does not say what becomes of the close; the epoch stays
open. -/
def W.closeFault (w : W) (n id : Nat) (f : Status × Nat) : W :=
  let xs := w.step.steps.filter fun x => x.span == n && x.phase == .commit && !w.acceptsHeld x && x.tickets.any fun k => k.update && k.table == id
  (w.carrierBad n f).each xs fun x w => w.failStep x.id f.1 (.addr f.2)

/-- EPOCH_CLOSE (R188 step 2). -/
def execEpochClose (span table : Nat) (s : State) : Host.Outcome State Fault Refusal :=
  s.act fun w => w.with (w.table span table) fun t w => w.if (!w.ending span) fun w =>
    match w.carrierFault span t.listTiles with
    | some f => w.closeFault span table f
    | none => w.if (w.mayClose span t) fun w => w.closeNow span t

/-- EPOCH_APPLY_DONE (R188, R194): APPLIED advances, past void epochs too, and the table's learning-rate entry is adjusted. -/
def execEpochApplyDone (span table : Nat) (s : State) : Host.Outcome State Fault Refusal :=
  s.act fun w => w.with (w.table span table) fun t w => w.with t.applying fun e w =>
    let snap := w.snapOf span t e
    let u : LrUse := { addr := t.addrUpd, e := signed 8 (snap.num 0 1), amax := t.lastA, sat := t.lastSat }
    let w := w.with (w.rowTile span t.addrUpd) fun lr w => w.patchTile span t.addrUpd 0 (lrAdjust lr u)
    let t := { t with applied := e, applying := none, closes := t.closes.filter fun q => decide (e < q.1),
                      snaps := t.snaps.filter fun q => decide (e < q.1) }
    let w := w.setTable span table (some { t.pass t.voids.length with refresh := [] })
    w.each t.refresh fun r w => w.refreshHot span table r

/-! ### Stalling (R190) -/

/-- A table stalls here: waiting steps end, held look-ups are answered, span and PF hear which rank is silent (R190). -/
def W.stall (w : W) (n id r : Nat) : W :=
  match w.table n id with
  | none => w
  | some t =>
    if t.stalled then w
    else
      let w := w.setTable n id (some { t with stalled := true, held := [] })
      let w := w.each t.held fun h w => w.deliverLook n t h .stalled
      let w := w.each (w.step.steps.filter fun x => x.span == n && x.phase == .commit && !w.acceptsHeld x
          && x.tickets.any fun k => k.update && k.table == id) fun x w => w.failStep x.id .squashed (.rank r)
      w.health n unitAbut (.rank id r)

/-- The silent rank (R190, R199): one whose CLOSE the oldest unapplied epoch lacks, where that epoch has begun; else one that has not
acknowledged the copy of a moving row, for which the close waits. -/
def W.silentRank (w : W) (n : Nat) (t : Table) : Option Nat :=
  let e := t.applied + 1
  if t.applying.isNone && (decide (e ≤ t.ticket) || t.closes.any fun c => c.1 == e) then
    ((w.groupRanks n t).find? fun r => !t.closes.contains (e, r)).orElse fun _ =>
      if t.moves.any fun m => m.copied && !m.acked && !m.flipped then (w.copiesOpen n t.id).head? else none
  else none

/-- EMB_BARRIER_TIMEOUT (R190). -/
def execEmbBarrierTimeout (span table : Nat) (s : State) : Host.Outcome State Fault Refusal :=
  s.act fun w => w.with (w.table span table) fun t w => w.if (!t.stalled) fun w => w.with (w.silentRank span t) fun r w => w.stall span table r

/-! ### Barrier messages that arrive (R188, R190, R197, R198) -/

/-- CLOSE from a rank. A descriptor that disagrees stalls the table (R190). -/
def W.gotClose (w : W) (n : Nat) (f : Frame) : W :=
  let id := rd f.payload 0 2
  match w.table n id with
  | none => w
  | some t =>
    if f.payload.drop 5 ≠ t.canon then w.stall n id f.srcRank
    else if f.arg ≤ t.applied || t.closes.contains (f.arg, f.srcRank) then w
    else w.setTable n id (some { t with closes := t.closes ++ [(f.arg, f.srcRank)] })

/-- VOID from a rank: the owner discards and tells everyone, waiting steps end (R188 steps 3 and 4). -/
def W.gotVoid (w : W) (n : Nat) (f : Frame) : W :=
  (w.voidEpoch n (rd f.payload 0 2) f.arg (rd f.payload 3 2) (rd f.payload 2 1 == 1)).settleVoids

/-- ACCEPT from an owner. -/
def W.gotAccept (w : W) (n : Nat) (f : Frame) : W := w.acceptFrom n (rd f.payload 0 2) f.arg f.srcRank

/-- A directory change (R197). -/
def W.gotDir (w : W) (n : Nat) (f : Frame) : W :=
  let (e, st) := DirEnt.read (f.payload.drop 2)
  w.putDir n (rd f.payload 0 2) e (st == 0)

/-- A redirect: the look-up goes to the new home (R198 step 6). -/
def W.gotRedirect (w : W) (f : Frame) : W := w.lookArrived (rd f.payload 0 8) (some f.srcRank) (.moved (rd f.payload 8 2))

/-- A copied record reaches its new home (R198): refused where the table has no such local row. -/
def W.gotCopy (w : W) (n : Nat) (f : Frame) : Option W :=
  let j := f.arg % 2 ^ 40
  let id := f.arg / 2 ^ 40 % 65536
  (if id < 1024 then w.table n id else none).bind fun t => if j < t.localRows then some (w.writeRow n t j (f.payload.take t.recBytes)) else none

end Sys2Proof.Machine
end

