-- ==== Sys2Proof/Machine/Embedding.lean ====
section
/-! DEFINITION. The embedding descriptors: EMB_LOOKUP and EMB_GRAD (R182 to R186). -/

namespace Sys2Proof.Machine

open Sys2Proof

/-- An embedding descriptor (R182), with its streams: row ids, bag offsets (none without POOL), weights (none without WEIGHTED), and which
indices and then bags lie in stream tiles that carry the gradient flag (R103). -/
structure EmbDesc where
  table : Nat
  fmt : Nat
  pool : Bool
  addrV : Nat
  ids : List Nat
  offs : List Nat
  weights : List Nat
  flags : List Bool

/-- Number of output or gradient rows. -/
def EmbDesc.rows (d : EmbDesc) : Nat := if d.pool then d.offs.length - 1 else d.ids.length

/-- The first bag that breaks R183. -/
def badBag (offs : List Nat) (nidx : Nat) : Option Nat :=
  let k := offs.length - 1
  if offs.getD 0 0 ≠ 0 then some 0
  else
    match (List.range k).find? fun b => decide (offs.getD (b + 1) 0 < offs.getD b 0) || decide (65535 < offs.getD (b + 1) 0 - offs.getD b 0) with
    | some b => some b
    | none => if offs.getD k 0 ≠ nidx then some k else none

/-- Read the descriptor's streams and check its bags (R183). The weights are FP32 operands: their format codes are compared and their input
events counted (R66, R71, R87). -/
def Act.embDesc : Act EmbDesc := do
  let e ← get
  let d := e.desc
  let fl := rd d 1 1
  let nidx := rd d 40 4
  let nbag := rd d 44 4
  let it ← Act.tiles (rd d 16 6) (ceilDiv (8 * nidx) 4096)
  let ot ← if bit fl 5 then Act.tiles (rd d 22 6) (ceilDiv (4 * (nbag + 1)) 4096) else pure []
  let wt ← Act.stream (if bit fl 6 then some .fp32 else none) (rd d 28 6) nidx 0 false
  let offs := if bit fl 5 then (List.range (nbag + 1)).map fun b => payNum ot (4 * b) 4 else []
  if bit fl 5 then
    match badBag offs nidx with
    | some b => Act.fail .refusedFormat (.index 2 b)
    | none => pure ()
  let flag (ts : List Tile) (j : Nat) : Bool := ((ts[j]?).map Tile.gradient).getD false
  return { table := rd d 4 2, fmt := rd d 2 1, pool := bit fl 5, addrV := rd d 34 6,
           ids := (List.range nidx).map fun i => payNum it (8 * i) 8, offs := offs,
           weights := if bit fl 6 then (List.range nidx).map fun i => FloatFmt.fp32.encode (wt i).1.v else [],
           flags := (List.range nidx).map (fun i => flag it (i / 512) || (wt i).2)
             ++ (List.range (offs.length - 1)).map fun b => flag ot (b / 1024) || flag ot ((b + 1) / 1024) }

/-- The table of an embedding descriptor, with the epoch that the step's looks and records carry (R187); a stalled table serves
nothing (R190). -/
def Act.embTable (id : Nat) : Act (Table × Nat × Bool) := do
  let e ← get
  match e.w.table e.x.span id with
  | none => Act.fail .refusedFormat
  | some t =>
    Act.check (!t.stalled) .squashed
    match e.x.tickets.find? fun k => k.table == id with
    | some k => return (t, k.epoch, k.update)
    | none => return (t, t.ticket, false)

/-- EMB_LOOKUP's work at issue: every index that is no pad becomes a look-up, as many at once as the engine may have outstanding (R22);
when none is left open the rows are formed. `bad` are the indices whose reads are uncorrectable. -/
def Act.embLookup (bad : List Nat) : Act Unit := do
  let d ← Act.embDesc
  let (t, epoch, update) ← Act.embTable d.table
  let fmt := (Fmt.ofCode d.fmt).getD .fp32
  let n := d.rows * t.dim
  Act.canWriteAll d.addrV (ceilDiv n fmt.elems)
  Act.needTail fmt d.addrV n
  let k : Look :=
    { table := d.table, dim := t.dim, epoch := epoch, update := update, ids := d.ids, offs := d.offs, weights := d.weights, fmt := d.fmt,
      addr := d.addrV, pend := [], rest := [], bad := bad, rows := [], flags := d.flags }
  Act.count 0x1A0 (d.ids.filter fun r => r != padId).length
  let e ← get
  let open_ := (d.ids.zipIdx.filter fun q => q.1 != padId).map (·.2)
  let (r, w) := e.w.lookMany e.x.span e.x.id (e.w.gatherBusy e.core fun _ => false) t open_ k
  set { e with w := w }
  match r with
  | .error (st, det) => Act.fail st det
  | .ok k =>
    let left := k.pend.length + k.rest.length
    Act.modFl fun fl => { fl with look := some k, remote := left }
    if left = 0 then Act.lookRows

/-- EMB_LOOKUP (R184, R185). -/
def execEmbLookup (at_ : LookRef) (s : State) : Host.Outcome State Fault Refusal :=
  s.act fun w => w.issue at_.ctx [0x40] .gather (Act.embLookup at_.bad)

/-- Cut a list of indices into windows of at most `cap` distinct rows each (R186). The windows come out in order, and in each the
indices, oldest first. -/
def windows (cap : Nat) (l : List (Nat × Nat)) : List (List (Nat × Nat)) :=
  let step (acc : List (List (Nat × Nat)) × List (Nat × Nat) × List Nat) (q : Nat × Nat) : List (List (Nat × Nat)) × List (Nat × Nat) × List Nat :=
    let (done, cur, seen) := acc
    if seen.contains q.1 then (done, cur ++ [q], seen)
    else if cap ≤ seen.length then (done ++ [cur], [q], [q.1])
    else (done, cur ++ [q], seen ++ [q.1])
  let (done, cur, _) := l.foldl step ([], [], [])
  if cur.isEmpty then done else done ++ [cur]

/-- The row-update records of a list of indices: one for each distinct row of each window, its gradients summed in FP32 in
ascending index order (R186). -/
def preReduce (cap table epoch : Nat) (tag : Nat → RecTag) (grad : Nat → List FV) (l : List (Nat × Nat)) : List RowRecord :=
  let f := FloatFmt.fp32
  (windows cap l).zipIdx.flatMap fun (win, k) =>
    ((win.map (·.1)).dedup).filterMap fun row =>
      match (win.filter fun q => q.1 == row).map (·.2) with
      | [] => none
      | i :: is =>
        let sum := is.foldl (fun acc i => acc.zipWith (fun a b => f.add a b) (grad i)) (grad i)
        some (RowRecord.withSums { table := table, epoch := epoch, row := row, tag := tag k, sums := [] } sum)

/-- The bag that holds an index; without POOL the index itself. -/
def EmbDesc.rowOf (d : EmbDesc) (i : Nat) : Nat :=
  if d.pool then ((List.range (d.offs.length - 1)).find? fun b => decide (d.offs.getD b 0 ≤ i) && decide (i < d.offs.getD (b + 1) 0)).getD 0 else i

/-- EMB_GRAD's work: records are formed and sent to their owners (R186). The elements of the records are the descriptor's outputs: what
forming them did counts (R87). -/
def Act.embGrad : Act Unit := do
  let d ← Act.embDesc
  let (t, epoch, _) ← Act.embTable d.table
  let e ← get
  let f := FloatFmt.fp32
  let els ← Act.stream (Fmt.ofCode d.fmt) d.addrV (d.rows * t.dim) 0 false
  let wt (i : Nat) : FV := match d.weights[i]? with | some c => FV.of (f.decode c).1 | none => FV.of (.ofNat 1)
  let grad (i : Nat) : List FV := (List.range t.dim).map fun c => f.mul (wt i) (els (d.rowOf i * t.dim + c)).1
  let used := d.ids.zipIdx.filter fun q => q.1 != padId
  match used.findSome? fun q => e.w.carrierFault e.x.span (t.mapTiles q.1) with
  | some (st, va) =>
    Act.modW fun w => w.carrierBad e.x.span (st, va)
    Act.fail st (.addr va)
  | none => pure ()
  match used.find? fun q => (e.w.ownerOf e.x.span t q.1).isNone with
  | some (_, i) => Act.fail .refusedFormat (.index 2 i)
  | none =>
    let tag (k : Nat) : RecTag := { rank := e.w.rank.getD 0, task := e.task, ctx := e.ctx, dseq := e.dseq, window := k }
    let rs := preReduce 65536 d.table epoch tag grad used
    Act.count 0x1B0 (used.length - rs.length)
    Act.modFl fun fl => { fl with counts := (rs.flatMap (·.evs)).foldl (fun c ev => c.output ev false) fl.counts }
    for r in rs do
      match e.w.ownerOf e.x.span t r.row with
      | some (rk, j) =>
        Act.check (!e.w.isSelf t rk || decide (j < e.w.rowsHere e.x.span t)) .refusedFormat (.index 2 ((used.find? fun q => q.1 == r.row).map (·.2) |>.getD 0))
      | none => pure ()
    for r in rs do
      Act.modW fun w => w.coalesce e.x.span { r with evs := [] } (some e.x.id) none

/-- EMB_GRAD (R186). -/
def execEmbGrad (at_ : CtxRef) (s : State) : Host.Outcome State Fault Refusal :=
  s.act fun w => w.issue at_ [0x41] .gather Act.embGrad

/-! ### DESCRIPTOR_COMPLETE (R19, R28) -/

/-- DESCRIPTOR_COMPLETE (R19): the descriptor's remote answers are in, and its tiles have slots. Under an ABORT_STEP it is the
operation boundary of R28: a descriptor that is one operation completes, another stops there. An EMB_LOOKUP with indices that wait for
a request goes on with them (R22). -/
def execDescriptorComplete (at_ : CtxRef) (dseq : Nat) (s : State) : Host.Outcome State Fault Refusal :=
  s.act fun w =>
    w.with (w.step.inflight.find? fun f => f.step == at_.step && f.task == at_.task && f.ctx == at_.ctx && f.dseq == dseq) fun f w =>
    w.with (w.stepOf at_.step) fun x w =>
      match f.fail with
      | some (st, d) => (w.failStep x.id st d).settlePins
      | none =>
        if x.aborting.isSome && (f.attn || f.engine == .matrix) then ((w.stopHalf x f).settleAborted x.id).settlePins
        else if (f.look.map fun k => !k.rest.isEmpty).getD false then w.lookOn f
        else
          w.if (f.remote == 0 && f.gets.isEmpty && f.coll.isNone
              && w.roomFor f.core ((f.writes.map (·.1)).filter fun va => (w.hotAt x.span va).isNone)) fun w =>
            let w := w.complete x f
            (if x.aborting.isSome then w.settleAborted x.id else w).settlePins

end Sys2Proof.Machine
end

