-- ==== Sys2Proof/Machine/Rings.lean ====
section
/-! DEFINITION. Commands of the rings themselves: NOP, FENCE, QUERY, doorbells, enabling and disabling, unknown opcodes,
interrupts (R253 to R268, R276). -/

namespace Sys2Proof.Machine

open Sys2Proof

/-- NOP (R266). -/
def execNop (p : Pkt) (s : State) : Host.Outcome State Fault Refusal :=
  s.act fun w => w.intake opNop p fun c w => w.answer c .ok

/-- Has every command that the span's rings gave before number `id` had its final reply, or as a step committed or failed
(R265)? -/
def W.fenceOpen (w : W) (fn id : Nat) : Bool :=
  !(w.cmd.cmds.any fun c => c.fn == fn && decide (c.id < id) && !(w.step.steps.any fun x => x.cmd == c.id && x.phase == .ended))
    && (List.range 16).all fun r => (w.ring fn r).held.all fun h => (h.2.2.map fun i => decide (id ≤ i)).getD true

/-- FENCE (R265): completes at once when nothing earlier is in progress; else its ring waits for FENCE_COMPLETE. -/
def execFence (p : Pkt) (s : State) : Host.Outcome State Fault Refusal :=
  s.act fun w => w.intake opFence p fun c w =>
    if w.fenceOpen c.fn c.id then w.answer c .ok
    else (w.begin c).modRing c.fn c.ring fun g => { g with fence := some c.id }

/-- FENCE_COMPLETE (R265). -/
def execFenceComplete (fn ring : Nat) (s : State) : Host.Outcome State Fault Refusal :=
  s.act fun w => w.with (w.ring fn ring).fence fun id w =>
    w.if (w.fenceOpen fn id) fun w => (w.modRing fn ring fun g => { g with fence := none }).finish id .ok

/-- The two results of QUERY (R268); none for an unknown ITEM or an INDEX out of range. -/
def W.query (w : W) (n item index : Nat) : Option (Nat × Nat) :=
  match item with
  | 1 => some (w.readReg n 0x0018, w.capacity)
  | 2 => some (w.quota n - w.charged n, ((w.keysOf n).filter fun k => (w.keySlot k).state == .empty).length)
  | 3 => some ((w.programsOf n).length, w.reservedCores n)
  | 4 => some ((w.deck.adapters.filter fun a => a.span == n && a.loading.isNone).length, (w.deck.requests.filter fun r => r.span == n).length)
  | 5 =>
    if 16 ≤ index then none
    else
      let d := w.slot n index
      some (d.gen, (if d.current.isNone then 0 else if d.staged.isSome then 2 else 1) + (if d.load.isSome then 4 else 0))
  | _ => none

/-- QUERY (R268). -/
def execQuery (p : Pkt) (s : State) : Host.Outcome State Fault Refusal :=
  s.act fun w => w.intake opQuery p fun c w =>
    match w.query c.fn (p.arg 12 1) (p.arg 14 2) with
    | some (a, b) => w.answer c .ok .none a b
    | none => w.answer c .refusedFormat

/-- UNKNOWN_OPCODE_PACKET (R259): an opcode that is unknown or not accepted on rings. A packet with an opcode of R266 is no such
packet (log entry 9). -/
def execUnknownOpcodePacket (p : Pkt) (opcode : BitVec 16) (s : State) : Host.Outcome State Fault Refusal :=
  s.act fun w => w.if (ringOpcode opcode.toNat).isNone fun w => w.intakeUnknown p

/-- Count a doorbell that is ignored (R254). -/
def W.badBell (w : W) (fn r : Nat) : W := w.modRing fn r fun g => { g with badBell := min 63 (g.badBell + 1) }

/-- A doorbell or parapet write, or a clear of STANDBY_REQ, starts the exit from requested standby (R384). -/
def W.wakeUp (w : W) : W := if w.pwr.standby && !w.pwr.tripped then { w with pwr.exiting := true } else w

/-- SQ_TAIL (R254): the entries before the index are ready. -/
def execSqTail (fn ring : Nat) (value : Word) (s : State) : Host.Outcome State Fault Refusal :=
  s.act fun w => w.if (w.busUp && decide (fn < 64) && decide (ring < 16)) fun w =>
    let w := w.wakeUp
    let i := value.toNat % 65536
    if w.entries fn ring ≤ i then w.badBell fn ring
    else if (w.ring fn ring).en then w.modRing fn ring fun g => { g with sqTail := i } else w

/-- CQ_HEAD (R254, R256): completion entries come back, held replies go out. -/
def execCqHead (fn ring : Nat) (value : Word) (s : State) : Host.Outcome State Fault Refusal :=
  s.act fun w => w.if (w.busUp && decide (fn < 64) && decide (ring < 16)) fun w =>
    let w := w.wakeUp
    let i := value.toNat % 65536
    let n := w.entries fn ring
    if n ≤ i then w.badBell fn ring
    else if !(w.ring fn ring).en && !(w.ring fn ring).stopping then w
    else
      let w := w.modRing fn ring fun g => { g with cqHead := i, cqUsed := g.cqUsed - (i + n - g.cqHead) % n }
      w.releaseHeld (w.ring fn ring).held.length fn ring

/-- A write to RING_CFG with EN set (R253, R279, R283, R285): the fields are taken while EN is 0, in STOPPING too, and EN is set
unless SIZE_LOG2, the span or the vector forbids it. Replies still owed go to the ring as it then stands (log entry 101). -/
def W.enableRing (w : W) (fn r v : Nat) : W :=
  let g := w.ring fn r
  if g.en then w
  else
    let w := w.writeBits fn (ringBase r + 16) v 0x003F031F
    let z := w.sizeLog2 fn r
    if z < 6 ∨ 16 < z ∨ (w.sp fn).mode = .absent ∨ (w.sp fn).vectors ≤ w.ringVector fn r then w
    else w.modRing fn r fun g =>
      { g with en := true, stopping := false, nextSeq := 0, sqHead := 0, sqTail := 0, cqTail := 0, cqPhase := true, cqHead := 0,
               cqUsed := 0, unsig := 0 }

/-- RING_ENABLE (R253). -/
def execRingEnable (fn ring : Nat) (value : Word) (s : State) : Host.Outcome State Fault Refusal :=
  s.act fun w => w.if (w.busUp && decide (fn < 64) && decide (ring < 16)) fun w => w.enableRing fn ring (value.toNat ||| 0x80000000)

/-- Host software clears EN: the BN2 reads no further packet of the ring (R253). -/
def W.disableRing (w : W) (fn r : Nat) : W :=
  if (w.ring fn r).en then w.modRing fn r fun g => { g with en := false, stopping := true } else w

/-- RING_DISABLE (R253). -/
def execRingDisable (fn ring : Nat) (s : State) : Host.Outcome State Fault Refusal :=
  s.act fun w => w.if w.busUp fun w => w.disableRing fn ring

/-- RING_DISABLED (R253): the commands already read are complete and their replies written. -/
def execRingDisabled (fn ring : Nat) (s : State) : Host.Outcome State Fault Refusal :=
  s.act fun w =>
    let g := w.ring fn ring
    w.if (g.stopping && g.held.isEmpty && !(w.cmd.cmds.any fun c => c.fn == fn && c.ring == ring)) fun w =>
      w.modRing fn ring fun g => { g with stopping := false }

/-- INT_MOD_TIMER (R276): TIME has passed since the ring's oldest unsignalled reply. -/
def execIntModTimer (fn ring : Nat) (s : State) : Host.Outcome State Fault Refusal :=
  s.act fun w => w.if (decide (0 < (w.ring fn ring).unsig) && decide (0 < bits (w.regv fn (0x2800 + 4 * ring)) 31 16)) fun w =>
    w.signalRing fn ring

/-- Clear a vector's mask; a pending interrupt then goes out (R276), unless VECTORS has withdrawn the vector (R285). -/
def W.unmask (w : W) (fn v : Nat) : W :=
  let w := w.writeBits fn (0x2000 + 16 * v + 12) 0 1
  if w.cmd.pba.contains (64 * fn + v) && decide (v < (w.sp fn).vectors) then
    { w with cmd.pba := w.cmd.pba.filter fun k => k != 64 * fn + v }.emit (.irq fn v)
  else w

/-- MSIX_VECTOR_UNMASK (R276). -/
def execMsixVectorUnmask (fn vector : Nat) (s : State) : Host.Outcome State Fault Refusal :=
  s.act fun w => w.if (w.busUp && decide (fn < 64) && decide (vector < 64)) fun w => w.unmask fn vector

end Sys2Proof.Machine
end

