-- ==== Sys2Proof/Machine/Viaduct.lean ====
section
/-! DEFINITION. The Viaduct descriptors PUT, GET, RSCAT and AGATH (R316 to R318). -/

namespace Sys2Proof.Machine

open Sys2Proof

/-! ### PUT and GET (R317) -/

/-- The key handle that a descriptor's packets carry: 0 for plaintext. A slot that the span cannot use refuses new work (R296). -/
def Act.flowKey : Act Nat := do
  let e ← get
  if bit (rd e.desc 1 1) 6 then
    let k := rd e.desc 14 2
    Act.check (e.w.keyUsable e.x.span k) .refusedPermission
    return e.w.keyHandle k
  else return 0

/-- PUT: whole tiles, poison flags included, to pages of a remote span. -/
def Act.putTiles : Act Unit := do
  let e ← get
  let d := e.desc
  let key ← Act.flowKey
  let ts ← (List.range (rd d 28 4)).mapM fun j => Act.tileRaw (tileAfter (rd d 16 6) j)
  for (t, j) in ts.zipIdx do
    Act.modW fun w => w.send e.x.span (rd d 4 2) (rd d 9 1) key false tyPut (tileAfter (rd d 22 6) j) t.bytes (some e.x.id)
  Act.modW fun w => w.modStep e.x.id fun x => { x with putsOpen := x.putsOpen + ts.length }

/-- PUT (R317). -/
def execPut (at_ : CtxRef) (s : State) : Host.Outcome State Fault Refusal := s.act fun w => w.issue at_ [0x50] .mover Act.putTiles

/-- GET: whole tiles from pages of a remote span. -/
def Act.getTiles : Act Unit := do
  let e ← get
  let d := e.desc
  let key ← Act.flowKey
  let n := rd d 28 4
  Act.canWriteAll (rd d 16 6) n
  for j in List.range n do
    let ra := tileAfter (rd d 22 6) j
    Act.modW fun w => w.send e.x.span (rd d 4 2) (rd d 9 1) key false tyGetReq ra [] (some e.x.id)
    Act.modFl fun f => { f with gets := f.gets ++ [(rd d 4 2, ra, tileAfter (rd d 16 6) j)] }

/-- GET (R317). -/
def execGet (at_ : CtxRef) (s : State) : Host.Outcome State Fault Refusal := s.act fun w => w.issue at_ [0x51] .mover Act.getTiles

/-! ### Collectives (R318) -/

/-- The fields of a collective's descriptor that every rank of the list gives alike: all but ADDR_L (R318). -/
def collFields (d : List Byte) : List Byte := d.take 16 ++ (d.drop 22).take 42

/-- Message of a collective: what it is (0 the rank list, 1 data), the common fields, and the list, FP32 partial sums or a tile. ARG of one
with data holds the number of the tile in the local range (log entry 22). -/
def collBody (what : Nat) (fields bs : List Byte) : List Byte := leBytes 1 what ++ fields ++ bs

/-- Where the data of a collective's message begin. -/
def collHead : Nat := 59

/-- The bytes of a collective's rank list. -/
def Coll.list (c : Coll) : List Byte := c.ranks.flatMap (leBytes 2)

/-- The ranks after and before this one in the list: one and the same in a list of two. -/
def Coll.next (c : Coll) : Nat := c.ranks.getD ((c.idx + 1) % max 1 c.ranks.length) 0
/-- The rank before. -/
def Coll.prev (c : Coll) : Nat := c.ranks.getD ((c.idx + max 1 c.ranks.length - 1) % max 1 c.ranks.length) 0

/-- Tiles of a chunk. -/
def Coll.per (c : Coll) : Nat := c.tiles / max 1 c.ranks.length

/-- Send one tile's data to the next rank of the list. -/
def Act.collSend (c : Coll) (key tile : Nat) (bs : List Byte) : Act Unit := do
  let e ← get
  Act.modW fun w => w.send e.x.span c.next (rd e.desc 9 1) key false tyColl tile (collBody 1 c.fields bs) (some e.x.id)

/-- Elements of a tile as FP32 values. -/
def collEls (f : Fmt) (t : Tile) : List FV := (List.range f.elems).map fun i => FV.of (t.value f 0 i).1

/-- One of the messages that a collective waits for has been taken. -/
def InFlight.collDone (f : InFlight) : InFlight := { f with remote := f.remote - 1, coll := if f.remote ≤ 1 then none else f.coll }

/-- A message of a neighbour reaches the collective: its list is held against this one, its data join the sum or are copied, and go on or
end here. Where the fields differ, the step ends (R318): both neighbours send theirs, so it ends on both ranks. DESIGN CHOICE (log entry 142):
events of a partial sum that is sent on count here. -/
def Act.collFrame (fr : Frame) : Act Unit := do
  let e ← get
  match e.fl.coll with
  | none => pure ()
  | some c =>
    let b := fr.payload
    if (b.drop 1).take (collHead - 1) ≠ c.fields || (rd b 0 1 == 0 && b.drop collHead != c.list) then
      Act.modFl fun f => { f with fail := some (.refusedFormat, .rank fr.srcRank) }
    else if rd b 0 1 = 0 then
      Act.modFl fun f => { f with coll := some { c with heard := insertNat fr.srcRank c.heard } }
      Act.modFl InFlight.collDone
    else
      let fmt := (Fmt.ofCode c.fmt).getD .fp32
      let n := c.ranks.length
      let k := fr.arg
      let chunk := k / max 1 c.per
      if c.gather then
        let t := Tile.ofBytes (b.drop collHead)
        if !t.keystoneOk then
          Act.modW fun w => w.count e.x.span 0x248 2
          Act.modFl fun f => { f with fail := some (.keystone, .addr (tileAfter c.addrL k)) }
        else
          Act.write (tileAfter c.addrL k) t 4096
          if chunk ≠ (c.idx + 1) % n then Act.collSend c fr.key k (b.drop collHead)
      else
        let own := collEls fmt ((c.own[k]?).getD [])
        let sums := own.zipIdx.map fun (x, i) => FloatFmt.fp32.add (FV.of (FloatFmt.fp32.decode (rd b (collHead + 4 * i) 4)).1) x
        if chunk = c.idx then
          let grad := c.stoch || (((c.own[k]?).map Tile.gradient).getD false)
          Act.storePlain fmt .fp32 (tileAfter c.addrL k) (sums.map fun x => (x, false)) grad ((k - chunk * c.per) * fmt.elems)
        else
          Act.modFl fun fl => { fl with counts := sums.foldl (fun c x => c.output x.ev false) fl.counts }
          Act.collSend c fr.key k (sums.flatMap fun x => leBytes 4 (FloatFmt.fp32.encode x.v))
      Act.modFl InFlight.collDone

/-- Run a computation for a descriptor that its engine already holds. -/
def W.runOn (w : W) (f : InFlight) (a : Act Unit) : W :=
  w.with (w.stepOf f.step) fun x w =>
    let e : Eng := { w := w, x := x, task := f.task, ctx := f.ctx, dseq := f.dseq, core := f.core, desc := w.flightDesc f, vlen := 0, fl := f, cap := [] }
    match a.exec e with
    | (.error (.fail st dt), e) => e.w.setInFlight { e.fl with fail := some (st, dt) }
    | (_, e) => e.w.setInFlight e.fl

/-- Does a collective's message come from a neighbour in the list: data from the rank before, the list from either? -/
def Coll.takes (c : Coll) (fr : Frame) : Bool := c.prev == fr.srcRank || (c.next == fr.srcRank && rd fr.payload 0 1 == 0)

/-- Does it also carry the same fields? -/
def Coll.agrees (c : Coll) (fr : Frame) : Bool := c.takes fr && (fr.payload.drop 1).take (collHead - 1) == c.fields

/-- Does it open what a neighbour sends: does it carry the list? -/
def Frame.opensColl (fr : Frame) : Bool := rd fr.payload 0 1 == 0

/-- May a message be taken now: it agrees, and a list has come before data; or it is a neighbour's first list, and differs? What else comes
belongs to another collective, or is left over from a step that ended. -/
def Coll.wants (c : Coll) (fr : Frame) : Bool :=
  if c.agrees fr then fr.opensColl != c.heard.contains fr.srcRank else fr.opensColl && c.takes fr && !c.heard.contains fr.srcRank

/-- What waits for a collective: from each neighbour, what agrees from the last list on that does; or else the last list, which differs. -/
def Coll.early (c : Coll) (l : List Frame) : List Frame :=
  let from_ (r : Nat) : List Frame :=
    let l := l.filter fun fr => fr.srcRank == r && c.takes fr
    let same := l.filter c.agrees
    let after := same.reverse.takeWhile fun fr => !fr.opensColl
    if same.any Frame.opensColl then same.drop (same.length - after.length - 1) else (l.filter Frame.opensColl).getLast?.toList
  from_ c.prev ++ if c.next = c.prev then [] else from_ c.next

/-- RSCAT and AGATH: the list goes to both neighbours and this rank's first data to the next, and what came early is taken up. -/
def Act.collective (gather : Bool) : Act Unit := do
  let e ← get
  let d := e.desc
  let fmt := (Fmt.ofCode (rd d 2 1)).getD .fp32
  let n := rd d 32 2
  let tiles := rd d 28 4
  let base := rd d 16 6
  let lt ← Act.tiles (rd d 22 6) (ceilDiv (2 * n) 4096)
  let ranks := (List.range n).map fun i => payNum lt (2 * i) 2
  match e.w.rank.bind fun r => if ranks.contains r then some (ranks.idxOf r) else none with
  | none => Act.fail .refusedFormat
  | some idx =>
    let key ← Act.flowKey
    let per := tiles / max 1 n
    let own ← if gather then
        (List.range per).mapM fun j => Act.tileRaw (tileAfter base (idx * per + j))
      else
        (List.range tiles).mapM fun j => do
          let t ← Act.tile (tileAfter base j)
          Act.check (t.format == fmt.code) .refusedFormat (.addr (tileAfter base j))
          return t
    if gather then Act.canWriteAll base tiles else Act.canWriteAll (tileAfter base (idx * per)) per
    let c : Coll := { gather := gather, idx := idx, ranks := ranks, fmt := rd d 2 1, tiles := tiles, addrL := base, own := own, stoch := bit (rd d 1 1) 1,
                      fields := collFields d, heard := [] }
    Act.modFl fun f => { f with coll := some c, remote := (n - 1) * per + [c.next, c.prev].dedup.length }
    if !gather then
      Act.input ((List.range tiles).flatMap fun j => (List.range fmt.elems).map fun i => (((own[j]?).getD []).value fmt 0 i).2)
    for r in [c.next, c.prev].dedup do
      Act.modW fun w => w.send e.x.span r (rd d 9 1) key false tyColl 0 (collBody 0 c.fields c.list) (some e.x.id)
    for j in List.range per do
      if gather then Act.collSend c key (idx * per + j) ((own[j]?).getD []).bytes
      else
        let k := (idx + n - 1) % n * per + j
        Act.collSend c key k ((collEls fmt ((own[k]?).getD [])).flatMap fun x => leBytes 4 (FloatFmt.fp32.encode x.v))
    let mine (fr : Frame) : Bool := fr.dstSpan == e.x.span && c.takes fr
    let early := c.early (e.w.vdt.colls.filter mine)
    Act.modW fun w => { w with vdt.colls := w.vdt.colls.filter fun fr => !(mine fr && (c.agrees fr || early.contains fr)) }
    for fr in early do Act.collFrame fr

/-- RSCAT (R318). -/
def execRscat (at_ : CtxRef) (s : State) : Host.Outcome State Fault Refusal :=
  s.act fun w => w.issue at_ [0x52] .mover (Act.collective false)

/-- AGATH (R318). -/
def execAgath (at_ : CtxRef) (s : State) : Host.Outcome State Fault Refusal :=
  s.act fun w => w.issue at_ [0x53] .mover (Act.collective true)

end Sys2Proof.Machine
end

