-- ==== Sys2Proof/Machine/Securing.lean ====
section
/-! DEFINITION. Securing state and recovering (R350 to R365). -/

namespace Sys2Proof.Machine

open Sys2Proof

/-! ### The policy (R350, R351) -/

/-- The policy record of 128 bytes; its secured ranges are read apart. -/
def Policy.ofBlock (b : List Byte) (ranges : List (Nat × Nat)) : Policy :=
  { k := rd b 0 2, sync := bit (rd b 2 1) 0, bn1 := bit (rd b 2 1) 1, group := rd b 3 1 + 1, index := rd b 4 1, lambda := rd b 8 4,
    bearPages := rd b 12 4, addrBear := rd b 16 6, secKey := rd b 22 2, ranges := ranges, drainAddr := rd b 32 8,
    drainBytes := rd b 40 4, ranks := (List.range (rd b 3 1 + 1)).map fun i => rd b (48 + 2 * i) 2, addrBn1 := rd b 80 6,
    bn1Tiles := rd b 86 2 }

/-- Are the fields of a policy record in range, and its resv fields zero? `rank` is VDT_RANK. -/
def policyOk (b : List Byte) (rank : Nat) : Bool :=
  let g := rd b 3 1 + 1
  let lam := (FloatFmt.fp32.decode (rd b 8 4)).1
  decide (1 ≤ rd b 0 2) && decide (rd b 2 1 < 4) && decide (g ≤ 16) && decide (rd b 4 1 < g) && resvZero [(0, 5), (8, 36), (48, 40)] (b.take 128)
    && !lam.isNan && bits (rd b 8 4) 30 23 != 255 && (lam.isZero || !lam.sign)
    && decide (64 * g ≤ rd b 12 4) && rd b 16 6 % pageBytes == 0 && isTileAddr (rd b 16 6)
    && decide (rd b 30 2 ≤ 64) && (rd b 30 2 == 0 || isTileAddr (rd b 24 6))
    && (rd b 32 8 == 0 || (rd b 40 4 % 4096 == 0 && decide (2105344 ≤ rd b 40 4)))
    && (List.range 16).all (fun i => if i < g then decide (rd b (48 + 2 * i) 2 < 16384) || rd b (48 + 2 * i) 2 == rank else rd b (48 + 2 * i) 2 == 0xFFFF)
    && rd b (48 + 2 * rd b 4 1) 2 == rank && (!bit (rd b 2 1) 1 || isTileAddr (rd b 80 6))

/-- Are `k` tiles from a tile on mapped WRITABLE in a span? -/
def W.tilesWritable (w : W) (n a k : Nat) : Bool :=
  k == 0 || (isTileAddr a && decide (a % pageBytes / tileBytes + k ≤ w.writableRun n w.hbm.pages.length (a / pageBytes) * pageTiles))

/-- Does a policy change what a log depends on (R351)? -/
def Policy.newLog (a b : Policy) : Bool :=
  a.group != b.group || a.index != b.index || a.ranks != b.ranks || a.bearPages != b.bearPages || a.addrBear != b.addrBear

/-- Tiles of a policy that hold anything: what has changed before the first secure point (R355, log entry 150). -/
def W.everWritten (w : W) (n : Nat) (p : Policy) : List Nat :=
  let tiles (a k : Nat) : List Nat := (List.range k).map (tileAfter a)
  (p.ranges.flatMap (fun r => tiles r.1 r.2) ++ if p.bn1 then tiles p.addrBn1 p.bn1Tiles else []).dedup.filter fun va =>
    (w.stored n va).any fun t => t != []

/-- Rows owned here that an update has been applied to: version or epoch is not zero (R177, R355). -/
def W.everApplied (w : W) (n : Nat) : List (Nat × Nat) :=
  w.tables.flatMap fun (k, t) =>
    match t with
    | none => []
    | some t =>
      let ids := if t.range then w.streamNum n t.addrMap (16 * (t.mapEntries - 1)) 6 else 2 ^ t.idBits
      if k / 1024 ≠ n then []
      else ((List.range ids).filter fun r => match w.ownerOf n t r with
        | some (rk, j) => w.isSelf t rk && (w.readRow n t j).any fun b => rd b.1 0 8 != 0
        | none => false).map fun r => (t.id, r)

/-- The securing state under a policy that has just taken effect: N counts from 0 (R352). What has changed since the last point stays
to be logged (R355), a SECURE_NOW stays due, and pauses stay measured (R353); a new log is empty (R351). -/
def SecState.start (p : Policy) (old : Option SecState) : SecState :=
  let fresh : SecState :=
    { policy := p, n := 0, nSec := 0, nSeal := 0, point := 0, due := false, nowCmds := [], sealCmds := [], pointN := [], segs := [],
      nextSeg := 0, touched := [], rowsTouched := [], produced := 0, used := [], pauses := [] }
  match old with
  | none => fresh
  | some o =>
    if o.policy.newLog p then
      { fresh with touched := o.touched, rowsTouched := o.rowsTouched, pauses := o.pauses, nowCmds := o.nowCmds, due := !o.nowCmds.isEmpty }
    else { o with policy := p, n := 0, nSec := 0, nSeal := 0, produced := 0, pointN := o.pointN.map fun q => (q.1, 0) }

/-- SECURE_NOW (R357): a point falls due at once. -/
def execSecureNow (p : Pkt) (s : State) : Host.Outcome State Fault Refusal :=
  s.act fun w => w.intake opSecureNow p fun c w =>
    if (w.secOf c.fn).isNone then w.answer c .refusedFormat
    else ((w.accepted c).begin c).modSec c.fn fun s => { s with due := true, nowCmds := s.nowCmds ++ [c.id] }

/-! ### The bearing log (R355, R356, R358) -/

/-- Bytes of a log entry (R356). The manual lays out the header; STATE's payload is the model's layout (log entry 27). -/
def LogEntry.bytes : LogEntry → List Byte
  | .tile p a t => hdr 1 4352 p a ++ t.bytes
  | .row p t r b => hdr 2 b.length p (r + t * 2 ^ 48) ++ b
  | .state p seed n ts rs =>
    let body := leBytes 8 seed.toNat ++ leBytes 4 p ++ leBytes 8 n ++ leBytes 2 ts.length
      ++ ts.flatMap (fun t => leBytes 2 t.1 ++ leBytes 4 t.2.1 ++ leBytes 4 t.2.2.1 ++ t.2.2.2)
      ++ leBytes 1 rs.length ++ rs.flatMap fun r => leBytes 1 r.1 ++ leBytes 2 r.2.1 ++ leBytes 2 r.2.2
    hdr 3 body.length p 0 ++ body
  | .bn1 p a t => hdr 4 4352 p a ++ t.bytes
  | .mark p k => hdr 5 0 p k
where
  /-- Entry header. -/
  hdr (ty len point at_ : Nat) : List Byte := leBytes 1 ty ++ leBytes 1 0 ++ leBytes 2 len ++ leBytes 4 point ++ leBytes 8 at_

/-- The secure point of an entry. -/
def LogEntry.point : LogEntry → Nat
  | .tile p _ _ => p | .row p _ _ _ => p | .state p _ _ _ _ => p | .bn1 p _ _ => p | .mark p _ => p

/-- Bytes of a segment: a page, padded with zeros (TYPE 0). -/
def segBytes (es : List LogEntry) : List Byte := padTo pageBytes (es.flatMap LogEntry.bytes)

/-- Cut entries into segments: none spans two (R356). -/
def cutSegments (es : List LogEntry) : List (List LogEntry) :=
  let step (acc : List (List LogEntry) × List LogEntry × Nat) (e : LogEntry) : List (List LogEntry) × List LogEntry × Nat :=
    let k := e.bytes.length
    if pageBytes < acc.2.2 + k then (acc.1 ++ [acc.2.1], [e], k) else (acc.1, acc.2.1 ++ [e], acc.2.2 + k)
  let (done, cur, _) := es.foldl step ([], [], 0)
  done ++ [cur]

/-- Rows of the bearing region that hold this member's segments (R358): all of them without a group. -/
def Policy.dataRows (p : Policy) : List Nat := (List.range p.bearPages).filter fun r => p.group == 1 || r % p.group != p.index

/-- The row of the member's segment with a sequence number: rows in ascending order, wrapping. -/
def Policy.rowOf (p : Policy) (seq : Nat) : Nat := let l := p.dataRows; (l[seq % max 1 l.length]?).getD 0

/-- Physical address of a bearing row. -/
def W.bearAt (w : W) (n : Nat) (p : Policy) (row : Nat) : Option Nat :=
  match w.locate n [] (p.addrBear + row * pageBytes) with
  | .home pa _ => some pa
  | _ => none

/-- What a bearing row holds: zero before its first use (R359). -/
def W.bearRow (w : W) (n : Nat) (s : SecState) (row : Nat) : List Byte :=
  match w.bearAt n s.policy row with
  | some pa => if s.used.contains row then (List.range pageBytes).map fun i => Sparse.get memBlank w.mem (pa + i) else List.replicate pageBytes 0#8
  | none => List.replicate pageBytes 0#8

/-- Write a bearing row. -/
def W.setBearRow (w : W) (n : Nat) (s : SecState) (row : Nat) (bs : List Byte) : W :=
  match w.bearAt n s.policy row with
  | none => w
  | some pa =>
    (({ w with ops := .bytes pa bs :: w.ops }).markDirty n (s.policy.addrBear / pageBytes + row)).modSec n fun s => { s with used := insertNat row s.used }

/-- The parity rows that this module holds are rebuilt from the remaining members' rows (R361): other modules' data, free values. When the rebuild
ends is not given; here with the policy (log entry 149). -/
def W.rebuildParity (w : W) (n : Nat) : W :=
  w.with (w.secOf n) fun s w =>
    let p := s.policy
    let w := w.modSp n fun x => { x with parityLost := false }
    w.each ((List.range p.bearPages).filter fun r => r % p.group == p.index) fun r w =>
      { w with free := w.free + 1 }.setBearRow n s r ((List.range pageBytes).map (Config.parityByte w.free))

/-- SECURE_POLICY (R350, R351). A log that is given up leaves its group's parity wrong, of which span and PF hear; under a new policy
the parity rows held here are rebuilt (R361). -/
def execSecurePolicy (p : Pkt) (s : State) : Host.Outcome State Fault Refusal :=
  s.act fun w => w.intake opSecurePolicy p fun c w =>
    let n := c.fn
    let b := p.block
    if !policyOk b (w.regv 0 0x7000 % 65536) then w.answer c .refusedFormat
    else
      let k := rd b 30 2
      let a := rd b 24 6
      match w.listBad n a (ceilDiv k 256) with
      | some (st, i) => (if st = .keystone then w.listTileBad n (tileAfter a i) else w).answer c st (.index 4 i)
      | none =>
        let ent (i : Nat) : List Byte := (List.range 16).map fun j => BitVec.ofNat 8 (w.streamNum n a (16 * i + j) 1)
        let es := (List.range k).map ent
        let q := Policy.ofBlock b (es.map fun e => (rd e 0 6, rd e 8 4))
        let old := w.secOf n
        if es.any fun e => !resvZero [(0, 6), (8, 4)] e || !isTileAddr (rd e 0 6) then w.answer c .refusedFormat
        else if !w.tilesWritable n q.addrBear (q.bearPages * pageTiles) || (q.ranges.any fun r => !w.tilesWritable n r.1 r.2)
            || (q.bn1 && !w.tilesWritable n q.addrBn1 q.bn1Tiles) || !w.ownKey n q.secKey then w.answer c .refusedPermission
        else if (old.map fun o => o.policy.newLog q && !o.segs.isEmpty).getD false then w.answer c .retryLater
        else
          let lost := (old.map fun o => o.policy.newLog q && decide (1 < o.policy.group)).getD false
          let st := SecState.start q old
          let st := if old.isNone then { st with touched := w.everWritten n q, rowsTouched := w.everApplied n } else st
          let again := decide (1 < q.group) && (old.isSome || (w.sp n).parityLost)
          let w := w.setSec n (some st)
          let w := if again then w.rebuildParity n else w
          (if lost then w.health n unitAbut else w).answer c .ok

/-- Data units of one packet of a stream or of parity: two in JUMBO mode, one in STD mode (R308). -/
def W.deltaUnits (w : W) : Nat := if bit (w.regv 0 0x7004) 16 then 1 else 2

/-- Send old xor new of a row to its holder, under SEC_KEY (R359). -/
def W.sendDelta (w : W) (n : Nat) (p : Policy) (row : Nat) (d : List Byte) : W :=
  let k := w.deltaUnits
  w.each (List.range (512 / k)) fun i w =>
    w.send n (p.ranks.getD (row % p.group) 0) n (w.keyHandle p.secKey) false tyPut (512 * row + k * i) ((d.drop (4096 * k * i)).take (4096 * k)) none

/-- Is a frame a packet of parity: a put of whole units of 4,096 bytes that is no part of a copied row (log entry 22)? -/
def isDelta (f : Frame) : Bool := f.ty == tyPut && !isCopy f.ty f.arg && !f.payload.isEmpty && f.payload.length % 4096 == 0 && f.payload.length % tileBytes != 0

/-- Write a segment into its row; without a group nothing has to be acknowledged. -/
def W.writeSegment (w : W) (n : Nat) (es : List LogEntry) : W :=
  w.with (w.secOf n) fun s w =>
    let row := s.policy.rowOf s.nextSeg
    let new := segBytes es
    let old := w.bearRow n s row
    let seg : Segment := { seq := s.nextSeg, row := row, entries := es, acked := s.policy.group == 1, drained := false }
    let w := (w.setBearRow n s row new).modSec n fun s => { s with segs := s.segs ++ [seg], nextSeg := s.nextSeg + 1 }
    if s.policy.group = 1 then w else w.sendDelta n s.policy row (old.zipWith (· ^^^ ·) new)

/-! ### Taking a secure point (R355, R357) -/

/-- May capture begin: no step of the span runs, and every table has applied the tickets of the steps that ran? An admitted step none of
whose tasks has started does not hold it up, nor does its ticket: its tasks start after it (R245). -/
def W.mayCapture (w : W) (n : Nat) : Bool :=
  !(w.step.steps.any fun x => x.span == n && x.admitted && (x.phase == .commit || x.tasks.any fun t => t.core.isSome || t.ended))
    && w.tables.all fun (k, t) => k / 1024 != n || ((t.map fun t => (List.range (t.ticket - t.applied)).all fun i =>
        w.step.steps.any fun x => x.span == n && x.phase == .compute
          && x.tickets.any fun q => q.update && q.table == t.id && q.epoch == t.applied + 1 + i).getD true)

/-- Is a tile address in the secured ranges? -/
def Policy.secures (p : Policy) (va : Nat) : Bool := p.ranges.any fun r => decide (tileNo r.1 ≤ tileNo va) && decide (tileNo va < tileNo r.1 + r.2)
/-- Is it a BN1 tile? -/
def Policy.isBn1 (p : Policy) (va : Nat) : Bool := p.bn1 && decide (tileNo p.addrBn1 ≤ tileNo va) && decide (tileNo va < tileNo p.addrBn1 + p.bn1Tiles)

/-- Tiles with unwritten changes in HOT-pinned slots of a span. -/
def W.hotDirty (w : W) (n : Nat) : List Nat :=
  (w.coresOf n).flatMap fun l => ((w.core' l).tiles.filter fun e => e.pin == .hot && e.state == .dirty && e.gen.isNone).map (·.addr)

/-- The STATE entry (R355). With each table go the fields that R180 requires equal, against which R363 holds the table (log entry 27). -/
def W.stateEntry (w : W) (n point k : Nat) : LogEntry :=
  let ts := w.tables.filterMap fun (i, t) => if i / 1024 = n then t.map fun t => (t.id, t.ticket, t.applied, t.canon) else none
  let rs := (List.range 16).map fun r => (r, (w.sched n r).fwd, (w.sched n r).bwd)
  .state point (w.sp n).seed k ts rs

/-- The entries of a secure point, in the order of R357, and the tiles whose keystones do not hold. -/
def W.pointEntries (w : W) (n : Nat) (s : SecState) : List LogEntry × List Nat :=
  let p := s.point + 1
  let vas := s.touched ++ (w.hotDirty n).filter fun va => !s.touched.contains va
  let ts := vas.filter s.policy.secures
  let bs := vas.filter s.policy.isBn1
  let rows := s.rowsTouched.filterMap fun (id, r) =>
    match w.table n id with
    | none => none
    | some t =>
      match w.ownerOf n t r with
      | some (rk, j) => if w.isSelf t rk then (w.readRow n t j).map fun b => LogEntry.row p id r b.1 else none
      | none => none
  let rowVas := s.rowsTouched.flatMap fun (id, r) =>
    match w.table n id with
    | none => []
    | some t => match w.ownerOf n t r with | some (rk, j) => if w.isSelf t rk then (t.rowAt j).1 else [] | none => []
  let tile (va : Nat) : Tile := (w.rowTile n va).getD []
  let body := [w.stateEntry n p s.n] ++ ts.map (fun va => .tile p va (tile va)) ++ rows ++ bs.map (fun va => .bn1 p va (tile va))
  (body ++ [.mark p (body.length + 1)], (ts ++ bs ++ rowVas).filter fun va => !(tile va).keystoneOk)

/-- A point is abandoned: what SECURE_NOW waits for it gets a status, and span and PF hear of it (R357). After an abort (`again`) the next counted
commit makes it due again. -/
def W.abandonPoint (w : W) (n : Nat) (st : Status) (again : Bool := false) : W :=
  match w.secOf n with
  | none => w
  | some s =>
    let w := w.modSec n fun s => { s with due := false, nowCmds := [], again := s.again || again }
    ((w.finishAll s.nowCmds st).event .secured n false unitAbut).health n unitAbut

/-- SECURE_CAPTURE (R357): the entries go into the log. -/
def execSecureCapture (span pauseUs : Nat) (s : State) : Host.Outcome State Fault Refusal :=
  s.act fun w => w.with (w.secOf span) fun sec w => w.if (sec.due && w.mayCapture span) fun w =>
    let (es, bad) := w.pointEntries span sec
    let segs := cutSegments es
    let rows := (List.range segs.length).map fun i => sec.policy.rowOf (sec.nextSeg + i)
    if !bad.isEmpty then ((bad.take 1).foldl (fun w va => w.listTileBad span va) w).abandonPoint span .keystone
    else if sec.policy.dataRows.length < segs.length || sec.segs.any fun g => rows.contains g.row then w.abandonPoint span .refusedFit
    else
      let w := w.each segs fun g w => w.writeSegment span g
      w.modSec span fun s =>
        { s with point := s.point + 1, nSec := s.n, due := false, pointN := s.pointN ++ [(s.point + 1, s.n)], nowCmds := [],
                 sealCmds := s.sealCmds ++ s.nowCmds.map (fun c => (s.point + 1, c)), touched := [], rowsTouched := [],
                 pauses := (s.pauses ++ [pauseUs]).drop (s.pauses.length + 1 - 8) }

/-- Are all segments with entries of points up to `p` acknowledged? -/
def SecState.pointAcked (s : SecState) (p : Nat) : Bool := s.segs.all fun g => g.acked || g.entries.all fun e => decide (p < e.point)

/-- SECURE_SEAL (R357 step 5): the oldest point not sealed is. -/
def execSecureSeal (span : Nat) (s : State) : Host.Outcome State Fault Refusal :=
  s.act fun w => w.with (w.secOf span) fun sec w => w.with sec.pointN.head? fun (p, k) w => w.if (sec.pointAcked p) fun w =>
    let cmds := sec.sealCmds.filter fun q => q.1 == p
    let w := w.modSec span fun s =>
      { s with nSeal := max s.nSeal k, pointN := s.pointN.drop 1, sealCmds := s.sealCmds.filter fun q => q.1 != p }
    (w.each cmds fun q w => w.finish q.2 .ok (.count p)).event .secured span false unitAbut

/-! ### Draining (R360) -/

/-- The last secure point whose MARK lies in a segment; 0 when none does. -/
def lastMark (es : List LogEntry) : Nat := es.foldl (fun p e => match e with | .mark q _ => q | _ => p) 0

/-- Is a segment sealed: no point of it waits for its seal? -/
def SecState.isSealed (s : SecState) (g : Segment) : Bool := !(s.pointN.any fun q => g.entries.any fun e => e.point == q.1)

/-- Bytes of a drain record. -/
def drainRecBytes : Nat := 4096 + pageBytes

/-- Where a record lies in the drain buffer, as addresses and lengths: it may wrap from the buffer's end to its start (R360). -/
def drainPieces (p : Policy) (pos : Nat) : List (Nat × Nat) :=
  let o := pos % (p.drainBytes - 4096)
  let k := min drainRecBytes (p.drainBytes - 4096 - o)
  (p.drainAddr + 4096 + o, k) :: if k < drainRecBytes then [(p.drainAddr + 4096, drainRecBytes - k)] else []

/-- DRAIN_WRITE (R360): `consumed` is what the control block holds. -/
def execDrainWrite (span consumed : Nat) (s : State) : Host.Outcome State Fault Refusal :=
  s.act fun w => w.with (w.secOf span) fun sec w => w.with sec.segs.head? fun g w =>
    let p := sec.policy
    w.if (p.drainAddr != 0 && !w.ending span && sec.isSealed g && g.acked && !(w.sp span).stopHost && (w.keySlot p.secKey).state == .installed
        && decide (consumed ≤ sec.produced) && decide (sec.produced + drainRecBytes ≤ consumed + (p.drainBytes - 4096))) fun w =>
      let head : RecHead := { ty := 4, va := g.seq, dlen := pageBytes, pass := lastMark g.entries }
      let w := w.emit (.drainStream span p.secKey (sec.produced / 4096) (drainPieces p sec.produced) (head.close (crc32c (segBytes g.entries))) g.entries)
      let w := w.emit (.hostWrite span p.drainAddr (leBytes 8 (sec.produced + drainRecBytes)))
      w.modSec span fun s => { s with produced := s.produced + drainRecBytes, segs := s.segs.drop 1 }

/-! ### Parity and segments on Viaduct (R359, R363) -/

/-- A parity delta reaches the row's holder: it is XORed in (R359). False where this module is not the holder. -/
def W.gotDelta (w : W) (n : Nat) (f : Frame) : Bool × W :=
  let row := f.arg / 512
  match w.secOf n with
  | none => (false, w)
  | some s =>
    let p := s.policy
    if p.group = 1 || row % p.group ≠ p.index || p.bearPages ≤ row || !p.ranks.contains f.srcRank then (false, w)
    else
      let o := f.arg % 512 * 4096
      let old := w.bearRow n s row
      let new := old.take o ++ ((old.drop o).take f.payload.length).zipWith (· ^^^ ·) f.payload ++ old.drop (o + f.payload.length)
      (true, w.setBearRow n s row new)

/-- The members that rebuild a source rank's segments, in RANKS order (R363). -/
def chainOf (ranks : List Nat) (source : Nat) : List Nat := ranks.filter fun r => r != source && r != 0xFFFF

/-- A group member XORs its row into a partial segment and sends it on: to the next member in RANKS order, or to the restoring module
(R363 step 2). -/
def W.passPart (w : W) (n key arg : Nat) (d : List Byte) : W :=
  w.with (w.secOf n) fun s w =>
    let p := s.policy
    let here := p.ranks.getD p.index 0
    let order := chainOf p.ranks (arg / 2 ^ 46 % 2 ^ 14)
    let next := (order.drop (order.idxOf here + 1)).headD (arg / 2 ^ 32 % 2 ^ 14)
    let mine := ((w.bearRow n s (arg % 2 ^ 32 / 512)).drop (arg % 512 * 4096)).take d.length
    w.if (next != here) fun w => w.send n next n key false tyColl arg (d.zipWith (· ^^^ ·) mine) none

/-- The first member of the chain begins it, for every row that can hold a segment of the source (R363, log entry 22). -/
def W.beginParts (w : W) (n key dest source : Nat) : W :=
  w.with (w.secOf n) fun s w =>
    let p := s.policy
    let k := w.deltaUnits
    w.each ((List.range p.bearPages).filter fun r => r % p.group != p.ranks.idxOf source) fun r w =>
      w.each (List.range (512 / k)) fun i w => w.passPart n key (partArg dest source (512 * r + k * i)) (List.replicate (4096 * k) 0#8)

/-- A partial segment comes: one without data asks the first member to begin; one that the last member sends to the restoring module is
complete, and its data are what RESTORE_DONE brings; any other goes on. -/
def W.forwardPart (w : W) (n : Nat) (f : Frame) : W :=
  w.with (w.secOf n) fun s w =>
    let dest := f.arg / 2 ^ 32 % 2 ^ 14
    let source := f.arg / 2 ^ 46 % 2 ^ 14
    if f.payload = [] then w.beginParts n f.key dest source
    else w.if (!(w.rank == some dest && (chainOf s.policy.ranks source).getLast? == some f.srcRank)) fun w => w.passPart n f.key f.arg f.payload

/-! ### Restoring (R362 to R364) -/

/-- Are the resv fields of a restore record zero, and its RANKS in range (R362)? -/
def restoreRecOk (b : List Byte) : Bool :=
  resvZero [(0, 1), (2, 10), (16, 48)] (b.take 64)
    && (List.range 16).all fun i => rd b (32 + 2 * i) 2 == 0xFFFF || decide (rd b (32 + 2 * i) 2 < 16384)

/-- A restore is asked for: the record is checked and the restore begins. The drained log is read as one stream, numbered from 0 at HOST_ADDR
(R360), and the source's group is asked for its undrained segments (R363). -/
def W.startRestore (w : W) (c : Cmd) (n : Nat) (b : List Byte) (adopt : Bool) : W :=
  let image := rd b 0 1 == 0
  let source := rd b 4 2
  let t := if rd b 2 2 < 1024 then w.table n (rd b 2 2) else none
  let foldOk := ((t.bind (·.fold)).map fun f => f.1 == source && !f.2).getD false
  let busy := !(w.programsOf n).isEmpty || w.deck.requests.any fun r => r.span == n
  if (rd b 0 1 ≠ 0 ∧ rd b 0 1 ≠ 2) ∨ !restoreRecOk b ∨ 16383 < source ∨ (!image ∧ !foldOk) ∨ (image ∧ busy) then
    w.answer c .refusedFormat
  else if (w.sp n).mode ≠ .active ∨ (w.sp n).run.isSome then w.answer c .retryLater
  else if !w.keyUsable n (rd b 6 2) && !(adopt && w.keyUsable 0 (rd b 6 2)) then w.answer c .refusedPermission
  else
    let r : RestoreRun :=
      { cmd := c.id, image := image, table := rd b 2 2, srcRank := source, point := rd b 8 4, ranks := (List.range 16).map fun i => rd b (32 + 2 * i) 2,
        key := rd b 6 2, hostAddr := rd b 16 8, length := rd b 24 8 }
    let w := ((w.accepted c).begin c).modSp n fun x => { x with run := some r, mode := if image then .restoring else x.mode }
    let w := if r.hostAddr = 0 then w else w.emit (.drainRead n r.hostAddr r.length r.key 0)
    match w.rank, (chainOf r.ranks source).head? with
    | some dest, some first =>
      if first = dest then w.beginParts n (w.keyHandle r.key) dest source
      else w.send n first n (w.keyHandle r.key) false tyColl (partArg dest source 0) [] none
    | _, _ => w

/-- RESTORE (R362, R363). -/
def execRestore (p : Pkt) (s : State) : Host.Outcome State Fault Refusal :=
  s.act fun w => w.intake opRestore p fun c w => w.startRestore c c.fn p.block false

/-- Announce a new address of a rank to every rank whose entry is not zero (R310). Under its new rank nobody knows this module's flows: their
numbers start anew. -/
def W.announceRank (w : W) (rank : Nat) : W :=
  let own := (List.range 4).flatMap fun i => leBytes 4 (w.regv 0 (0x7010 + 4 * i))
  let w := { w with vdt.closed := [] }
  let w := w.each w.vdt.flows fun g w => w.modFlow g.id fun g => { g with sent := renumber g.sent, psn := g.sent.length }
  w.each (w.vdt.ranks.filter fun q => q.1 != rank) fun q w => w.sendCtl 0 q.1 tyRankMoved rank own

/-- RANK_ADOPT (R364). -/
def execRankAdopt (p : Pkt) (s : State) : Host.Outcome State Fault Refusal :=
  s.act fun w => w.intake opRankAdopt p fun c w =>
    let rank := p.arg 12 2
    let n := p.arg 14 1
    let own := w.regv 0 0x7000 % 65536
    let busy := !(w.programsOf n).isEmpty || w.deck.requests.any fun r => r.span == n
    if 63 < n ∨ 16383 < rank ∨ (own ≤ 16383 ∧ own ≠ rank) ∨ (w.sp n).mode = .absent ∨ rd p.block 0 1 ≠ 0 ∨ rd p.block 4 2 ≠ rank ∨ busy
        ∨ !restoreRecOk p.block then
      w.answer c .refusedFormat
    else if (w.sp n).mode ≠ .active ∨ (w.sp n).run.isSome then w.answer c .retryLater
    else if !w.keyUsable n (rd p.block 6 2) && !w.keyUsable 0 (rd p.block 6 2) then w.answer c .refusedPermission
    else ((w.setReg 0 0x7000 rank).announceRank rank).startRestore c n p.block true

/-- Insert a record by its sequence number. -/
def insertDrain (r : DrainRec) : List DrainRec → List DrainRec
  | [] => [r]
  | q :: qs => if r.va ≤ q.va then r :: q :: qs else q :: insertDrain r qs

/-- Do a drained record's check values hold (R363)? A segment that was rebuilt carries none. -/
def DrainRec.holds (q : DrainRec) : Bool :=
  q.row.isSome || (q.hcrc == crc32c q.bytes && q.dcrc == crc32c (padTo q.dlen (q.entries.flatMap LogEntry.bytes)))

/-- Is a point sealed in these records: is there its MARK, and has every segment of it and of earlier points been acknowledged (R357)? -/
def sealedIn (rs : List DrainRec) (p : Nat) : Bool :=
  (rs.any fun q => q.entries.any fun e => match e with | .mark k _ => k == p | _ => false)
    && rs.all fun q => q.row.isNone || q.acked || q.entries.all fun e => decide (p < e.point)

/-- The entries up to a point's MARK (the latest sealed point's for 0xFFFF_FFFF), and that point; none where the log holds no such sealed
point. -/
def upToMark (point : Nat) (rs : List DrainRec) : Option (List LogEntry × Nat) :=
  let es := rs.flatMap (·.entries)
  let marks := es.filterMap fun e => match e with | .mark k _ => some k | _ => none
  let p := if point = 0xFFFFFFFF then (marks.reverse.find? (sealedIn rs)).getD 0 else point
  let isIt (e : LogEntry) : Bool := match e with | .mark q _ => q == p | _ => false
  if sealedIn rs p then (es.findIdx? isIt).map fun i => (es.take i, p) else none

/-- Why an entry cannot be applied (R363). -/
def W.entryFault (w : W) (n : Nat) (image : Bool) (table : Nat) (e : LogEntry) : Option Status :=
  match e with
  | .tile _ a t => if !image then none else if (w.writeFault n a).isSome then some .refusedPermission else if !t.keystoneOk then some .keystone else none
  | .bn1 _ a t => if !image then none else if (w.writeFault n a).isSome then some .refusedPermission else if !t.keystoneOk then some .keystone else none
  | .row _ id r b =>
    if !image && id != table then none
    else
      match w.table n id with
      | none => some .refusedContract
      | some t =>
        let home := (w.ownerOf n t r).filter fun h => w.isSelf t h.1
        if b.length ≠ t.recBytes then some .refusedContract
        else if home.any fun h => (t.rowAt h.2).1.any fun va => (w.writeFault n va).isSome then some .refusedPermission
        else if !t.checksOk b then some .keystone
        else none
  | .state _ _ _ ts _ =>
    if image && ts.any (fun q => !((w.table n q.1).any fun t => t.canon == q.2.2.2)) then some .refusedContract else none
  | .mark _ _ => none

/-- A tile is written in its home, under a new generation or bit for bit (R317, R356): the slot of a core that pins it gets what the home holds,
and other copies are invalidated. -/
def W.putHome (w : W) (n va : Nat) (t : Tile) (exact : Bool := false) : W :=
  let put (w : W) : W := if exact then w.storeExact n va t else w.storeTile n va t
  match w.hotAt n va with
  | some l =>
    let w := put w
    w.modEnt l va none fun e => { e with data := (w.stored n va).getD t, state := .clean }
  | none => put (w.each (w.coresOf n) fun l w => w.invalidate l va)

/-- Apply one entry: in IMAGE mode everything, in FOLD mode the folded rows of the table. -/
def W.applyLog (w : W) (n : Nat) (image : Bool) (table : Nat) (e : LogEntry) : W :=
  match e with
  | .tile _ a t => if image then w.putHome n a t else w
  | .bn1 _ a t => if image then w.putHome n a t true else w
  | .row _ id r b =>
    w.if (image || id == table) fun w => w.with (w.table n id) fun t w =>
      match w.ownerOf n t r with
      | some (rk, j) => if w.isSelf t rk && (image || decide (t.localRows ≤ j)) then w.writeRow n t j b else w
      | none => w
  | .state p seed k ts rs =>
    w.if image fun w =>
      let w := w.modSp n fun x => { x with seed := seed }
      let w := w.each ts fun q w => w.modTable n q.1 fun t => { t with ticket := q.2.1, applied := q.2.2.1, stalled := false }
      let w := w.each rs fun q w => w.modSched n q.1 fun g => { g with fwd := q.2.1, bwd := q.2.2 }
      w.modSec n fun s => { s with n := k, nSec := k, nSeal := k, point := p }
  | .mark _ _ => w

/-- In IMAGE mode the reconstructed segments go back to this module's own bearing rows (R363). -/
def W.keepSegments (w : W) (n : Nat) (rs : List DrainRec) : W :=
  w.each rs fun r w => w.with r.row fun row w => w.with (w.secOf n) fun s w =>
    (w.setBearRow n s row (segBytes r.entries)).modSec n fun s =>
      { s with segs := s.segs ++ [{ seq := r.va, row := row, entries := r.entries, acked := true, drained := false }], nextSeg := max s.nextSeg (r.va + 1) }

/-- RESTORE_DONE (R363). `unreachable` are the members of the source group that did not answer; of the drained records only those count
that lie in the range at HOST_ADDR. -/
def execRestoreDone (span : Nat) (records : List DrainRec) (unreachable : List Nat) (s : State) : Host.Outcome State Fault Refusal :=
  s.act fun w => w.with (w.sp span).run fun r w =>
    let drained := (records.filter fun q => q.row.isNone).take (if r.hostAddr = 0 then 0 else r.length / drainRecBytes)
    let rs := (drained ++ records.filter fun q => q.row.isSome).foldr insertDrain []
    w.if (!w.ending span) fun w =>
    let w := w.modSp span fun x => { x with run := none }
    let unreachable := unreachable.filter (chainOf r.ranks r.srcRank).contains
    if 2 ≤ unreachable.length then w.failRestore span r.cmd .squashed (.rank (unreachable.headD 0))
    else if rs.any fun q => !q.holds then w.failRestore span r.cmd .keystone
    else if drained.any fun q => q.magic != 0x56533242 || q.ty != 4 then w.failRestore span r.cmd .refusedFormat
    else
      match upToMark r.point rs with
      | none => w.failRestore span r.cmd .refusedContract
      | some (es, p) =>
        match es.findSome? fun e => w.entryFault span r.image r.table e with
        | some st => w.failRestore span r.cmd st
        | none =>
          let w := w.each es fun e w => w.applyLog span r.image r.table e
          let w := if r.image then (w.keepSegments span rs).modSp span fun x => { x with mode := .frozen }
            else w.modTable span r.table fun t => { t with stalled := false, fold := t.fold.map fun f => (f.1, true) }
          w.finish r.cmd .ok (.count p)

/-! ### Folding a failed rank (R365) -/

/-- RESHARD (R365). It clears STALLED (R190). The log of a member of this span's parity group is then lost without a restore, of which span and
PF hear (R361). -/
def execReshard (p : Pkt) (s : State) : Host.Outcome State Fault Refusal :=
  s.act fun w => w.intake opReshard p fun c w =>
    let n := c.fn
    let rank := p.arg 14 2
    match (if p.arg 12 2 < 1024 then w.table n (p.arg 12 2) else none) with
    | none => w.answer c .refusedFormat
    | some t =>
      let rs := w.rankList n t
      if !rs.contains rank || w.isSelf t rank then w.answer c .refusedFormat
      else
        let f := { t with fold := some (rank, false) }
        let grown := { t with localRows := w.rowsHere n f }
        if t.fold.isSome || (w.regionFault n t.addrRows grown.rowTiles).isSome then w.answer c .refusedFit
        else
          let back := t.moves.filter fun m => !m.flipped && m.rows.any fun e => e.newRank == rank
          let w := w.each back fun m w => w.failMove n t.id m .squashed
          let w := w.modTable n t.id fun t =>
            { t with fold := some (rank, false), stalled := false, closing := t.closing.filter fun q => q.2 != rank }
          let spread := ((w.secOf n).map fun s => decide (1 < s.policy.group) && s.policy.ranks.contains rank).getD false
          (if spread then w.health n unitAbut (.rank t.id rank) else w).answer c .ok

end Sys2Proof.Machine
end

