-- ==== Sys2Proof/Machine/Receive.lean ====
section
/-! DEFINITION. What Viaduct brings in: frames and their order, acknowledgements, refusals, timers, congestion, flows and ports (R309
to R325). -/

namespace Sys2Proof.Machine

open Sys2Proof

/-! ### Access to a span (R317, R321) -/

/-- Does a span accept fabric access from a packet? -/
def W.spanTakes (w : W) (f : Frame) : Bool :=
  let m := (w.sp f.dstSpan).mode
  decide (f.dstSpan < 64) && (m == .active || m == .frozen || m == .restoring) && w.group f.dstSpan != 0 && f.group.toNat == w.group f.dstSpan

/-- Does the slot that KEY names still hold the handle? -/
def W.keyHeld (w : W) (f : Frame) : Bool :=
  f.key == 0 || ((w.keySlot (f.key % 4096)).state == .installed && w.keyHandle (f.key % 4096) == f.key)

/-! ### The data types (R317, R318) -/

/-- PUT: checked, then written (R317). -/
def W.gotPut (w : W) (n : Nat) (f : Frame) : W :=
  let ts := (List.range (f.payload.length / tileBytes)).map fun i =>
    (tileAfter f.arg i, Tile.ofBytes ((f.payload.drop (tileBytes * i)).take tileBytes))
  if ts.any fun q => (w.writeFault n q.1).isSome then w.nackTo f 1
  else if ts.any fun q => !q.2.keystoneOk then (w.count n 0x248 2).nackTo f 2
  else w.each ts fun q w => w.putHome n q.1 q.2

/-- Tiles of a deck image that another module asks for by its digest (R206). -/
def W.imageStream (w : W) (dig : BitVec 256) : Option (List Tile) :=
  (w.deck.images.find? fun i => i.digest == dig && !i.loading).map fun i => (List.range i.tiles).filterMap fun t => (i.tileAddr t).map w.tileAt

/-- Factor tiles of an adapter that another module asks for by its deck digest (R206, R222). -/
def W.factorStream (w : W) (n : Nat) (dig : BitVec 256) : Option (List Tile) :=
  (w.deck.adapters.find? fun a => a.span == n && a.deckDigest == dig && a.loading.isNone && a.valid).map fun a =>
    a.factors.map fun va => (w.stored n va).getD []

/-- The `k` data units of 4,096 bytes of a tile stream from unit `j` on (R206, R308). -/
def streamUnits (ts : List Tile) (j k : Nat) : List Byte :=
  let t := 4096 * j / tileBytes
  ((((ts.drop t).take (k + 1)).flatMap Tile.bytes).drop (4096 * j - tileBytes * t)).take (4096 * k)

/-- GET_REQ: a whole tile, a row, the stream of an image or of factors, or one tile of an image (R184, R206, R220, R317). `bad` tells that
the read of HBM is uncorrectable (R42, log entry 151). -/
def W.gotGet (w : W) (n : Nat) (f : Frame) (bad : Bool) : W :=
  match f.payload with
  | [] =>
    let resp (t : Tile) (w : W) : W := w.send n f.srcRank f.srcSpan f.key false tyGetResp f.arg t.bytes none
    if !isTileAddr f.arg then w.nackTo f 1
    else
      match w.locate n (w.currentBinds n) f.arg with
      | .unmapped => w.nackTo f 1
      | .lost => resp (Tile.poisoned []) w
      | .home _ _ =>
        let w := if bad && (w.hotAt n f.arg).isNone then w.spoilTile n f.arg else w
        let t := (w.rowTile n f.arg).getD []
        if t.keystoneOk then resp t w else (w.listTileBad n f.arg).nackTo f 2
      | .deck _ _ pa =>
        if (w.tileAt pa).keystoneOk then resp (w.tileAt pa) w
        else ((w.count n 0x248 2).channelEvent (chanOf (pa / pageBytes)) .doubleFetch).nackTo f 2
  | b :: rest =>
    if b = 1#8 then w.gotLook n f.srcRank f.srcSpan f.payload bad
    else if b = 3#8 then
      let k := rd rest 32 4
      match w.imageStream (BitVec.ofNat 256 (rd rest 0 32)) with
      | none => w.nackTo f 1
      | some ts =>
        if ts.length ≤ k then w.nackTo f 1
        else
          let per := w.deltaUnits
          let j := k * tileBytes / 4096
          w.each (List.range (2 / per)) fun i w =>
            w.send n f.srcRank f.srcSpan f.key false tyGetResp (j + per * i) (streamUnits ts (j + per * i) per) none
    else
      let dig : BitVec 256 := BitVec.ofNat 256 (rd rest 0 32)
      match (if b = 4#8 then w.factorStream n dig else w.imageStream dig) with
      | none => w.nackTo f 1
      | some ts =>
        w.each (List.range (ceilDiv (ts.length * tileBytes) 4096)) fun j w =>
          w.send n f.srcRank f.srcSpan f.key false tyGetResp j (streamUnits ts j 1) none

/-- The status of a look-up that its owner could not serve, by its code. -/
def Status.ofRead (k : Nat) : Status := if k = Status.poisoned.code then .poisoned else if k = Status.keystone.code then .keystone else .refusedPermission

/-- GET_RESP: a tile for a GET, a row for a look-up; units of a stream, and a tile asked for again (R220), are the data of the
completion that the load or the refetch waits for. -/
def W.gotResp (w : W) (f : Frame) : W :=
  if f.payload.length = tileBytes then
    w.with (w.step.inflight.find? fun g => g.gets.any fun q => q.1 == f.srcRank && q.2.1 == f.arg) fun g w =>
    w.with (g.gets.find? fun q => q.1 == f.srcRank && q.2.1 == f.arg) fun q w =>
    w.with (w.stepOf g.step) fun x w =>
      let t := Tile.ofBytes f.payload
      if !t.keystoneOk then (w.count x.span 0x248 2).failStep x.id .keystone (.addr q.2.1)
      else w.setInFlight { g with gets := g.gets.erase q, writes := g.writes ++ [(q.2.2, t)] }
  else if f.arg = lookArg then
    let r : LookRes := match rd f.payload 9 1 with
      | 0 => .row (f.payload.drop 11) (bit (rd f.payload 10 1) 0) (bit (rd f.payload 10 1) 1)
      | 1 => .stalled
      | 2 => .bad
      | _ => .fault (Status.ofRead (rd f.payload 10 1)) (rd f.payload 11 8)
    w.lookArrived (rd f.payload 1 8) (some f.srcRank) r
  else w

/-- ROW_REC: coalesced or kept at its owner (R191); refused for a row that this owner's table does not have (R181), or whose map cannot be
read (R180). -/
def W.gotRecord (w : W) (n : Nat) (f : Frame) : W :=
  let r := RowRecord.ofBody (f.arg % 2 ^ 32) f.payload
  match (if r.table < 1024 then w.table n r.table else none) with
  | none => w.nackTo f 4
  | some t =>
    match w.carrierFault n (t.mapTiles r.row) with
    | some (st, va) => (w.carrierBad n (st, va)).nackTo f (if st = .keystone then 2 else if st = .poisoned then 5 else 1)
    | none =>
    let bad := match w.ownerOf n t r.row with
      | some (rk, j) => w.isSelf t rk && decide (w.rowsHere n t ≤ j)
      | none => true
    if bad || r.sums.length ≠ t.dim then w.nackTo f 4 else w.coalesce n r none (some f.srcRank)

/-- COLL: a partial segment goes on (R363); any other message joins its collective, or waits for it (R318). -/
def W.gotColl (w : W) (n : Nat) (f : Frame) : W :=
  if isPart f.ty f.arg then w.forwardPart n f
  else
    let mine (p : Coll → Bool) (g : InFlight) : Bool := ((w.stepOf g.step).map (·.span)) == some n && (g.coll.map p).getD false
    match w.step.inflight.find? (mine fun c => c.agrees f && c.wants f) with
    | some g => w.runOn g (Act.collFrame f)
    | none =>
      match w.step.inflight.find? (mine fun c => c.wants f) with
      | some g => w.runOn g (Act.collFrame f)
      | none => { w with vdt.colls := w.vdt.colls ++ [f] }

/-! ### Control messages (R310, R320, R321) -/

/-- FLOW_RESET: every packet held for the flow is discarded, and its numbers start anew. For its own flow it has done so as it
came. -/
def W.gotReset (w : W) (f : Frame) : W :=
  { w with vdt.rxs := w.vdt.rxs.filter fun r => !(r.rank == f.srcRank && r.flow == f.arg && !r.ctrl) }

/-- Number a flow's packets from 0 on and send them again, for a module that knows none of its flows (R310). -/
def W.resendAll (w : W) (g : Flow) : W :=
  let l := renumber g.sent
  let w := w.modFlow g.id fun g => { g with sent := l, psn := l.length }
  if w.mayEmit g.span g.rank g.key then w.each l fun p w => (w.count g.span 0x230 1).emitFrame p.frame p.port else w

/-- The requests of GETs to a rank that have been acknowledged and not answered go again (R324). -/
def W.askAgain (w : W) (rank : Nat) : W :=
  w.each w.step.inflight fun f w => w.each (f.gets.filter fun q => q.1 == rank) fun q w => w.with (w.stepOf f.step) fun x w =>
    let d := w.flightDesc f
    let open_ := (w.vdt.flows.any fun g => g.sent.any fun p => p.frame.ty == tyGetReq && p.frame.arg == q.2.1 && p.step == some x.id)
      || w.vdt.waiting.any fun u => u.ty == tyGetReq && u.arg == q.2.1 && u.step == some x.id
    w.if (!open_ && 0x51 == rd d 0 1) fun w =>
      w.send x.span rank (rd d 9 1) (if bit (rd d 1 1) 6 then w.keyHandle (rd d 14 2) else 0) false tyGetReq q.2.1 [] (some x.id)

/-- RANK_MOVED: the rank's entry is rewritten; what it had not acknowledged goes again, to a module that knows none of the flows, and so do
requests still to be answered (R310, R324). -/
def W.gotMoved (w : W) (f : Frame) : W :=
  let rank := f.arg
  let w := { w with vdt.ranks := Sparse.put (fun _ => 0#128) w.vdt.ranks rank (BitVec.ofNat 128 (rd f.payload 0 16)) }
  let w := { w with vdt.closed := w.vdt.closed.filter fun c => c.1 != rank }
  (w.each (w.vdt.flows.filter fun g => g.rank == rank) fun g w => w.resendAll g).askAgain rank

/-! ### Order of effect (R309, R312) -/

/-- A frame takes effect. A key that is gone and a group that does not match are answered so (R317, R321). -/
def W.applyFrame (w : W) (f : Frame) (bad : Bool := false) : W :=
  let n := f.dstSpan
  if f.ty = tyRankMoved then w.gotMoved f
  else if f.ty = tyFlowReset then w.gotReset f
  else if !w.keyHeld f then (w.count n 0x238 1).nackTo f 3
  else if !w.spanTakes f then (if f.ty < 0x80 then w.nackTo f 0 else w)
  else if f.ty = tyPut then
    (if isDelta f then (match w.gotDelta n f with | (true, w) => w | (false, w) => w.nackTo f 1)
     else if !isCopy f.ty f.arg then w.gotPut n f
     else (match w.gotCopy n f with | some w => w | none => w.nackTo f 4))
  else if f.ty = tyGetReq then w.gotGet n f bad
  else if f.ty = tyGetResp then w.gotResp f
  else if f.ty = tyRowRec then w.gotRecord n f
  else if f.ty = tyColl then w.gotColl n f
  else if f.ty = tyClose then w.gotClose n f
  else if f.ty = tyVoid then w.gotVoid n f
  else if f.ty = tyAccept then w.gotAccept n f
  else if f.ty = tyDir then w.gotDir n f
  else if f.ty = tyRedirect then w.gotRedirect f
  else w

/-- Positions in rising order as runs, each given by its first and its last. -/
def runsOf : List Nat → List (Nat × Nat)
  | [] => []
  | p :: ps =>
    match runsOf ps with
    | (a, b) :: rs => if a = p + 1 then (p, b) :: rs else (p, p) :: (a, b) :: rs
    | [] => [(p, p)]

/-- The cumulative PSN of an acknowledgement: the next one, or the oldest that was refused (R317). -/
def RxFlow.cum (r : RxFlow) : Nat := (r.next + 2 ^ 24 - (r.refused.foldl (fun m q => max m (psnPos r.next q.1)) 0)) % 2 ^ 24

/-- The selective ranges of an acknowledgement (R312): the first eight runs of PSNs taken or held beyond the cumulative one. -/
def RxFlow.ranges (r : RxFlow) : List (Nat × Nat) :=
  let at' (p : Nat) : Nat := (r.cum + p) % 2 ^ 24
  let taken := (List.range (psnPos r.next r.cum)).filter fun p => !(r.refused.any fun q => psnPos q.1 r.cum == p)
  ((runsOf (r.held.foldl (fun l g => insertNat (psnPos g.psn r.cum) l) taken)).take 8).map fun q => (at' q.1, at' q.2)

/-- Acknowledge a flow: the cumulative PSN, ranges beyond it (R312), and the share and number of CE marks since the last acknowledgement (R315).
The RTT that it echoes is a measured time: a free value. Nothing goes out while the span's egress is stopped (R272), and the
acknowledgement timer sends it later; nor to a rank without an entry (R309). -/
def W.sendAck (w : W) (r : RxFlow) : W :=
  if (w.sp r.span).stopVdt || !w.reaches r.rank then w
  else
    let (p, w) := w.nextPort
    let (v, w) := w.freeVal
    let g : Frame := { ty := tyAck, ctrl := true, ackreq := Config.ackReq tyAck r.cum, enc := false, srcRank := w.rank.getD 0xFFFF, dstRank := r.rank,
                       srcSpan := r.span, dstSpan := r.srcSpan, group := BitVec.ofNat 32 (w.group r.span), psn := r.cum, key := 0,
                       flow := r.flow, arg := r.cum, payload := [] }
    let a : AckInfo := { cum := r.cum, ranges := r.ranges, ce1024 := 1024 * r.marks / max 1 r.unacked, rtt := v.toNat, marks := r.marks }
    (w.emit (.ackFrame g a (w.wire r.rank p true))).setRx { r with unacked := 0, marks := 0 }

/-- A frame in its turn: a part of a message waits for the last one; a whole message takes effect. -/
def W.takeFrame (w : W) (f : Frame) (bad : Bool) : W :=
  if inParts f.ty f.arg then
    let r := w.rx f
    if f.payload.length = 4096 then w.setRx { r with part := r.part ++ f.payload }
    else (w.setRx { r with part := [] }).applyFrame { f with payload := r.part ++ f.payload } bad
  else w.applyFrame f bad

/-- Take frames in PSN order, as long as the next is there. -/
def W.takeInOrder (bad : Bool) : Nat → W → Frame → W
  | 0, w, _ => w
  | k + 1, w, f =>
    let r := w.rx f
    let next := (r.next + 1) % 2 ^ 24
    let w := w.setRx { r with next := next, held := r.held.filter fun g => g.psn != f.psn }
    let w := w.takeFrame f bad
    match (w.rx f).held.find? fun g => g.psn == next with
    | some g => W.takeInOrder bad k w g
    | none => w

/-- A frame that comes in at a port: one that fails its checks is dropped and reported to the port's bucket (R307, R323, R327), and one for
another rank is dropped and counted there (R309). Is it to be taken? -/
def W.arrives (w : W) (a : Arrival) : Bool × W :=
  if 9 ≤ a.port || (w.port a.port).state != .up || (w.pwr.standby && !a.ctrl) then (false, w)
  else if a.check ≠ .good then (false, w.portEvent a.port (if a.check = .uncorrectable then .codeword else .badFrame))
  else if w.rank ≠ some a.dstRank then (false, w.modPort a.port fun p => { p with misaddr := min 255 (p.misaddr + 1) })
  else (true, w)

/-- Go on with a frame that is to be taken. -/
def W.arrived (w : W) (a : Arrival) (go : W → W) : W :=
  match w.arrives a with
  | (true, w) => go w
  | (false, w) => w

/-- Does a frame begin its flow anew: the first of a module that takes a rank over (R310), or a FLOW_RESET of its own flow (R314)? -/
def W.restarts (w : W) (f : Frame) : Bool :=
  (f.ty == tyRankMoved && w.rankAddr f.arg != BitVec.ofNat 128 (rd f.payload 0 16))
    || (f.ty == tyFlowReset && f.ctrl && f.arg == f.flow && decide (psnPos f.psn (w.rx f).next < 2 ^ 23))

/-- Forget what is held of the flow, or of all flows of a rank that has moved; the frame is the next one. -/
def W.restart (w : W) (f : Frame) : W :=
  let w := { w with vdt.rxs := w.vdt.rxs.filter fun r => !(r.rank == f.srcRank && (f.ty == tyRankMoved || (r.flow == f.flow && r.ctrl == f.ctrl))) }
  w.setRx { w.rx f with next := f.psn }

/-- A packet that is new counts towards the 16 that are acknowledged together (R312), and its CE mark with it (R315). -/
def RxFlow.countOne (r : RxFlow) (ce : Bool) : RxFlow := { r with unacked := r.unacked + 1, marks := r.marks + if ce then 1 else 0 }

/-- A frame arrives: in the flow's order, with up to 1,024 packets held ahead of a gap (R309, R312); one that was refused is refused
again (R317). `bad` tells that the reads of HBM that it asks for are uncorrectable. -/
def W.receive (w : W) (a : Arrival) (bad : Bool := false) : W :=
  w.arrived a fun w =>
    let f := a.toFrame
    let w := if w.restarts f then w.restart f else w
    let r := w.rx f
    let d := psnPos f.psn r.next
    let full (w : W) : W := let r := w.rx f; if 16 ≤ r.unacked then w.sendAck r else w
    if d = 0 then full (W.takeInOrder bad 1025 (w.setRx (r.countOne a.ce)) f)
    else if d ≤ 1024 then
      if r.held.any fun g => g.psn == f.psn then w else full (w.setRx { r.countOne a.ce with held := r.held ++ [f] })
    else if 2 ^ 23 ≤ d then
      match r.refused.find? fun q => q.1 == f.psn with
      | some q => w.nackOut f q.2
      | none => w.sendAck r
    else w

/-! ### Frames as commands -/

/-- PUT_FRAME (R317). -/
def execPutFrame (f : Arrival) (s : State) : Host.Outcome State Fault Refusal :=
  s.act fun w => w.if (f.ty == tyPut && !isDelta f.toFrame) fun w => w.receive f

/-- GET_REQ (R317). -/
def execGetReq (f : GetRequest) (s : State) : Host.Outcome State Fault Refusal :=
  s.act fun w => w.if (f.frame.ty == tyGetReq) fun w => w.receive f.frame f.bad

/-- GET_RESP (R317). -/
def execGetResp (f : Arrival) (s : State) : Host.Outcome State Fault Refusal := s.act fun w => w.if (f.ty == tyGetResp) fun w => w.receive f

/-- ROW_REC (R191). -/
def execRowRec (f : Arrival) (s : State) : Host.Outcome State Fault Refusal := s.act fun w => w.if (f.ty == tyRowRec) fun w => w.receive f

/-- COLL (R318). -/
def execColl (f : Arrival) (s : State) : Host.Outcome State Fault Refusal :=
  s.act fun w => w.if (f.ty == tyColl && !isPart f.ty f.arg) fun w => w.receive f

/-- PARITY_DELTA (R359). -/
def execParityDelta (f : Arrival) (row : Nat) (s : State) : Host.Outcome State Fault Refusal :=
  s.act fun w => w.if (isDelta f.toFrame && f.arg / 512 == row) fun w => w.receive f

/-- SEGMENT_RECONSTRUCT (R363). -/
def execSegmentReconstruct (f : Arrival) (row : Nat) (s : State) : Host.Outcome State Fault Refusal :=
  s.act fun w => w.if (isPart f.ty f.arg && f.arg % 2 ^ 32 / 512 == row) fun w => w.receive f

/-- CLOSE (R188). -/
def execClose (f : Arrival) (s : State) : Host.Outcome State Fault Refusal := s.act fun w => w.if (f.ty == tyClose) fun w => w.receive f

/-- VOID (R188). -/
def execVoid (f : Arrival) (s : State) : Host.Outcome State Fault Refusal := s.act fun w => w.if (f.ty == tyVoid) fun w => w.receive f

/-- ACCEPT (R188). -/
def execAccept (f : Arrival) (s : State) : Host.Outcome State Fault Refusal := s.act fun w => w.if (f.ty == tyAccept) fun w => w.receive f

/-- DIR_UPDATE (R197). -/
def execDirUpdate (f : Arrival) (s : State) : Host.Outcome State Fault Refusal := s.act fun w => w.if (f.ty == tyDir) fun w => w.receive f

/-- REDIRECT (R198). -/
def execRedirect (f : Arrival) (s : State) : Host.Outcome State Fault Refusal := s.act fun w => w.if (f.ty == tyRedirect) fun w => w.receive f

/-- FLOW_RESET (R321). -/
def execFlowReset (f : Arrival) (s : State) : Host.Outcome State Fault Refusal := s.act fun w => w.if (f.ty == tyFlowReset) fun w => w.receive f

/-- RANK_MOVED (R310). -/
def execRankMoved (f : Arrival) (s : State) : Host.Outcome State Fault Refusal := s.act fun w => w.if (f.ty == tyRankMoved) fun w => w.receive f

/-! ### Acknowledgements and congestion (R312, R313, R315) -/

/-- What a packet's acknowledgement does: a put of a step is done (R24), and a bearing row whose last packet it was has its parity. -/
def W.pktDone (w : W) (i : Nat) (p : SentPkt) : W :=
  w.with (w.flow i) fun f w =>
    if p.frame.ty ≠ tyPut then w
    else
      match p.step with
      | some id => w.modStep id fun x => { x with putsOpen := x.putsOpen - 1 }
      | none =>
        let row := p.frame.arg / 512
        let left := w.vdt.flows.any fun g => g.span == f.span && g.sent.any fun q => isDelta q.frame && q.frame.arg / 512 == row
        if isDelta p.frame && !left then
          w.modSec f.span fun s => { s with segs := s.segs.map fun g => if g.row = row then { g with acked := !g.lost } else g }
        else w

/-- Egress rate of the module in units of 0.1 MB/s (R306). -/
def W.egress (w : W) : Nat := 2000000 * min 8 w.portsUp.length

/-- Bounds of a flow's rate (R315). -/
def W.clampRate (w : W) (r : Nat) : Nat := max 1000 (min r w.egress)

/-- Has an acknowledgement covered a PSN? -/
def AckInfo.covers (a : AckInfo) (psn : Nat) : Bool :=
  decide (2 ^ 23 ≤ psnPos psn a.cum) || a.ranges.any fun r => decide (psnPos r.1 a.cum ≤ psnPos psn a.cum) && decide (psnPos psn a.cum ≤ psnPos r.2 a.cum)

/-- After acknowledgements: barriers and migrations that waited for them. -/
def W.settleAcks (w : W) (n : Nat) : W :=
  let ids := w.tables.filterMap fun (k, t) => if k / 1024 = n then t.map (·.id) else none
  w.each ids fun id w => (w.settleMoves n id).settleCloses n id

/-- Has an RTT passed since the rate last fell: is the first packet sent after that acknowledged (R315, log entry 78)? -/
def Flow.mayCut (g : Flow) (a : AckInfo) : Bool := match g.cut with | none => true | some p => a.covers p

/-- ACK (R312, R313, R315): what it covers is done, gaps behind its ranges go again, and the rate falls where CE marks or the RTT say
so, at most once per RTT. A FLOW_RESET that it covers frees an index, for packets that wait for one (R311). -/
def execAck (f : Arrival) (info : AckInfo) (s : State) : Host.Outcome State Fault Refusal :=
  s.act fun w => w.if (f.ty == tyAck) fun w => w.arrived f fun w => w.with (w.flow f.flow) fun g w => w.if (g.rank == f.srcRank) fun w =>
    let done := g.sent.filter fun p => info.covers p.frame.psn
    let gaps := g.sent.filter fun p => !info.covers p.frame.psn && info.ranges.any fun r => decide (psnPos p.frame.psn info.cum < psnPos r.1 info.cum)
    let least := if g.minRtt = 0 then info.rtt else min g.minRtt info.rtt
    let ce := if 4 * least < info.rtt then 1024 else min 1024 info.ce1024
    let falls := ce != 0 && g.mayCut info
    let w := w.modFlow g.id fun g =>
      { g with sent := g.sent.filter fun p => !info.covers p.frame.psn, minRtt := least,
               rate := if falls then w.clampRate (g.rate * (2048 - ce) / 2048) else g.rate, cut := if falls then some g.psn else g.cut }
    let w := w.each done fun p w => w.pktDone g.id p
    let w := w.each gaps fun p w => w.resend g.id p.frame.psn
    let w := if done.any fun p => p.frame.ty == tyFlowReset then w.sendWaiting else w
    (w.count g.span 0x240 info.marks).settleAcks g.span

/-- A tile of an image that was asked of its peer again cannot be had (R221). -/
def W.failRefetch (w : W) (p : SentPkt) : W :=
  w.if (p.frame.ty == tyGetReq && rd p.frame.payload 0 1 == 3) fun w =>
    w.with (w.deck.images.find? fun i => i.digest == BitVec.ofNat 256 (rd p.frame.payload 1 32) && i.source == 1) fun i w =>
      w.damage i.id (rd p.frame.payload 33 4)

/-- End every load that waits for a peer (R205, R222, R314). -/
def W.failPeer (w : W) (n rank : Nat) (st : Status) (d : Detail) : W :=
  let ls := w.deck.loads.filter fun l => l.span == n && ((w.image l.image).map fun i => i.source == 1 && i.peer == rank).getD false
  let w := w.each ls fun l w => w.dropLoad l st
  let as := w.deck.adapters.filter fun a => a.span == n && a.source == 2 && a.peer == rank
  let w := w.each as fun a w => w.with a.loading fun c w =>
    ({ w with deck.adapters := w.deck.adapters.filter fun x => x.handle != a.handle }).finish c st d
  let hs := as.map (·.handle)
  w.each (w.step.steps.filter fun x => x.phase != .ended && x.reloads.any fun h => hs.contains h) fun x w => w.failStep x.id st d

/-- Migrations to a rank copy anew (R198, R199). -/
def W.uncopy (w : W) (n rank : Nat) : W :=
  let ids := w.tables.filterMap fun (k, t) => if k / 1024 = n then t.map (·.id) else none
  w.each ids fun id w => w.modTable n id fun t =>
    { t with moves := t.moves.map fun m => if !m.flipped && m.rows.any (fun e => e.newRank == rank) then { m with copied := false, acked := false } else m }

/-- Status and detail that a NACK's reason gives (R317); reasons 4 (refused fields) and 5 (a poisoned map) are the
model's numbers. -/
def nackStatus (reason rank addr : Nat) : Status × Detail :=
  match reason with
  | 0 => (.refusedPermission, .rank rank)
  | 1 => (.refusedPermission, .addr addr)
  | 2 => (.keystone, .addr addr)
  | 3 => (.squashed, .rank rank)
  | 5 => (.poisoned, .rank rank)
  | _ => (.refusedFormat, .rank rank)

/-- NACK (R317): ends the step of the packet's operation. ARG names the packet by its PSN (log entry 22). -/
def execNack (f : Arrival) (reason : Nat) (s : State) : Host.Outcome State Fault Refusal :=
  s.act fun w => w.if (f.ty == tyNack) fun w => w.arrived f fun w => w.with (w.flow f.flow) fun g w => w.if (g.rank == f.srcRank) fun w =>
    w.with (g.sent.find? fun p => p.frame.psn == f.arg) fun p w =>
      let (st, d) := nackStatus reason f.srcRank (p.frame.arg % 2 ^ 48)
      let w := w.modFlow g.id fun g => { g with sent := g.sent.filter fun q => q.frame.psn != f.arg }
      let w := w.loseRecords g.span g.rank (if p.frame.ty = tyRowRec then [p.frame.arg] else [])
      match p.step with
      | some id => w.failStep id st d
      | none =>
        if p.frame.ty = tyGetReq && rd p.frame.payload 0 1 == 3 then w.failRefetch p
        else if p.frame.ty = tyGetReq then w.failPeer g.span f.srcRank st d
        else if isCopy p.frame.ty p.frame.arg then
          w.with (w.table g.span (p.frame.arg / 2 ^ 40 % 65536)) fun t w =>
          w.with (t.moves.find? fun m => !m.flipped && m.rows.any fun e => e.newRank == f.srcRank && e.newLocal == p.frame.arg % 2 ^ 40) fun m w =>
            w.failMove g.span t.id m st
        else if isDelta p.frame then
          let spoil (q : Segment) : Segment := if q.row = p.frame.arg / 512 then { q with lost := true } else q
          (w.modSec g.span fun s => { s with segs := s.segs.map spoil }).health g.span unitVdt
        else w

/-- RETX_TIMER (R313): the timer of the packet then doubles, which the number of its tries tells. -/
def execRetxTimer (flow psn : Nat) (s : State) : Host.Outcome State Fault Refusal := s.act fun w => w.resend flow psn

/-- ACK_TIMER (R312). -/
def execAckTimer (rank flow : Nat) (s : State) : Host.Outcome State Fault Refusal :=
  s.act fun w => w.each (w.vdt.rxs.filter fun r => r.rank == rank && r.flow == flow && r.unacked != 0) fun r w => w.sendAck r

/-- CC_INCREASE (R315). -/
def execCcIncrease (flow : Nat) (s : State) : Host.Outcome State Fault Refusal :=
  s.act fun w => w.modFlow flow fun g => { g with rate := w.clampRate (g.rate + 5000) }

/-! ### Flows that end (R311, R314) -/

/-- Is what a descriptor does an operation on a flow: does it wait for answers to its requests on it, or send its collective's data on
it? -/
def W.usesFlow (w : W) (f : InFlight) (g : Flow) : Bool :=
  let d := w.flightDesc f
  let key := if bit (rd d 1 1) 6 then w.keyHandle (rd d 14 2) else 0
  !g.ctrl && ((w.stepOf f.step).map (·.span)) == some g.span && rd d 9 1 == g.dstSpan && key == g.key
    && (f.gets.any (fun q => q.1 == g.rank) || (f.coll.map fun c => c.next == g.rank || c.prev == g.rank).getD false)

/-- Does a load or a refetch of a span wait for a stream from a peer? It asks on the flow of its own key to the same span there. -/
def W.peerAsked (w : W) (g : Flow) : Bool :=
  !g.ctrl && g.dstSpan == g.span
    && ((w.deck.loads.any fun l => l.span == g.span && ((w.image l.image).map fun i => i.source == 1 && i.peer == g.rank && i.handle == g.key).getD false)
      || (w.deck.adapters.any fun a => a.span == g.span && a.source == 2 && a.peer == g.rank && w.keyHandle a.key == g.key
            && (a.loading.isSome || w.step.steps.any fun x => x.phase != .ended && x.reloads.contains a.handle)))

/-- Tiles of images that have been asked of a peer again on a flow and have not come (R220). -/
def W.refetchesOn (w : W) (g : Flow) : List (Nat × Nat) :=
  (w.deck.images.filter fun i => !g.ctrl && i.source == 1 && i.owner == g.span && i.peer == g.rank && i.handle == g.key).flatMap fun i =>
    i.asked.map fun k => (i.id, k)

/-- FLOW_UNREACHABLE (R314): the flow, on which something is outstanding, is reset, its operations end, span and PF hear of it. -/
def execFlowUnreachable (flow : Nat) (s : State) : Host.Outcome State Fault Refusal :=
  s.act fun w => w.with (w.flow flow) fun g w =>
    let fs := w.step.inflight.filter fun f => w.usesFlow f g
    let asked := w.peerAsked g
    w.if (!g.sent.isEmpty || !fs.isEmpty || asked || !(w.refetchesOn g).isEmpty) fun w =>
      let w := w.resetFlow flow
      let w := w.each (g.sent.filterMap (·.step) ++ fs.map (·.step)).dedup fun id w => w.failStep id .squashed (.rank g.rank)
      let w := w.each (w.refetchesOn g) fun q w => w.damage q.1 q.2
      let w := if asked then w.failPeer g.span g.rank .squashed (.rank g.rank) else w
      let w := (w.uncopy g.span g.rank).sendWaiting
      w.health g.span unitVdt

/-- FLOW_IDLE_CLOSE (R311): room for an operation that waits. -/
def execFlowIdleClose (flow : Nat) (s : State) : Host.Outcome State Fault Refusal :=
  s.act fun w => w.with (w.flow flow) fun g w => w.if g.sent.isEmpty fun w => (w.closeFlow g).sendWaiting

/-! ### Ports (R322 to R324) -/

/-- PORT_LINK_LOSS (R323, R324): the port retrains, or is retired after three failed attempts. -/
def execPortLinkLoss (port attemptsFailed : Nat) (s : State) : Host.Outcome State Fault Refusal :=
  s.act fun w => w.if (decide (port < 9) && (w.port port).state != .retired) fun w =>
    let w := w.modPort port fun p => { p with state := .training, retrain := min 15 (p.retrain + 1), overWindows := 0 }
    let w := w.portEvent port .linkLoss
    if 3 ≤ attemptsFailed then w.portEvent port .retrainings else w

/-- PORT_STATUS_UPDATE (R322, R332): eye margin in mV and bit error ratio as -log10, port by port. A ratio above 10^-5 in 100 windows of
10 ms in a row is an event. -/
def execPortStatusUpdate (status : List (Nat × Nat)) (s : State) : Host.Outcome State Fault Refusal :=
  s.act fun w => w.each ((status.take 9).zipIdx) fun ((m, b), p) w =>
    let k := if b < 5 && (w.port p).state == .up then (w.port p).overWindows + 1 else 0
    let w := w.modPort p fun q => { q with margin := min 1023 m, ber := min 255 b, overWindows := if k = 100 then 0 else k }
    if k = 100 then w.portEvent p .bitErrors else w

end Sys2Proof.Machine
end

