-- ==== Sys2Proof/Machine/Saves.lean ====
section
/-! DEFINITION. Saving a span to host memory and restoring it (R299 to R303). -/

namespace Sys2Proof.Machine

open Sys2Proof

/-- Bytes of a page record (R300). -/
def pageRecBytes : Nat := 4096 + pageBytes

/-- Images that a save carries in page records: charged to the span and not SHAREABLE (R301), with the page numbers that their records
name. A current one has its window's; every other one numbers above all of these and of the span's own pages, since its window is
another's (log entry 148). -/
def W.savedImages (w : W) (n : Nat) : List (Image × List Nat) :=
  let mine (i : Image) : Bool := i.charge == n && !i.shareable && !i.loading
  let now := (List.range 16).filterMap fun k =>
    let s := w.slot n k
    match s.current.bind w.image, s.window with
    | some i, some b => if mine i then some (i, (List.range i.frames.length).map (b / pageBytes + ·)) else none
    | _, _ => none
  let rest := w.deck.images.filter fun i => mine i && !(now.any fun q => q.1.id == i.id)
  let top := (((w.pagesOf n).map (·.1)) ++ now.flatMap (·.2)).foldl (fun m vp => max m (vp + 1)) 0
  now ++ (rest.foldl (fun (acc : List (Image × List Nat) × Nat) i =>
    (acc.1 ++ [(i, (List.range i.frames.length).map (acc.2 + ·))], acc.2 + i.frames.length)) ([], top)).1

/-- The home of a page that a save writes: of the span's own, or of a saved image. -/
def W.saveHome (w : W) (n vp : Nat) : Option Nat :=
  match (w.page n vp).bind (·.frame) with
  | some f => some f
  | none => (w.savedImages n).findSome? fun (i, vps) => i.frames[vps.idxOf vp]?

/-- Every page that a save begins with, ascending (R299). -/
def W.allPages (w : W) (n : Nat) : List Nat :=
  let own := ((w.pagesOf n).filter fun q => q.2.frame.isSome).map (·.1)
  (own ++ (w.savedImages n).flatMap (·.2)).foldl (fun l vp => insertNat vp l) []

/-- The data of a record other than a state record. -/
def SaveRec.data (q : SaveRec) : List Byte :=
  if q.ty = 2 then (List.range q.dlen).map (Sparse.get memBlank q.page)
  else padTo q.dlen (q.handles.flatMap fun h => leBytes 2 h.1 ++ leBytes 2 h.2)

/-- CRC-32C of the data (R300). -/
def SaveRec.dataCrc (q : SaveRec) : Nat := if q.ty = 1 then q.stateCrc else crc32c q.data

/-- The record with DCRC and HCRC computed. -/
def SaveRec.close (q : SaveRec) : SaveRec := { q with toRecHead := q.toRecHead.close q.dataCrc }

/-- Do both check values hold (R302)? -/
def SaveRec.holds (q : SaveRec) : Bool := q.hcrc == crc32c q.bytes && q.dcrc == q.dataCrc

/-- A key-slot number relative to the span's KEY_BASE (R301), and back. -/
def relKey (base k : Nat) : Nat := (k + 4096 - base) % 4096
/-- Back to the target's KEY_BASE (R302). -/
def absKey (base k : Nat) : Nat := (k + base) % 4096

/-- The key references of a program's descriptors, changed. -/
def Program.mapKeys (p : Program) (f : Nat → Nat) : Program :=
  let desc (d : List Byte) : List Byte := if 0x50 ≤ rd d 0 1 && bit (rd d 1 1) 6 then d.take 14 ++ leBytes 2 (f (rd d 14 2)) ++ d.drop 16 else d
  { p with tasks := p.tasks.map fun t => { t with streams := t.streams.map fun s => s.map desc } }

/-- Those of a securing policy. -/
def SecState.mapKeys (s : SecState) (f : Nat → Nat) : SecState := { s with policy := { s.policy with secKey := f s.policy.secKey } }

/-- The images that a slot refers to: the current one, the older generations', the staged one. -/
def DeckSlot.images (d : DeckSlot) : List Nat := d.current.toList ++ d.olds.map (·.image) ++ d.staged.toList

/-- The state record of a span (R301). -/
def W.stateRecord (w : W) (n : Nat) : StateRec :=
  let x := w.sp n
  let rel := relKey x.keyBase
  let ls := w.coresOf n
  let pins := ls.zipIdx.flatMap fun (l, i) => ((w.core' l).tiles.filter fun e => e.pin != .none).map fun e => (i, e.addr, e.pin, e.gen)
  { keyBase := x.keyBase, keyCount := (w.keysOf n).length, cores := ls, spadSlots := x.spadSlots, hbmPages := w.quota n,
    vectors := x.vectors, drainMs := x.drainMs, weights := [x.wHbm, x.wVdt, x.wPcie, x.wSched], seedInit := x.seedInit,
    slots := (List.range 16).map (w.slot n),
    slotDigests := (List.range 16).flatMap fun k =>
      ((w.slot n k).images.filterMap w.image).map fun i => (k, i.digest),
    programs := (w.programsOf n).map fun p => p.mapKeys rel,
    tables := w.tables.filterMap fun (k, t) => if k / 1024 = n then t else none,
    adapters := (w.deck.adapters.filter fun a => a.span == n).map fun a => { a with key := rel a.key },
    requests := w.deck.requests.filter fun r => r.span == n, pins := pins,
    policy := (w.secOf n).map fun s => s.mapKeys rel, seed := x.seed, rank := w.rank.getD 0xFFFF,
    images := (w.savedImages n).map fun (i, vps) => ({ i with key := rel i.key }, vps) }

/-- May a slot serve as the migration key: an installed slot of span 0 (R299)? -/
def W.migrationKey (w : W) (k : Nat) : Bool := w.keyUsable 0 k

/-- SPAN_SAVE (R299). -/
def execSpanSave (p : Pkt) (s : State) : Host.Outcome State Fault Refusal :=
  s.act fun w => w.intake opSpanSave p fun c w =>
    let n := p.arg 12 1
    let x := w.sp n
    let final := p.opflag8
    if 63 < n || x.mode == .absent then w.answer c .refusedFormat
    else if !w.migrationKey (p.arg 14 2) then w.answer c .refusedPermission
    else if (final && x.mode != .frozen) || (x.mode != .active && x.mode != .frozen) || ((x.save.bind (·.job)).isSome) then w.answer c .retryLater
    else
      let s := x.save.getD { pass := 0, unit := 0, records := 0, dirty := w.allPages n, job := none }
      let s := { s with job := some (c.id, p.arg 16 8, p.arg 24 8, p.arg 14 2, final) }
      (w.modSp n fun x => { x with save := some s }).begin c

/-- A page record. -/
def W.pageRecord (w : W) (n pass vp : Nat) : SaveRec :=
  SaveRec.close { ty := 2, va := vp * pageBytes, dlen := pageBytes, pass := pass,
                  page := match w.saveHome n vp with | some f => Sparse.window w.mem (frameAddr f) pageBytes | none => [] }

/-- SPAN_SAVE_DONE (R299, R300): pages first; a FINAL save ends with the state record and the end record once no dirty page is left. The
length and the bytes of the state record's data are not given: free values (log entry 28). When it and the end record do not fit behind the last
page, that page stays for the next SPAN_SAVE. -/
def execSpanSaveDone (span : Nat) (s : State) : Host.Outcome State Fault Refusal :=
  s.act fun w => w.with (w.sp span).save fun sv w => w.with sv.job fun (cmd, host, len, key, final) w =>
    w.if (!(w.sp span).stopHost && !(w.sp 0).stopHost && !w.ending span) fun w =>
      let (v, w) := w.freeVal
      let (c, w) := w.freeVal
      let pass := sv.pass + 1
      let fit := min sv.dirty.length (len / pageRecBytes)
      let ads := (w.deck.adapters.filter fun a => a.span == span).length
      let stateLen := 4096 * (1 + v.toNat % 65536)
      let endLen := 4096 * ceilDiv (4 * ads) 4096
      let tail := 4096 + stateLen + 4096 + endLen
      let ends := final && fit == sv.dirty.length && (w.sp span).mode == .frozen
      let room := decide (fit * pageRecBytes + tail ≤ len)
      if ends && !room && fit == 0 then (w.modSp span fun x => { x with save := some { sv with job := none } }).finish cmd .refusedFit
      else
        let k := if ends && !room then fit - 1 else fit
        let pages := (sv.dirty.take k).map fun vp => w.pageRecord span pass vp
        let done := ends && room
        let state : SaveRec := { ty := 1, va := 0, dlen := stateLen, pass := pass, state := some (w.stateRecord span), stateCrc := c.toNat % 2 ^ 32 }
        let last : SaveRec := { ty := 3, va := 0, dlen := endLen, pass := pass, records := sv.records + k + 2, handles := List.replicate ads (0, 0) }
        let last := if done then [state.close, last.close] else []
        let bytes := k * pageRecBytes + (if done then tail else 0)
        let w := w.emit (.saveStream 0 host key sv.unit (pages ++ last))
        let left := sv.dirty.drop k
        let sv := { sv with pass := pass, unit := sv.unit + bytes / 4096, records := sv.records + k, dirty := left, job := none }
        (w.modSp span fun x => { x with save := if done then none else some sv }).finish cmd .ok (.count bytes) left.length

/-! ### Restoring (R302) -/

/-- Is a span empty enough for its first SPAN_RESTORE? -/
def W.emptySpan (w : W) (n : Nat) : Bool :=
  (w.pagesOf n).isEmpty && (w.programsOf n).isEmpty && !(w.tables.any fun (k, _) => k / 1024 == n)
    && !(w.deck.adapters.any fun a => a.span == n) && !(w.deck.requests.any fun r => r.span == n)

/-- SPAN_RESTORE (R302). -/
def execSpanRestore (p : Pkt) (s : State) : Host.Outcome State Fault Refusal :=
  s.act fun w => w.intake opSpanRestore p fun c w =>
    let n := p.arg 12 1
    let x := w.sp n
    if 63 < n || x.mode == .absent then w.answer c .refusedFormat
    else if !w.migrationKey (p.arg 14 2) then w.answer c .refusedPermission
    else
      match x.restore with
      | some r =>
        if r.cmd.isSome then w.answer c .retryLater
        else (w.modSp n fun x => { x with restore := some { r with cmd := some c.id, hostAddr := p.arg 16 8, key := p.arg 14 2 } }).begin c
      | none =>
        if x.mode != .active || !w.emptySpan n then w.answer c .refusedFormat
        else
          let r : RestoreJob := { cmd := some c.id, hostAddr := p.arg 16 8, key := p.arg 14 2, records := 0, unit := 0, pages := [], stateRec := none }
          (w.modSp n fun x => { x with mode := .restoring, restore := some r }).begin c

/-- Data units of a record, header and data (R300). -/
def SaveRec.units (q : SaveRec) : Nat := 1 + ceilDiv q.dlen 4096

/-- Records in stream order, up to an end record: the state of the restore, or a bad record's status. -/
def takeRecords : RestoreJob → List SaveRec → Except Status (RestoreJob × Option SaveRec)
  | r, [] => .ok (r, none)
  | r, q :: qs =>
    if !q.holds then .error .keystone
    else if q.magic ≠ 0x56533242 then .error .refusedFormat
    else
      let r := { r with records := r.records + 1, unit := r.unit + q.units }
      match q.ty with
      | 1 => takeRecords { r with stateRec := q.state } qs
      | 2 => takeRecords { r with pages := (r.pages.filter fun p => p.1 != q.va / pageBytes) ++ [(q.va / pageBytes, q.page)] } qs
      | 3 => .ok (r, some q)
      | _ => .error .refusedFormat

/-- An image of a state record by its old number. -/
def StateRec.imageOf (s : StateRec) (i : Nat) : Option (Image × List Nat) := s.images.find? fun q => q.1.id == i

/-- The resident SHAREABLE image with a digest (R302 check 3). -/
def W.shared (w : W) (dig : BitVec 256) : Option Image := w.deck.images.find? fun i => i.digest == dig && i.shareable && !i.loading

/-- The first check of R302 that fails at the end record; the last one also holds the limit of 32 images (R209). -/
def W.restoreFault (w : W) (n : Nat) (s : StateRec) (e : SaveRec) (r : RestoreJob) : Option (Status × Detail) :=
  let x := w.sp n
  let carried := s.images.map fun q => q.1.digest
  let bad := s.slotDigests.find? fun q => !carried.contains q.2 && (w.shared q.2).isNone
  if e.records ≠ r.records then some (.refusedFormat, .none)
  else if (w.keysOf n).length < s.keyCount || (w.coresOf n).length < s.cores.length || x.spadSlots < s.spadSlots || w.quota n < r.pages.length
      || (w.takeFrames r.pages.length).isNone then some (.refusedFit, .none)
  else
    match bad with
    | some (k, _) => some (.refusedContract, .count k)
    | none =>
      if s.tables.any (fun t => decide (1 < t.group)) && w.rank.getD 0xFFFF != s.rank then some (.refusedContract, .none)
      else if 32 < w.deck.images.length + s.images.length then some (.refusedFit, .none)
      else if 16384 < w.deck.adapters.length + s.adapters.length || 65536 < w.deck.requests.length + s.requests.length then some (.refusedFit, .none)
      else none

/-- Put the restored pages into frames: pages of the span are mapped, pages of carried images go to their images. Answers the frame of
each page. -/
def W.placePages (w : W) (n : Nat) (s : StateRec) (r : RestoreJob) : List (Nat × Nat) × W :=
  let fs := (w.takeFrames r.pages.length).getD []
  let l := r.pages.zip fs
  let inImage (vp : Nat) : Bool := s.images.any fun q => q.2.contains vp
  (l.map fun (q, f) => (q.1, f), w.each l fun (q, f) w =>
    let w := { w with ops := .page (frameAddr f) q.2 :: w.ops }
    if inImage q.1 then w.setFrame f .image
    else (w.setFrame f .page).setPage n q.1 (some { frame := some f, writable := true, deck := false, gone := false }))

/-- Bring in the carried images under new numbers; one from a HOST source is NOREFETCH. Answers old and new number of every image. -/
def W.placeImages (w : W) (n base : Nat) (s : StateRec) (frames : List (Nat × Nat)) : List (Nat × Nat) × W :=
  s.images.foldl (fun (acc : List (Nat × Nat) × W) q =>
    let (m, w) := acc
    let (i, vps) := q
    let new := w.deck.nextImage
    let fs := vps.filterMap fun vp => (frames.find? fun f => f.1 == vp).map (·.2)
    let im : Image := { i with id := new, owner := n, charge := n, frames := fs, key := absKey base i.key, handle := w.keyHandle (absKey base i.key),
                                norefetch := i.norefetch || i.source == 0, kept := false }
    (m ++ [(i.id, new)], { w with deck.images := w.deck.images ++ [im], deck.nextImage := new + 1 })) ([], w)

/-- The image that stands for an old number: a carried one, or the resident one with the same digest. -/
def W.newImage (w : W) (s : StateRec) (m : List (Nat × Nat)) (k : Nat) (old : Nat) : Option Nat :=
  match m.find? fun q => q.1 == old with
  | some q => some q.2
  | none =>
    let digs := (s.slotDigests.filter fun q => q.1 == k && !(s.images.any fun i => i.1.digest == q.2)).map (·.2)
    let d := s.slots[k]?
    let pos := match d with
      | some d => d.images.filter (fun i => (s.imageOf i).isNone) |>.idxOf old
      | none => 0
    ((digs[pos]?).bind w.shared).map (·.id)

/-- Give the restored adapters their handles: kept where free, else the lowest free one. Answers old and new handles in order. -/
def W.placeAdapters (w : W) (n base : Nat) (s : StateRec) : List (Nat × Nat) × W :=
  s.adapters.foldl (fun (acc : List (Nat × Nat) × W) a =>
    let (m, w) := acc
    let taken (h : Nat) : Bool := w.deck.adapters.any fun x => x.handle == h
    let h := if taken a.handle then ((List.range 16384).find? fun h => !taken h && !(s.adapters.any fun x => x.handle == h)).getD a.handle else a.handle
    (m ++ [(a.handle, h)], { w with deck.adapters := w.deck.adapters ++ [{ a with handle := h, span := n, key := absKey base a.key, loading := none, evict := [] }] }))
    ([], w)

/-- The tile that a restored pin holds: a stored one, or one of a DECK page under its generation. -/
def W.pinnedTile (w : W) (n va : Nat) (gen : Option Nat) : Tile :=
  match gen with
  | none => (w.stored n va).getD []
  | some g => match w.locate n (w.genBinds n g) va with | .deck _ _ pa => w.tileAt pa | _ => []

/-- Everything of the state record takes its place (R302). -/
def W.placeState (w : W) (n : Nat) (s : StateRec) (r : RestoreJob) : List (Nat × Nat) × W :=
  let base := (w.sp n).keyBase
  let (frames, w) := w.placePages n s r
  let (im, w) := w.placeImages n base s frames
  let img (k : Nat) (o : Option Nat) : Option Nat := o.bind fun i => w.newImage s im k i
  let slots := s.slots.zipIdx
  let w := w.each slots fun (d, k) w =>
    let d := { d with current := img k d.current, staged := img k d.staged, load := none, waiting := none, retiring := [],
                      olds := d.olds.filterMap fun o => (img k (some o.image)).map fun i => { o with image := i } }
    let span (win : Option Nat) (k : Nat) : List Nat := match win with
      | some b => (List.range k).map (b / pageBytes + ·)
      | none => []
    let vps := span d.window d.pages ++ d.olds.flatMap fun o => span o.window o.pages
    let w := w.each vps fun vp w => if (w.page n vp).isSome then w else w.setPage n vp (some { frame := none, writable := false, deck := true, gone := false })
    w.modSlot n k fun _ => d
  let w := w.each s.programs fun p w =>
    let q := p.mapKeys (absKey base)
    { w with step.programs := w.step.programs ++ [{ q with span := n, unload := [] }] }
  let w := w.each s.tables fun t w => w.setTable n t.id (some { t with held := [], moves := t.moves.filter fun m => m.flipped })
  let (hs, w) := w.placeAdapters n base s
  let handle (h : Nat) : Nat := ((hs.find? fun q => q.1 == h).map (·.2)).getD h
  let binds (l : List Bind) : List Bind := l.filterMap fun b => (w.newImage s im b.slot b.image).map fun i => { b with image := i }
  let reqs := s.requests.map fun q => { q with span := n, handle := handle q.handle, binds := binds q.binds }
  let w := { w with deck.requests := w.deck.requests ++ reqs }
  let ls := w.coresOf n
  let w := w.each s.pins fun (i, va, pin, gen) w => w.with (ls[i]?) fun l w => w.enter l va gen .clean pin false (w.pinnedTile n va gen)
  let w := w.setSec n (s.policy.map fun p =>
    let q := p.mapKeys (absKey base)
    { q with nowCmds := [], sealCmds := [] })
  (hs, w.modSp n fun x => { x with seed := s.seed })

/-- SPAN_RESTORE_DONE (R302): the records of one command; at the end record the checks, the handle pairs, and the span FROZEN. -/
def execSpanRestoreDone (span : Nat) (records : List SaveRec) (s : State) : Host.Outcome State Fault Refusal :=
  s.act fun w => w.with (w.sp span).restore fun r w => w.with r.cmd fun cmd w =>
    w.if (!(w.sp span).stopHost && !(w.sp 0).stopHost && (w.sp span).mode == .restoring) fun w =>
      match takeRecords r records with
      | .error st => (w.modSp span fun x => { x with restore := none }).failRestore span cmd st
      | .ok (r, none) => (w.modSp span fun x => { x with restore := some { r with cmd := none } }).finish cmd .ok
      | .ok (r, some e) =>
        let w := w.modSp span fun x => { x with restore := none }
        match r.stateRec with
        | none => w.failRestore span cmd .refusedFormat
        | some st =>
          match w.restoreFault span st e r with
          | some (code, d) => w.failRestore span cmd code d
          | none =>
            let (hs, w) := w.placeState span st r
            let before := ((records.takeWhile fun q => q.ty != 3).map SaveRec.units).sum
            let w := w.emit (.saveStream 0 (r.hostAddr + 4096 * before) r.key (r.unit - e.units) [{ e with handles := hs }.close])
            (w.modSp span fun x => { x with mode := .frozen }).finish cmd .ok

end Sys2Proof.Machine
end

