-- ==== Sys2Proof/Machine/Parapet.lean ====
section
/-! DEFINITION. The parapet lane (R271 to R275): mailbox slots, the four parapet commands, and their two replies. -/

namespace Sys2Proof.Machine

open Sys2Proof

/-! ### What a stopped path ends (R272) -/

/-- Long commands of a span that need host memory end with ST_SQUASHED (R272). -/
def W.squashHostPath (w : W) (n : Nat) : W :=
  let ls := w.deck.loads.filter fun l => l.span == n && ((w.image l.image).map (·.source)) == some 0
  let w := w.each ls fun l w => w.dropLoad l .squashed
  let as := w.deck.adapters.filter fun a => a.span == n && a.source == 1 && a.loading.isSome
  let w := w.each as fun a w =>
    let w := { w with deck.adapters := w.deck.adapters.filter fun x => x.handle != a.handle }
    w.with a.loading fun c w => w.finish c .squashed
  let spans := if n = 0 then List.range 64 else [n]
  let w := w.each spans fun k w => w.with (w.sp k).save fun sv w => w.with sv.job fun (cmd, _) w =>
    (w.modSp k fun x => { x with save := some { sv with job := none } }).finish cmd .squashed
  let w := w.each spans fun k w => w.with ((w.sp k).restore.bind (·.cmd)) fun cmd w =>
    (w.modSp k fun x => { x with restore := none }).failRestore k cmd .squashed
  let w := w.with (w.sp n).run fun r w => (w.modSp n fun x => { x with run := none }).failRestore n r.cmd .squashed
  match n, w.fw.stageCmd with
  | 0, some (some c) =>
    let w := { w with fw.stage := 0, fw.stageCmd := none }
    w.finish c .squashed
  | _, _ => w

/-- Long commands of a span that need Viaduct egress end with ST_SQUASHED (R272). -/
def W.squashViaductPath (w : W) (n : Nat) : W :=
  let ls := w.deck.loads.filter fun l => l.span == n && ((w.image l.image).map (·.source)) == some 1
  let w := w.each ls fun l w => w.dropLoad l .squashed
  let as := w.deck.adapters.filter fun a => a.span == n && a.source == 2 && a.loading.isSome
  let w := w.each as fun a w =>
    let w := { w with deck.adapters := w.deck.adapters.filter fun x => x.handle != a.handle }
    w.with a.loading fun c w => w.finish c .squashed
  let w := w.each (List.range 1024) fun id w => w.with (w.table n id) fun t w =>
    w.each (t.moves.filter fun m => !m.flipped) fun m w => w.failMove n id m .squashed
  let w := w.with (w.sp n).run fun r w => (w.modSp n fun x => { x with run := none }).failRestore n r.cmd .squashed
  w.with (w.secOf n) fun sec w => w.if (decide (1 < sec.policy.group)) fun w =>
    let w := if sec.due && !sec.nowCmds.isEmpty then w.abandonPoint n .squashed else w
    (w.modSec n fun s => { s with sealCmds := [] }).finishAll (sec.sealCmds.map (·.2)) .squashed

/-! ### The commands -/

/-- HALT_SPAN with ACTION halt (R272): no packet is read, no step admitted, stagings are squashed. -/
def W.haltSpan (w : W) (n : Nat) : W := (w.squashSpan n).modSp n fun x => { x with halted := true }

/-- ACTION resume of HALT_SPAN and of STOP_TRAFFIC (R272): it clears both halt and stop. -/
def W.resumeSpan (w : W) (n : Nat) : W :=
  (w.modSp n fun x => { x with halted := false, stopHost := false, stopVdt := false }).sendWaiting

/-- STOP_TRAFFIC with ACTION stop (R272, R275): the stop takes effect and is answered, and what needs the stopped paths ends. -/
def W.stopTraffic (w : W) (job n what : Nat) : W :=
  let w := w.haltSpan n
  let w := w.modSp n fun x => { x with stopHost := x.stopHost || bit what 0, stopVdt := x.stopVdt || bit what 1 }
  let w := w.parFinish job .ok
  let w := if bit what 0 then w.squashHostPath n else w
  if bit what 1 then w.squashViaductPath n else w

/-- Does ABORT_STEP name a step (R272, R28)? A step in its commit phase completes. -/
def Step.abortedBy (x : Step) (n scope ring seq : Nat) : Bool :=
  x.span == n && x.phase != .commit && x.phase != .ended
    && (if scope = 0 then x.ring == ring && x.seq == seq
        else x.phase == .compute && (scope == 2 || x.ring == ring))

/-- ABORT_STEP (R28, R272): its steps are squashed, an admitted one at the boundary of the operation that runs (R28); scope 2 abandons a
secure point being taken (R357). -/
def W.abortSteps (w : W) (job n scope ring seq : Nat) : W :=
  let ids := (w.step.steps.filter fun x => x.abortedBy n scope ring seq).map (·.id)
  let w := (w.each ids fun i w => w.modStep i fun x => { x with aborting := some job }).each ids fun i w => w.abortStep i job
  let w := w.settlePins
  let w := if scope = 2 && ((w.secOf n).map (·.due)).getD false then w.abandonPoint n .squashed true else w
  w.settleAborts

/-- The packet that a mailbox slot holds, by its opcode: may it be a command (R257, R271, R272)? -/
def parapetOk (b : List Byte) : Bool :=
  let op := rd b 0 2
  let used := [[(12, 1)], [(12, 2), (16, 3)], [(12, 2)], []].getD (op - 0x0F00) []
  decide (0x0F00 ≤ op) && decide (op ≤ 0x0F03) && (rd b 2 2 &&& 0xFFFD) == 0 && resvZero ([(0, 12)] ++ used) b
    && (match op with
        | 0x0F00 => decide (rd b 12 1 ≤ 1)
        | 0x0F01 => decide (rd b 12 1 ≤ 15) && decide (rd b 13 1 ≤ 2)
        | 0x0F02 => decide (rd b 12 1 ≤ 1) && decide (rd b 13 1 ≤ 3)
        | _ => true)

/-- The effect of an accepted parapet command (R272); all but ABORT_STEP and RESET_SPAN are over at once. -/
def W.runParapet (w : W) (job n : Nat) (b : List Byte) : W :=
  match rd b 0 2 with
  | 0x0F00 => (if rd b 12 1 = 0 then w.haltSpan n else w.resumeSpan n).parFinish job .ok
  | 0x0F01 => w.abortSteps job n (rd b 13 1) (rd b 12 1) (rd b 16 3)
  | 0x0F02 => if rd b 12 1 = 0 then w.stopTraffic job n (rd b 13 1) else (w.resumeSpan n).parFinish job .ok
  | _ => (w.abandonActivation .squashed).resetSpan n (some job)

/-- Does the effect of a parapet command wait (R375, R384, R393)? A RESET_SPAN ends an activation and does not wait for its
switch. -/
def W.parapetLater (w : W) (op : Nat) : Bool := w.pwr.standby || (w.fw.act == 2 && op != 0x0F03)

/-- Effects that have waited for the end of standby or of an activation window (R375, R384, R393). -/
def W.runLater (w : W) : W :=
  if w.pwr.standby || w.fw.act == 2 then w
  else
    let js := w.cmd.parJobs.filter fun j => !j.later.isEmpty
    let started (j : ParJob) : ParJob := { j with later := [] }
    let w := { w with cmd.parJobs := w.cmd.parJobs.map started }
    w.each js fun j w => w.runParapet j.id j.target j.later

/-- A mailbox slot's contents are taken as a command (R271 to R273). -/
def W.takeParapet (w : W) (fn slot : Nat) : W :=
  let b := (w.mbox fn slot).bytes
  let n := rd b 4 1
  let r : Reply := { tag := BitVec.ofNat 32 (rd b 8 4), seq := rd b 5 3, status := .accepted }
  if !parapetOk b then w.parReply fn { r with status := .refusedFormat }
  else if (fn != 0 && n != fn) || 63 < n || (w.sp n).mode == .absent then w.parReply fn { r with status := .refusedPermission }
  else
    let (id, w) := w.fresh
    let j : ParJob := { id := id, fn := fn, slot := slot, op := rd b 0 2, tag := r.tag, seq := r.seq, target := n, count := 0,
                        later := if w.parapetLater (rd b 0 2) then b else [] }
    let w := { w with cmd.parJobs := w.cmd.parJobs ++ [j] }
    let w := w.modMbox fn slot fun m => { m with busy := some id }
    let w := (w.modPar fn fun p => { p with lastTag := r.tag, target := some n }).parReply fn r
    if w.parapetLater (rd b 0 2) then w else (w.runParapet id n b).runLater

/-- One posted write into a mailbox slot (R271). -/
def W.mailbox (w : W) (fn slot off : Nat) (data : List Byte) : W :=
  w.if (w.busUp && (fn == 0 || (decide (fn < 64) && w.vfExists fn)) && decide (slot < 4) && decide (off + data.length ≤ 64)
      && !data.isEmpty) fun w =>
    let w := w.wakeUp
    if (w.mbox fn slot).busy.isSome then w.modPar fn fun p => { p with drops := min 255 (p.drops + 1) }
    else
      let w := w.modMbox fn slot fun m => { m with bytes := m.bytes.take off ++ data ++ m.bytes.drop (off + data.length) }
      if off ≤ 60 && off + data.length == 64 then w.takeParapet fn slot else w

/-- A parapet packet as one 64-byte write, with the given opcode and, where one is given, ACTION (R257, R271). -/
def MboxCmd.packet (m : MboxCmd) (op : Nat) (action : Option Nat) : List Byte :=
  let body := match action with
    | some a => leBytes 1 a ++ m.body.drop 1
    | none => m.body
  padTo 64 (leBytes 2 op ++ leBytes 2 m.flags.toNat ++ leBytes 1 m.span.toNat ++ leBytes 3 m.seq.toNat ++ leBytes 4 m.tag.toNat ++ body)
    |>.take 64

/-- HALT_SPAN, ACTION halt (R272). -/
def execHaltSpan (m : MboxCmd) (s : State) : Host.Outcome State Fault Refusal :=
  s.act fun w => w.mailbox m.fn m.slot 0 (m.packet 0x0F00 (some 0))

/-- HALT_SPAN, ACTION resume (R272). -/
def execHaltSpanResume (m : MboxCmd) (s : State) : Host.Outcome State Fault Refusal :=
  s.act fun w => w.mailbox m.fn m.slot 0 (m.packet 0x0F00 (some 1))

/-- ABORT_STEP (R28, R272, R275). -/
def execAbortStep (m : MboxCmd) (s : State) : Host.Outcome State Fault Refusal :=
  s.act fun w => w.mailbox m.fn m.slot 0 (m.packet 0x0F01 none)

/-- STOP_TRAFFIC, ACTION stop (R272, R275). -/
def execStopTraffic (m : MboxCmd) (s : State) : Host.Outcome State Fault Refusal :=
  s.act fun w => w.mailbox m.fn m.slot 0 (m.packet 0x0F02 (some 0))

/-- STOP_TRAFFIC, ACTION resume (R272). -/
def execStopTrafficResume (m : MboxCmd) (s : State) : Host.Outcome State Fault Refusal :=
  s.act fun w => w.mailbox m.fn m.slot 0 (m.packet 0x0F02 (some 1))

/-- RESET_SPAN (R272, R293). -/
def execResetSpan (m : MboxCmd) (s : State) : Host.Outcome State Fault Refusal :=
  s.act fun w => w.mailbox m.fn m.slot 0 (m.packet 0x0F03 none)

/-- FUNCTION_LEVEL_RESET (R293), by a configuration write (R376); it ends a firmware activation (R393). -/
def execFunctionLevelReset (fn : Nat) (s : State) : Host.Outcome State Fault Refusal :=
  s.act fun w => w.if (w.busUp && decide (fn < 64)) fun w => ((w.abandonActivation .squashed).resetSpan fn none).runLater

/-- MAILBOX_WRITE (R271): any other posted write into a slot. -/
def execMailboxWrite (fn slot off : Nat) (data : List Byte) (s : State) : Host.Outcome State Fault Refusal :=
  s.act fun w => w.mailbox fn slot off data

end Sys2Proof.Machine
end

