-- ==== Sys2Proof/Machine/Resets.lean ====
section
/-! DEFINITION. Shared operations of faults and resets: ending a command wherever it stands, replacing a core, die resets,
module resets and power cycles (R330, R335, R368, R380 to R386). -/

namespace Sys2Proof.Machine

open Sys2Proof

/-! ### Ending commands -/

/-- A command in progress ends with a status, and what it had started is given up. -/
def W.endCommand (w : W) (id : Nat) (st : Status) : W :=
  let w := w.each (w.step.steps.filter fun x => x.cmd == id) fun x w => w.failStep x.id st .none
  let w := w.each (w.deck.loads.filter fun l => l.cmd == id) fun l w => w.dropLoad l st
  let w := { w with deck.adapters := w.deck.adapters.filter fun a => a.loading != some id,
                    hbm.unmaps := w.hbm.unmaps.filter fun u => u.cmd != id }
  let w := w.each (List.range 64) fun n w =>
    let x := w.sp n
    if x.freezing == some id then w.modSp n fun x => { x with freezing := none }
    else if (x.resize.map (·.cmd)) == some id then w.modSp n fun x => { x with resize := none }
    else if ((x.save.bind (·.job)).map (·.1)) == some id then
      w.modSp n fun x => { x with save := x.save.map fun s => { s with job := none } }
    else if (x.restore.bind (·.cmd)) == some id then (w.modSp n fun x => { x with restore := none }).failRestore n id st
    else if (x.run.map (·.cmd)) == some id then (w.modSp n fun x => { x with run := none }).failRestore n id st
    else w.modSec n fun s =>
      { s with nowCmds := s.nowCmds.filter fun c => c != id, sealCmds := s.sealCmds.filter fun q => q.2 != id }
  let hit := w.tables.filterMap fun (k, t) => (t.bind fun t => t.moves.find? fun m => m.cmd == id).map fun m => (k, m)
  let w := w.each hit fun (k, m) w => w.failMove (k / 1024) (k % 1024) m st
  let w := w.with (w.cmd.cmds.find? fun c => c.id == id) fun c w => w.modRing c.fn c.ring fun g =>
    { g with fence := if g.fence = some id then none else g.fence }
  let owed (j : TestJob) : TestJob := if j.cmd = some id then { j with cmd := none } else j
  let w := { w with core.tests := w.core.tests.map owed }
  w.finish id st

/-! ### Cores that leave service (R334, R335) -/

/-- A retired core that holds no task leaves service: what it holds unwritten goes to HBM, its pins move, and the cluster's spare takes its logical number, or
nothing does and stagings that counted on the number are squashed. -/
def W.leaveService (w : W) (c : Nat) : W :=
  match w.logOf c with
  | none => w
  | some l =>
    if (w.phys c).state != .retired || w.busyCore l then w
    else
      let w := ((w.flush (w.owner l) l fun _ => true).movePins (w.owner l) l).replaceCore l c
      if (w.physOf l).isSome then w
      else w.each (w.step.steps.filter fun x => x.phase == .staged && x.tasks.any fun t => t.core == some l) fun x w => w.squash x.id

/-- Pins of a core that can be fetched again: core, address, class, generation of a deck tile. -/
def W.pinList (w : W) (l : Nat) : List (Nat × Nat × Pin × Option Nat) :=
  ((w.core' l).tiles.filter fun e => e.pin != .none).map fun e => (l, e.addr, e.pin, e.gen)

/-- Fetch recorded pins again, on the same logical cores (R382, R384). -/
def W.refetchPins (w : W) (ps : List (Nat × Nat × Pin × Option Nat)) : W :=
  w.each ps fun (l, va, pin, img) w =>
    if (w.ent l va img).isSome then w.modEnt l va img fun e => { e with pin := pin }
    else w.enter l va img .fetching pin false []

/-- A core returns from a test: its scratchpad is scrubbed, the STAY pins that it held are fetched again (R48, R345), and it takes tasks, or
stands by as a spare (R335). After a quarantine test it stays out of placement where a run of its cluster goes on. -/
def W.backInService (w : W) (c : Nat) : W :=
  let on := w.core.tests.any fun j => j.kind != 2 && j.kind != 5 && j.kind != 6 && j.cores.contains c
  match w.logOf c with
  | some l => ((w.scrubPad l).modPhys c fun p => { p with state := if on then .testing else .active }).refetchPins (w.pinList l)
  | none => if on then w.modPhys c fun p => { p with state := .testing } else w.standBy c

/-- Tests that touch a die's cores end without a result; a command that waits for one gets a status. -/
def W.dropTests (w : W) (hit : Nat → Bool) (st : Status) : W :=
  let js := w.core.tests.filter fun j => j.cores.any hit
  let w := { w with core.tests := w.core.tests.filter fun j => !j.cores.any hit }
  w.each js fun j w =>
    let w := w.with j.cmd fun c w => w.finish c st
    w.handBack j.cores

/-! ### Die reset (R330, R382) -/

/-- Every DIRTY tile of a core is marked poisoned in its HBM home (R42, R375, R382). -/
def W.poisonDirty (w : W) (l : Nat) : W :=
  w.each ((w.core' l).tiles.filter fun e => e.state == .dirty) fun e w => w.poisonHome (w.owner l) e.addr

/-- A die reset (R330, R382 steps 1 to 3; R415 for the counters; R393 for an activation). -/
def W.dieReset (w : W) (d : Nat) : W :=
  let ls := (List.range 128).filter fun l => match w.physOf l with | some c => c / 36 == d | none => false
  let on (x : Step) : Bool := x.tasks.any fun t => match t.core with | some l => ls.contains l | none => false
  let w := w.abandonActivation .squashed
  let w := w.each (w.step.steps.filter fun x => x.admitted && on x) fun x w => w.failStep x.id .deviceFault .none
  let w := w.each (w.step.steps.filter fun x => x.phase == .staged && on x) fun x w => w.squash x.id
  let w := w.each (w.cmd.cmds.filter fun c => w.homeDie c.fn c.ring == d) fun c w => w.endCommand c.id .deviceFault
  let w := w.dropTests (fun c => c / 36 == d) .deviceFault
  let w := w.each ls fun l w => w.poisonDirty l
  let ps := (ls.flatMap w.pinList).filter fun q => !(((w.ent q.1 q.2.1 q.2.2.2).map (·.state)) == some .dirty)
  let w := w.each ls fun l w => w.scrubPad l
  let w := w.modDie d fun _ => { asleep := false, resetting := true, pins := ps }
  let w := w.each (List.range 4) fun k w => w.modCluster (4 * d + k) fun c => { c with asleep := c.dead, waking := false }
  let w := { w with pwr.dieMask := w.pwr.dieMask ||| 2 ^ d, pwr.dieResets := min 255 (w.pwr.dieResets + 1),
                    obs.cnt := [], obs.hi := [], obs.epoch := (w.obs.epoch + 1) % 65536 }
  ((w.event .deviceFault 0 true (0x80 + d)).healthAll (0x80 + d)).runLater

/-! ### Module resets and power cycles (R368, R380, R381, R385, R386) -/

/-- What a frame is used for after a module reset: a preserved image stays, with a move of it that is under way (R60, R381), a pool page stays one, what had left
service stays out (R333), and everything else waits for its scrub. -/
def frameAfterReset (keep out : List Nat) (f : Nat) (u : FrameUse) : FrameUse :=
  if keep.contains f then .image
  else if out.contains f then .withdrawn
  else match u with
    | .withdrawn => .withdrawn
    | .spare => .spare
    | _ => .scrubWait

/-- A physical core after a module reset: the retirement map holds; a quarantine or a test is over (R333, R385). -/
def Phys.afterReset (spare : Bool) (p : Phys) : Phys :=
  { p with state := if p.state = .retired then .retired else if spare then .spare else .active }

/-- The parts of the retirement map in the state of a cluster (R333, R341). -/
def Cluster.afterReset (c : Cluster) : Cluster := { dead := c.dead, pll := c.pll, asleep := c.dead }

/-- Images that outlast a module reset (R381, R385). -/
def W.preserved (w : W) (warm : Bool) : List Image := w.deck.images.filter fun i => warm && i.preserve && !i.loading

/-- The memory system after a module reset: nothing is mapped, stacks train again, what had left service stays out. -/
def W.hbmAfterReset (w : W) (warm : Bool) : HbmSys :=
  let images := w.preserved warm
  let moves := w.hbm.moves.filter fun m => m.span == 64 && !m.flipped && images.any fun i => i.frames.contains m.old
  let keep := images.flatMap (·.frames) ++ moves.map (·.new)
  let dying := (w.hbm.moves.filter fun m => m.evac).map (·.old)
  let gone := (w.hbm.frames.filter fun (f, u) => u != .spare && (w.chan (chanOf f)).state == .retiring).map (·.1)
  let frames := w.hbm.frames.filterMap fun (f, u) =>
    let v := frameAfterReset keep (dying ++ gone) f u
    if v = frameAtReset f then none else some (f, v)
  let chan (k : Nat) (c : Chan) : Chan :=
    { state := match c.state with
        | .inService => .inService
        | .lost => .inService
        | .retiring => if moves.any fun m => chanOf m.old == k then .retiring else .retired
        | .retired => .retired,
      low := false, ppr := c.ppr, pool := c.pool, highWindows := 0, onDie := c.onDie }
  { Dev.atReset.hbm with frames := frames, chans := w.hbm.chans.map fun (k, c) => (k, chan k c), moves := moves,
                         withdrawn := w.hbm.withdrawn }

/-- A module reset: everything but the Abutment takes its reset value, and bring-up goes on from B2 (R380, R385, R386). Warm:
images marked PRESERVE stay. -/
def W.moduleReset (w : W) (warm : Bool) (source : Nat) : W :=
  let z := Dev.atReset
  let port (p : Port) : Port := { state := if p.state = .retired then .retired else .training }
  let spare (c : Nat) : Bool := (w.logOf c).isNone
  let cut := match w.fw.stageCmd with | some (some _) => true | _ => false
  let w : W :=
    { w with
      cmd := { z.cmd with nextId := w.cmd.nextId, outbox := w.cmd.outbox }
      span := z.span
      hbm := w.hbmAfterReset warm
      core := { z.core with phys := w.core.phys.map fun (k, p) => (k, p.afterReset (spare k)), logical := w.core.logical,
                            clusters := w.core.clusters.map fun (k, c) => (k, c.afterReset), clock := w.core.clock }
      step := z.step
      deck := { z.deck with images := (w.preserved warm).map fun i => { i with refetched := [], kept := true }, nextImage := w.deck.nextImage }
      tables := []
      vdt := { z.vdt with ports := w.vdt.ports.map fun (k, p) => (k, port p) }
      sec := z.sec
      pwr := { w.pwr with phase := 2, trestle := true, thermal := false, capped := false, dieMask := 0, dieResets := 0,
                          source := source, kind := if warm then 1 else 2, standby := false, tripped := false,
                          standbyReq := false, exiting := false, pins := [], linkUp := false, b2Done := false }
      fw := { w.fw with act := if w.activating then 3 else w.fw.act, actCmd := none,
                        stage := if cut then 0 else w.fw.stage, stageCmd := if cut then none else w.fw.stageCmd,
                        windowOff := w.fw.windowOffNext,
                        keys := w.fw.keys.map fun (k, s) => (k, { s with state := .empty, key := 0#512, cmds := [] }) }
      obs := { w.obs with latches := [], cnt := [], hi := [], epoch := 0, wptr := [], traces := [], trcErr := [], trcDrops := [] }
      regs := [] }
  let w := w.each (List.range 144) fun c w => w.leaveService c
  (w.emit (.linkState false)).event .power 0 true unitAbut

/-- The records after the longest head that one 256 KiB block holds. -/
def dropBlock : List EvRec → Nat → List EvRec
  | [], _ => []
  | r :: rs, room => if r.size ≤ room then dropBlock rs (room - r.size) else r :: rs

/-- The flash log keeps to 64 MiB: the oldest block is erased while it is over full (R409); at most `k` blocks. -/
def flashTrim : Nat → List EvRec → List EvRec
  | 0, l => l
  | k + 1, l => if (l.map EvRec.size).sum ≤ 67108864 then l else flashTrim k (dropBlock l 262144)

/-- Every record of the ring that is not in the flash log goes there (R409). -/
def W.flushRing (w : W) : W :=
  let new := w.obs.ring.drop (w.obs.ring.length - w.obs.unflushed)
  { w with obs.flash := flashTrim 257 (w.obs.flash ++ new), obs.unflushed := 0, obs.flushDue := false }

/-- The Abutment loses power (R368, R380): a cold reset, after which the ring comes back from the flash log, the event numbers
and the bucket levels go on from what flash holds, and everything waits for a supply. -/
def W.powerCycle (w : W) : W :=
  let w := w.moduleReset false 0
  let ring := evTrim w.obs.flash 0 0
  let next := match w.obs.flash.getLast? with | some r => (r.seq + 1) % 2 ^ 32 | none => 0
  { w with integ.buckets := w.integ.saved,
           pwr.alive := false, pwr.phase := 0, pwr.mainOk := false, pwr.auxOk := false, pwr.vIn := 0, pwr.pIn := 0,
           pwr.kind := 0, pwr.source := 0, pwr.wake := false, pwr.mainLost := false, pwr.hot := false, pwr.bootFailed := false,
           fw.act := 0, fw.stage := if w.fw.stageCmd.isSome then 0 else w.fw.stage, fw.stageCmd := none,
           obs.ring := ring, obs.unflushed := 0, obs.flushDue := false, obs.nextSeq := next, obs.refused := 0, obs.hlt := [] }

end Sys2Proof.Machine
end

