-- ==== Sys2Proof/Machine/Integrity.lean ====
section
/-! DEFINITION. Faults, buckets, quarantine, retirement, load tests and known-answer kernels (R327 to R349, R440). -/

namespace Sys2Proof.Machine

open Sys2Proof

/-! ### Buckets (R332, R333) -/

/-- Instances of a class (R332): rows of scratchpads (144 cores, 16 banks of 384 rows) and of HBM are numbered by the model. -/
def BktClass.instances : BktClass → Nat
  | .core => 144 | .sramRow => 884736 | .hbmRow => 196608 * 481 | .hbmChannel => 256
  | .vdtPort => 9 | .crypto => 36 | .pll => 32 | .powerPhase => 56

/-- BUCKET_LEAK (R332): a LEAK interval of a bucket above 0 is over. A level that crosses half its THRESH sends the levels to flash
(R333). -/
def execBucketLeak (cls : BktClass) (inst : Nat) (s : State) : Host.Outcome State Fault Refusal :=
  s.act fun w => w.if (w.pwr.alive && decide (0 < (w.bucket cls.num inst).level) && decide (inst < cls.instances)) fun w =>
    let lvl := (w.bucket cls.num inst).level
    let t := w.thresh cls.num
    let leak (b : Bucket) : Bucket := { b with level := b.level - 1 }
    let w := { w with integ.buckets := Sparse.modify (fun _ => ({} : Bucket)) w.integ.buckets (cls.num * 2 ^ 28 + inst) leak }
    if decide (t ≤ 2 * lvl) && decide (2 * (lvl - 1) < t) then { w with integ.saved := w.integ.buckets } else w

/-- BUCKET_LEVEL_SAVE (R333): the hourly write to flash. -/
def execBucketLevelSave (s : State) : Host.Outcome State Fault Refusal :=
  s.act fun w => w.if w.pwr.alive fun w => { w with integ.saved := w.integ.buckets }

/-! ### Parity errors (R328 to R330) -/

/-- An error in the control state of a core (R329): its steps end, and it is quarantined. -/
def W.controlParity (w : W) (c : Nat) : W :=
  let n := w.spanOfPhys c
  let ls := (w.logOf c).toList
  let w := (w.count n 0x258 1).failCores ls .deviceFault
  let w := (w.coreEvent c .controlParity).quarantine c
  w.event .deviceFault 0 true ((w.logOf c).getD 0x7F)

/-- CONTROL_PARITY_ERROR (R329). `core` is physical. -/
def execControlParityError (core : Nat) (s : State) : Host.Outcome State Fault Refusal :=
  s.act fun w => w.if (decide (core < 144)) fun w => w.controlParity core

/-- What a parity error does to the tile of a slot (R328): a CLEAN copy is fetched again; unwritten data is marked poisoned
and written back so. -/
def W.spoilSlot (w : W) (l k : Nat) : W :=
  let n := w.owner l
  w.with ((w.core' l).tiles.find? fun e => e.slot == k) fun e w =>
    match e.state with
    | .fetching => w
    | .clean => w.modEnt l e.addr e.gen fun x => { x with state := .fetching, data := [] }
    | _ =>
      let w := w.storeTile n e.addr e.data.poisoned
      w.modEnt l e.addr e.gen fun x => { x with state := .clean, data := (w.stored n e.addr).getD e.data.poisoned }

/-- An event on a scratchpad row (class 1 of R332): at THRESH it is repaired, and starts afresh. -/
def W.sramEvent (w : W) (c bank row : Nat) (slots : List Nat) : W :=
  let i := (c * 16 + bank) * 384 + row
  match w.bucketAdd .sramRow i .rowParity with
  | (true, w) =>
    let w := w.judged ((w.logOf c).getD 0x7F) .sramRow i .rowParity
    { w with integ.buckets := Sparse.erase w.integ.buckets (2 ^ 28 + i) }.repairSram c bank slots
  | (false, w) => w

/-- SCRATCHPAD_PARITY_ERROR (R327, R328, R337): physical core, slot, and the row in its bank. An error in descriptor staging or
token state has no slot; it is one of control state too. -/
def execScratchpadParityError (core : Nat) (site : ParitySite) (bank row : Nat) (s : State) : Host.Outcome State Fault Refusal :=
  s.act fun w => w.if (decide (core < 144) && decide (bank < 16) && decide (row < 384)) fun w =>
    let w := w.count (w.spanOfPhys core) 0x250 1
    match site.slot with
    | none => (w.controlParity core).sramEvent core bank row site.others
    | some k =>
      let w := w.with (w.logOf core) fun l w => w.spoilSlot l k
      (w.sramEvent core bank row (k :: site.others)).coreEvent core .padParity

/-- SHARED_STATE_ERROR (R330, R380): the affected die is reset; a fault of the I/O die is a module reset. -/
def execSharedStateError (die : Nat) (iodie : Bool) (s : State) : Host.Outcome State Fault Refusal :=
  s.act fun w => w.if (w.pwr.alive && decide (2 ≤ w.pwr.phase)) fun w =>
    if iodie then (w.event .deviceFault 0 true unitIodie).moduleReset w.pwr.auxOk 7
    else w.if (decide (die < 4) && !(w.die die).resetting && !w.pwr.standby) fun w => w.dieReset die

/-- DIE_RESET_DONE (R382 step 4): the die has been through B2, and its pins are fetched again. -/
def execDieResetDone (die : Nat) (s : State) : Host.Outcome State Fault Refusal :=
  s.act fun w => w.if (w.die die).resetting fun w =>
    let ps := (w.die die).pins
    (w.modDie die fun d => { d with resetting := false, pins := [] }).refetchPins ps

/-! ### Tests (R334, R335, R344 to R347, R440) -/

/-- CORE_RETIRE (R335): the tasks of a retired core have ended. A LOADTEST_RUN that waited for its quarantine test is answered. -/
def execCoreRetire (core : Nat) (s : State) : Host.Outcome State Fault Refusal :=
  s.act fun w => w.if (decide (core < 144) && (w.logOf core).isSome && (w.phys core).state == .retired) fun w =>
    let l := w.logOf core
    let w := w.leaveService core
    if (w.logOf core).isSome then w
    else
      let spare := (l.bind w.physOf).isSome
      let js := w.core.tests.filter fun j => j.kind == 6 && j.cores == [core]
      let w := { w with core.tests := w.core.tests.filter fun j => !(j.kind == 6 && j.cores == [core]) }
      w.each js fun j w => w.with j.cmd fun c w => w.finish c .ok (.count ((if spare then 1 else 2) + core * 2 ^ 32))

/-- QUARANTINE_TEST (R334): a quarantined core, or spare, has no task left; its pins move, and the test starts. -/
def execQuarantineTest (core : Nat) (s : State) : Host.Outcome State Fault Refusal :=
  s.act fun w =>
    w.if ((w.phys core).state == .quarantined && !((w.logOf core).map w.busyCore).getD false
        && !(w.core.tests.any fun j => j.kind == 5 && j.cores == [core])) fun w =>
      let w := w.with (w.logOf core) fun l w => w.movePins (w.owner l) l
      { w with core.tests := w.core.tests ++ [{ cmd := none, kind := 5, cores := [core], pack := w.integ.pack, cluster := none }] }

/-- The signed part and the signature of a pack (R344). -/
def packParts (b : List Byte) : List Byte × List Byte := (b.take (b.length - 96), b.drop (b.length - 96))

/-- The header of a load-test pack, checked (R344). -/
def packOk (b : List Byte) : Bool :=
  decide (160 ≤ b.length) && rd b 0 4 == 0x4B50544C && decide (1 ≤ rd b 4 4) && bit (rd b 8 4) Config.siliconRev.toNat
    && rd b 12 4 == b.length && decide (1 ≤ rd b 18 2) && decide (rd b 18 2 ≤ 50) && decide (1 ≤ rd b 20 2)
    && decide (rd b 20 2 ≤ 500) && resvZero [(0, 22)] (b.take 64)

/-- Load a pack (R344): what refuses it, or its VERSION and the new state. -/
def W.loadPack (w : W) (b : List Byte) (len : Nat) : Except Status (Nat × W) :=
  if 67108864 < len then .error .refusedFit
  else if !packOk b then .error .refusedFormat
  else if !Config.wealoletSigOk (packParts b).1 (packParts b).2 then .error .refusedPermission
  else if rd b 4 4 ≤ w.integ.pack then .error .refusedContract
  else .ok (rd b 4 4, { w with integ.pack := rd b 4 4, integ.packBytes := b })

/-- LOADTEST_PACK (R344). -/
def execLoadtestPack (p : Pkt) (s : State) : Host.Outcome State Fault Refusal :=
  s.act fun w => w.intake opLoadtestPack p fun c w =>
    let len := p.arg 24 4
    match w.loadPack (padTo len (p.block.take len)) len with
    | .error st => w.answer c st
    | .ok (v, w) => w.answer c .ok (.count v)

/-- Physical cores that a test of a scope takes in (R345, R440), or why it is refused. -/
def W.testTarget (w : W) (scope unit : Nat) : Except Status (List Nat) :=
  let live c := (w.phys c).state != .retired
  let cores := if scope = 0 then [unit] else (List.range 9).map (9 * unit + ·)
  if 1 < scope || (scope == 0 && 143 < unit) || (scope == 1 && 15 < unit) then .error .refusedFormat
  else
    let cs := cores.filter live
    if cs.isEmpty then .error .refusedFormat
    else if (cs.filterMap w.logOf).any fun l => (w.core' l).tiles.any fun e => e.pin == .hot then .error .retryLater
    else if cs.any fun c => (w.phys c).state == .testing then .error .retryLater
    else .ok cs

/-- Take a target out of placement and start its test (R345). A core in quarantine waits for its quarantine test (R347). A sleeping
cluster is woken for the test (R346). -/
def W.startTest (w : W) (cmd : Option Nat) (kind : Nat) (scope unit : Nat) (cs : List Nat) : W :=
  let k := if scope = 1 then unit else unit / 9
  let slept := (w.cluster k).asleep && !(w.cluster k).dead
  let w := if slept then w.modCluster k fun c => { c with asleep := false, waking := false } else w
  let wait := scope == 0 && cs.any fun c => (w.phys c).state == .quarantined
  let w := w.each cs fun c w => w.modPhys c fun p =>
    if p.state = .active ∨ p.state = .spare then { p with state := .testing } else p
  let j : TestJob := { cmd := cmd, kind := if wait then 6 else kind, cores := cs, pack := w.integ.pack,
                       cluster := if scope = 1 then some unit else none, slept := slept }
  { w with core.tests := w.core.tests ++ [j] }

/-- LOADTEST_RUN (R345, R440). -/
def execLoadtestRun (p : Pkt) (s : State) : Host.Outcome State Fault Refusal :=
  s.act fun w => w.intake opLoadtestRun p fun c w =>
    match w.testTarget (p.arg 12 1) (p.arg 14 2) with
    | .error st => w.answer c st
    | .ok cs => (w.startTest (some c.id) (p.arg 12 1) (p.arg 12 1) (p.arg 14 2) cs).begin c

/-- KAT_RUN (R347): one logical core of the PF's span, or all that have a physical core, in ascending order. -/
def execKatRun (p : Pkt) (s : State) : Host.Outcome State Fault Refusal :=
  s.act fun w => w.intake opKatRun p fun c w =>
    let v := p.arg 14 2
    let go (cs : List Nat) : W :=
      let j : TestJob := { cmd := some c.id, kind := 2, cores := cs, pack := 0, cluster := none }
      { w with core.tests := w.core.tests ++ [j] }.begin c
    if v = 0xFFFF then
      let cs := (w.coresOf 0).filterMap w.physOf
      if cs.isEmpty then w.answer c .ok else go cs
    else if 127 < v then w.answer c .refusedFormat
    else if w.owner v ≠ 0 then w.answer c .refusedPermission
    else
      match w.physOf v with
      | none => w.answer c .refusedFormat
      | some k => go [k]

/-- LOADTEST_AUTO (R346): AUTO is set, and an idle core, a spare, or a sleeping cluster can be tested. -/
def execLoadtestAuto (cluster : Bool) (unit : Nat) (s : State) : Host.Outcome State Fault Refusal :=
  s.act fun w =>
    let cs := if cluster then (List.range 9).map (9 * unit + ·) else [unit]
    let cs := cs.filter fun c => (w.phys c).state == .active || (w.phys c).state == .spare
    let idle (c : Nat) : Bool :=
      match w.logOf c with
      | none => true
      | some l => (cluster || !(w.cluster (c / 9)).asleep) && !w.hostsWork l && !((w.core' l).tiles.any fun e => e.pin != .none)
    w.if (bit (w.regv 0 0x5444) 0 && w.pwr.alive && decide (3 ≤ w.pwr.phase) && !w.pwr.standby
        && decide (unit < if cluster then 16 else 144) && !cs.isEmpty && cs.all idle
        && (!cluster || ((w.cluster unit).asleep && !(w.cluster unit).dead))) fun w =>
      w.startTest none 3 (if cluster then 1 else 0) unit cs

/-- Retire a PLL (R341): with its partner gone too, the cluster loses its cores and its spare for good, each with its record and its
count (R333, R349). -/
def W.retirePll (w : W) (cl k : Nat) (event : BktEvent) : W :=
  if w.integ.plls.contains (2 * cl + k) then w
  else
    let w := { w with integ.plls := insertNat (2 * cl + k) w.integ.plls }
    let w := (w.count 0 0x278 1).judged unitAbut .pll (2 * cl + k) event
    let left : Subject := .rating BktClass.pll.num (32 - w.integ.plls.length)
    if w.integ.plls.contains (2 * cl + (1 - k)) then
      let w := (w.modCluster cl fun x => { x with dead := true, asleep := true, waking := false }).healthAll unitAbut left
      let w := w.each (List.range 9) fun i w => w.retireCore (9 * cl + i) .noPll
      w.each (List.range 9) fun i w => w.leaveService (9 * cl + i)
    else (w.modCluster cl fun x => { x with pll := 1 - k }).healthAll unitAbut left

/-- RESULT of one tested core (R345), once its result has taken effect: `spare` when it was one, `pack` when one was in force. -/
def testResult (pass pack spare replaced : Bool) : Nat :=
  if pass then (if pack then 0 else 3) else if !pack then 4 else if spare then 5 else if replaced then 1 else 2

/-- Does a core pass: its test has, and after a quarantine its level is below THRESH (R334)? -/
def W.testPasses (w : W) (quarantine : Bool) (r : Nat × Option Nat) : Bool :=
  r.2.isNone && (!quarantine || decide ((w.bucket 0 r.1).level < w.thresh 0))

/-- A core that fails its test is judged at once, retired, and replaced when its tasks have ended; its RESULT. One that has been retired
meanwhile keeps its result. -/
def W.failCore (w : W) (c : Nat) (pack : Bool) (event : BktEvent) : Nat × W :=
  let spare := (w.logOf c).isNone
  let l := w.logOf c
  let w := (if event = .testFailure then w.coreEvent c event else w.retireCore c event).leaveService c
  let w := if spare && (w.emptyNumber (c / 9)).isSome then w.numbersLost (c / 9) else w
  (testResult false pack spare ((l.bind w.physOf).isSome), w)

/-- Conclude the cores that fail (R345); RESULTs of all in the same order. -/
def W.concludeCores (w : W) (pack quarantine : Bool) : List (Nat × Option Nat) → List (Nat × Nat × Nat) × W
  | [] => ([], w)
  | (c, f) :: rest =>
    let (r, w) := if w.testPasses quarantine (c, f) then (testResult true pack false false, w)
      else w.failCore c pack (if f.isSome then .testFailure else .aboveThresh)
    let (rs, w) := W.concludeCores w pack quarantine rest
    ((c, r, f.getD 0) :: rs, w)

/-- The cores that pass are back in service first, so that a spare among them is there to take a number (R335). -/
def W.releaseCores (w : W) (quarantine : Bool) (results : List (Nat × Option Nat)) : W :=
  w.each (results.filter fun r => w.testPasses quarantine r && (w.phys r.1).state != .retired) fun r w => w.backInService r.1

/-- DETAIL of a load test (R345, R440): the first failing core, else the lowest, with its RESULT and pattern. -/
def testDetail (rs : List (Nat × Nat × Nat)) (pllFault : Bool) : Nat :=
  match rs.find? fun (_, r, _) => r != 0 && r != 3 with
  | some (c, r, f) => r + f % 65536 * 256 + c * 2 ^ 32
  | none =>
    match rs with
    | (c, r, f) :: _ => (if pllFault then 6 else r) + f % 65536 * 256 + c * 2 ^ 32
    | [] => 0

/-- Is a test job the one that these results belong to, and can it end: its cores in ascending order, none of them with a task or waiting
for its quarantine test? A KAT_RUN takes one core at a time, once the tasks of that core have ended (R347). -/
def W.testEnds (w : W) (j : TestJob) (results : List (Nat × Option Nat)) : Bool :=
  if j.kind = 2 then
    match j.cores.find? fun k => (w.phys k).state != .retired with
    | none => results.isEmpty
    | some c => results.map (·.1) == [c] && w.katHolds c && (w.phys c).state == .active
  else
    j.kind != 6 && j.cores == results.map (·.1) && ((j.cores.filterMap w.logOf).all fun l => !w.busyCore l)
      && (j.kind == 5 || j.cores.all fun c => (w.phys c).state != .quarantined)

/-- One core of a known-answer run ends (R347); a core that fails is retired. After the last one the run ends, and the first core that
failed is named. -/
def W.katDone (w : W) (j : TestJob) (results : List (Nat × Option Nat)) : W :=
  let ran := j.ran ++ results.map fun r => (r.1, (if r.2.isSome then 4 else 3), r.2.getD 0)
  let left := (j.cores.filter fun k => (w.phys k).state != .retired).drop 1
  let who := (results.find? fun r => r.2.isSome).bind fun r => w.logOf r.1
  let bad := j.bad.or who
  let w := w.each (results.filter fun r => r.2.isSome) fun r w => (w.coreEvent r.1 .testFailure).leaveService r.1
  if !left.isEmpty then { w with core.tests := w.core.tests ++ [{ j with cores := left, ran := ran, bad := bad }] }
  else
    let w := w.event .loadtest 0 true unitAbut none (.results ran)
    w.with j.cmd fun c w => w.finish c .ok (match bad with | some l => .token l 0 0 false | none => .none)

/-- A cluster that was woken for its test sleeps again, where nothing runs there (R346). -/
def W.sleepAgain (w : W) (j : TestJob) : W :=
  let k := j.cluster.getD ((j.cores.headD 0) / 9)
  if j.slept && !w.busyCluster k then w.modCluster k fun c => { c with asleep := true, waking := false } else w

/-- A load test ends (R334, R345, R440): the PLL to blame is retired, each core concluded, the commands answered. -/
def W.packDone (w : W) (j : TestJob) (results : List (Nat × Option Nat)) (pll : Bool) : W :=
  let w := w.each (j.cores.filterMap w.logOf) fun l w => w.flush (w.owner l) l fun _ => true
  let w := w.with (if pll then j.cluster else none) fun cl w => w.retirePll cl (w.cluster cl).pll .testFailure
  let results := if pll then results.map fun r => (r.1, none) else results
  let (rs, w) := (w.releaseCores (j.kind == 5) results).concludeCores (j.pack != 0) (j.kind == 5) results
  let w := w.event (if j.kind = 5 then .quarantine else .loadtest) 0 true unitAbut none (.results rs)
  let d := testDetail rs pll
  let mine (k : TestJob) : Bool := j.kind == 5 && k.kind == 6 && k.cores == j.cores
  let ws := j :: w.core.tests.filter mine
  let w := { w with core.tests := w.core.tests.filter fun k => !mine k }
  let tell (k : TestJob) (w : W) : W := match k.cmd with
    | some c => w.finish c .ok (.count d)
    | none => if k.kind = 4 || k.kind = 6 then w.emit (.redfish 200 (leBytes 8 d)) else w
  (w.each ws tell).sleepAgain j

/-- LOADTEST_RUN_DONE (R334, R345 to R347, R440): a run ends, with the first failing pattern of each failing core. -/
def execLoadtestRunDone (results : List (Nat × Option Nat)) (pllFault : Bool) (s : State) : Host.Outcome State Fault Refusal :=
  s.act fun w => w.with (w.core.tests.find? fun j => w.testEnds j results) fun j w =>
    let w := { w with core.tests := w.core.tests.filter fun k => k != j }
    if j.kind = 2 then w.katDone j results
    else w.packDone j results (pllFault && j.cluster.isSome)

/-! ### Crypto engines, PLLs, power phases (R340 to R343) -/

/-- CRYPTO_SELF_TEST (R327, R332). -/
def execCryptoSelfTest (engine : Nat) (pass : Bool) (s : State) : Host.Outcome State Fault Refusal :=
  s.act fun w => w.if (decide (engine < 36) && !pass) fun w => w.cryptoEvent engine .selfTest

/-- PLL_LOCK_LOSS (R332, R341): the running PLL of a cluster, or its partner in standby, loses lock or leaves its frequency window; where
it is the running one, the cluster switches to the partner. -/
def execPllLockLoss (cluster : Nat) (fault : PllFault) (s : State) : Host.Outcome State Fault Refusal :=
  s.act fun w =>
    let k := if fault.standby then 1 - (w.cluster cluster).pll else (w.cluster cluster).pll
    let ev : BktEvent := if fault.lost then .lockLoss else .frequency
    w.if (decide (cluster < 16) && !(w.cluster cluster).dead && !w.integ.plls.contains (2 * cluster + k)) fun w =>
      let (bad, w) := w.bucketAdd .pll (2 * cluster + k) ev
      let stay := fault.standby || w.integ.plls.contains (2 * cluster + (1 - k))
      let w := if stay then w else w.modCluster cluster fun x => { x with pll := 1 - k }
      if bad then w.retirePll cluster k ev else w

/-- POWER_PHASE_TRIP (R342, R343): a phase that is judged faulty is shed. -/
def execPowerPhaseTrip (phase : Nat) (shorted : Bool) (s : State) : Host.Outcome State Fault Refusal :=
  s.act fun w => w.if (decide (phase < 56) && !w.integ.phases.contains phase) fun w =>
    let ev : BktEvent := if shorted then .phaseShort else .phaseTrip
    let (bad, w) := w.bucketAdd .powerPhase phase ev
    w.if bad fun w =>
      let l := insertNat phase w.integ.phases
      let w := ({ w with integ.phases := l }.count 0 0x278 1).judged unitAbut .powerPhase phase ev
      let shed := (l.filter fun p => p / 14 == phase / 14).length
      let left : Subject := .rating BktClass.powerPhase.num (14 - shed)
      w.if (decide (2 ≤ shed)) fun w => (w.event .capacity 0 true unitAbut none left).healthAll unitAbut left

end Sys2Proof.Machine
end

