-- ==== Sys2Proof/Machine/Power.lean ====
section
/-! DEFINITION. Supplies, the governor, thermal trips, standby, bring-up and module resets (R366 to R387). -/

namespace Sys2Proof.Machine

open Sys2Proof

/-! ### Droop, rails, the governor (R371 to R374) -/

/-- DROOP_DETECT (R372): the event is counted; the stretched clock is time. -/
def execDroopDetect (cluster : Nat) (s : State) : Host.Outcome State Fault Refusal :=
  s.act fun w => w.if (decide (cluster < 16)) fun w => w.count (((w.coresIn cluster).head?.map w.owner).getD 0) 0x298 1

/-- RAIL_EXCURSION (R371): a device fault of the rail's die under R330; that of the I/O die, number 4, is a module reset (R380). -/
def execRailExcursion (_rail die : Nat) (s : State) : Host.Outcome State Fault Refusal :=
  s.act fun w => w.if (w.pwr.alive && decide (2 ≤ w.pwr.phase)) fun w =>
    if die = 4 then (w.event .deviceFault 0 true unitIodie).moduleReset w.pwr.auxOk 7
    else w.if (decide (die < 4) && !(w.die die).resetting && !w.pwr.standby) fun w => w.dieReset die

/-- Lower or raise a cluster's clock by one step of 68.75 MHz (R373). -/
def W.stepClock (w : W) (cl : Nat) (down : Bool) : W :=
  w.modCluster cl fun c => { c with lowered := if down then min 31 (c.lowered + 1) else c.lowered - 1 }

/-- Allowance of a die in W, after shed phases (R342, R373). -/
def W.allowance (w : W) (d : Nat) : Nat := 350 - 29 * ((w.integ.phases.filter fun p => p / 14 == d).length - 2)

/-- Power cap in force: CAP, and 6.1 A while the main input is between 330 V and 360 V (R367, R373). -/
def W.capNow (w : W) (volts : Nat) : Nat := if 330 ≤ volts ∧ volts < 360 then min w.powerCap (volts * 61 / 10) else w.powerCap

/-- POWER_GOVERNOR_TICK (R373, R374): mean input power and voltage of the last 1 ms, the busiest clusters, the hottest diode of
each die that reads 92 °C or more, and each die's power. -/
def execPowerGovernorTick (watts volts : Nat) (busiest : List Nat) (hotDies : List (Nat × Int)) (overDies : List (Nat × Nat))
    (s : State) : Host.Outcome State Fault Refusal :=
  s.act fun w => w.if (w.pwr.alive && decide (2 ≤ w.pwr.phase)) fun w =>
    let cap := w.capNow volts
    let was := w.pwr.thermal
    let w := w.each hotDies fun (d, t) w => w.if (decide (d < 4) && decide (95 < t)) fun w => w.modDie d fun x => { x with hot := true }
    let w := if hotDies.all fun q => decide (q.2 < 92) then w.each (List.range 4) fun d w => w.modDie d fun x => { x with hot := false } else w
    let hot := (List.range 4).filter fun d => (w.die d).hot
    let above := overDies.filter fun (d, p) => decide (w.allowance d < p)
    let dies := (hot ++ above.map (·.1)).dedup
    let w := w.each dies fun d w => w.each (List.range 4) fun k w => w.stepClock (4 * d + k) true
    let w :=
      if cap < watts then w.each busiest fun cl w => w.stepClock cl true
      else if watts * 100 < cap * 97 then
        w.each ((List.range 16).filter fun cl => !dies.contains (cl / 4)) fun cl w => w.stepClock cl false
      else w
    let low := (List.range 16).any fun cl => (w.cluster cl).lowered != 0
    let w := { w with pwr.pIn := min 4095 watts, pwr.vIn := min 511 volts, pwr.mainOk := decide (360 ≤ volts) && decide (volts ≤ 420),
                      pwr.thermal := !hot.isEmpty, pwr.capped := decide (cap < watts) || (w.pwr.capped && low) }
    if !hot.isEmpty && !was then w.event .power 0 true unitAbut else w

/-- ADAPTIVE_VOLTAGE_STEP (R371): clusters whose paths are slow go up by 5 mV, fast ones down, between 600 and 900 mV. -/
def execAdaptiveVoltageStep (slower faster : List Nat) (s : State) : Host.Outcome State Fault Refusal :=
  s.act fun w => w.if (w.pwr.alive && decide (3 ≤ w.pwr.phase)) fun w =>
    let awake (cl : Nat) : Bool := decide (cl < 16) && !(w.cluster cl).asleep
    let w := w.each (slower.dedup.filter awake) fun cl w => w.modCluster cl fun c => { c with millivolts := min 900 (c.millivolts + 5) }
    w.each ((faster.dedup.filter awake).filter fun cl => !slower.contains cl) fun cl w =>
      w.modCluster cl fun c => { c with millivolts := max 600 (c.millivolts - 5) }

/-! ### What HBM loses (R367) -/

/-- The stacks are not retained: what every page holds is open from now on. -/
def W.loseHbm (w : W) : W :=
  let fs := w.hbm.frames.filter fun (_, (u : FrameUse)) => u != .withdrawn && u != .spare && u != .scrubWait
  w.each fs fun (f, _) w =>
    let k := w.free
    let cells : List Host.Cell := (List.range pageBytes).map fun i => (i, Config.lostByte k (frameAddr f + i))
    { w with ops := .page (frameAddr f) cells :: w.ops, free := k + 1 }

/-- Preserved images are lost: the auxiliary did not stay valid through the reset (R380, R381). -/
def W.losePreserved (w : W) : W := { w with hbm := w.hbmAfterReset false, deck.images := [], pwr.kind := 2 }

/-! ### Supplies (R366 to R368) -/

/-- SUPPLY_VALID (R366): the first supply to become valid starts phase B0. -/
def execSupplyValid (main : Bool) (s : State) : Host.Outcome State Fault Refusal :=
  s.act fun w =>
    let w := if main then { w with pwr.mainOk := true } else { w with pwr.auxOk := true }
    if w.pwr.alive then w else { w with pwr.alive := true, pwr.phase := 0 }

/-- AUX_LOSS (R366, R367, R380): the Abutment goes on from the main input; stacks in self-refresh lose their retention. -/
def execAuxLoss (s : State) : Host.Outcome State Fault Refusal :=
  s.act fun w => w.if (w.pwr.alive && w.pwr.auxOk) fun w =>
    let w := { w with pwr.auxOk := false }
    if w.pwr.standby then w.loseHbm
    else if decide (w.pwr.phase ≤ 2) && decide (w.pwr.kind = 1) then w.losePreserved else w

/-- Loss of the main input (R367, R368), in whichever phase: the module is reset and its link goes down, the ring is flushed, the bucket levels are written, and
bring-up waits for the main input at the end of B1. -/
def W.powerFail (w : W) (source : Nat) : W :=
  let cut := w.fw.stageCmd.isSome
  let w := { w with fw.stage := if cut then 0 else w.fw.stage, fw.stageCmd := none }
  let w := { w.moduleReset w.pwr.auxOk source with pwr.phase := min 1 w.pwr.phase }
  let w := { w with pwr.mainOk := false, pwr.mainLost := true, integ.saved := w.integ.buckets }
  w.flushRing

/-- MAIN_POWER_FAIL (R368). -/
def execMainPowerFail (s : State) : Host.Outcome State Fault Refusal :=
  s.act fun w => w.if (w.pwr.alive && !w.pwr.mainLost && (w.pwr.mainOk || decide (2 ≤ w.pwr.phase))) fun w => w.powerFail 5

/-- OVER_VOLTAGE_TRIP (R367). -/
def execOverVoltageTrip (s : State) : Host.Outcome State Fault Refusal :=
  s.act fun w => w.if (w.pwr.alive && !w.pwr.mainLost && (w.pwr.mainOk || decide (2 ≤ w.pwr.phase))) fun w => w.powerFail 6

/-- MAIN_RETURN (R367): in range for 10 ms after a failure or trip. -/
def execMainReturn (s : State) : Host.Outcome State Fault Refusal :=
  s.act fun w => w.if (w.pwr.alive && w.pwr.mainLost) fun w => { w with pwr.mainLost := false, pwr.mainOk := true }

/-- HOLD_UP_EXPIRY (R368, R380): neither input is valid, and the Abutment loses power. -/
def execHoldUpExpiry (s : State) : Host.Outcome State Fault Refusal :=
  s.act fun w => w.if (w.pwr.alive && !w.pwr.auxOk && !w.pwr.mainOk && (w.pwr.mainLost || decide (w.pwr.phase ≤ 1))) fun w => w.powerCycle

/-! ### Thermal trip (R375) -/

/-- Commands that run on the compute dies: all but steps, key removal, attestation, firmware and pack loading, and the removal
of spans, which the Abutment and the I/O die carry. -/
def Cmd.onDies (c : Cmd) : Bool := !([0x0401, 0x0801, 0x0802, 0x0810, 0x0811, 0x0700, 0x0105].contains c.op)

/-- Steps 1 and 2 of a thermal trip (R375). -/
def W.stopHot (w : W) : W :=
  let w := w.abandonActivation .squashed
  let w := w.each (w.step.steps.filter fun x => x.admitted) fun x w => w.failStep x.id .deviceFault .none
  let w := w.each (List.range 64) fun n w => w.squashSpan n
  let w := w.each (w.cmd.cmds.filter Cmd.onDies) fun c w => w.endCommand c.id .deviceFault
  let w := w.dropTests (fun _ => true) .deviceFault
  let w := w.each (List.range 128) fun l w => w.poisonDirty l
  w.each (List.range 128) fun l w => w.scrubPad l

/-- THERMAL_TRIP (R375). -/
def execThermalTrip (s : State) : Host.Outcome State Fault Refusal :=
  s.act fun w => w.if (w.pwr.alive && decide (2 ≤ w.pwr.phase) && !w.pwr.standby) fun w =>
    let w := ((w.stopHot).event .power 0 true unitAbut).healthAll unitAbut
    if w.pwr.auxOk then
      { w with pwr.standby := true, pwr.tripped := true, pwr.standbyReq := true, pwr.exiting := false }
    else { w.moduleReset w.pwr.auxOk 8 with pwr.hot := true }

/-- THERMAL_COOLDOWN (R375 step 4): every diode reads below 85 °C, so bring-up from B2 may start. -/
def execThermalCooldown (hottest : Int) (s : State) : Host.Outcome State Fault Refusal :=
  s.act fun w => w.if (w.pwr.hot && decide (hottest < 85)) fun w => { w with pwr.hot := false }

/-- THERMAL_STANDBY_EXIT (R375): host software clears STANDBY_REQ; ignored while a diode reads 85 °C or above. After a trip in B2 that phase runs
anew (log entry 153). -/
def execThermalStandbyExit (hottest : Int) (s : State) : Host.Outcome State Fault Refusal :=
  s.act fun w => w.if ((w.busUp || (w.pwr.alive && w.pwr.linkUp && decide (w.pwr.phase = 2))) && w.pwr.standby && w.pwr.tripped && decide (hottest < 85))
    fun w => { w with pwr.standby := false, pwr.tripped := false, pwr.standbyReq := false, pwr.exiting := false,
                      pwr.b2Done := w.pwr.b2Done && decide (3 ≤ w.pwr.phase) }.runLater

/-! ### Requested standby (R384) -/

/-- A write of ABT_LP_CTL (R375, R384, R387). -/
def W.writeLp (w : W) (v : Nat) : W :=
  let w := w.writeBits 0 0x550C v 2
  if bit v 0 then { w with pwr.standbyReq := true }
  else if w.pwr.tripped then w
  else { w with pwr.standbyReq := false }.wakeUp

/-- STANDBY_REQUEST (R384): a write of ABT_LP_CTL in the PF. -/
def execStandbyRequest (fn : Nat) (value : Word) (s : State) : Host.Outcome State Fault Refusal :=
  s.act fun w => w.if (w.busUp && fn == 0) fun w => w.writeLp value.toNat

/-- Do the four conditions of requested standby hold (R384)? -/
def W.mayStandBy (w : W) : Bool :=
  w.pwr.standbyReq && !w.pwr.standby && w.busUp
    && !(w.step.steps.any fun x => x.admitted || x.phase == .staged)
    && !(w.cmd.cmds.any fun c => c.op != 0x0401) && w.core.tests.isEmpty
    && !(w.tables.any fun (_, t) => t.isSome) && w.rank.isNone

/-- STANDBY_ENTRY (R384). -/
def execStandbyEntry (s : State) : Host.Outcome State Fault Refusal :=
  s.act fun w => w.if w.mayStandBy fun w =>
    let w := w.each (List.range 128) fun l w => w.flush (w.owner l) l fun _ => true
    let ps := (List.range 128).flatMap w.pinList
    let w := w.each (List.range 128) fun l w => w.scrubPad l
    let w := { w with pwr.standby := true, pwr.exiting := false, pwr.pins := ps }
    if w.pwr.auxOk then w else w.loseHbm

/-- STANDBY_EXIT (R384): started by a doorbell, a parapet write, or clearing STANDBY_REQ. -/
def execStandbyExit (s : State) : Host.Outcome State Fault Refusal :=
  s.act fun w => w.if (w.pwr.standby && !w.pwr.tripped && w.pwr.exiting) fun w =>
    let ps := w.pwr.pins
    let w := { w with pwr.standby := false, pwr.standbyReq := false, pwr.exiting := false, pwr.pins := [] }
    (w.refetchPins ps).runLater

/-! ### Bring-up (R376 to R379, R388, R390) -/

/-- Does the image of a slot verify (R390)? An empty slot holds none. -/
def W.slotVerifies (w : W) (b : Bool) : Bool :=
  match (if b then w.fw.slotB else w.fw.slotA) with
  | some i => w.verifies i
  | none => false

/-- Set or clear a slot's invalid bit (R348, R388). -/
def W.setInvalid (w : W) (b bad : Bool) : W := if b then { w with fw.invalidB := bad } else { w with fw.invalidA := bad }

/-- BOOT_ROM_VERIFY (R388): the slot marked active, else the other one, else the module stays in B1, in recovery. -/
def execBootRomVerify (s : State) : Host.Outcome State Fault Refusal :=
  s.act fun w => w.if (w.pwr.alive && (decide (w.pwr.phase = 0) || w.pwr.bootFailed)) fun w =>
    let a := w.fw.runB
    if w.slotVerifies a then { w.setInvalid a false with pwr.phase := 1, pwr.bootFailed := false }
    else
      let w := w.setInvalid a true
      if w.slotVerifies (!a) then { w.setInvalid (!a) false with pwr.phase := 1, pwr.bootFailed := false, fw.runB := !a }
      else { w.setInvalid (!a) true with pwr.phase := 1, pwr.bootFailed := true }

/-- The scratchpad self-test of B2 replaces faulty rows by redundant ones (R376). How many it finds is open, a free value, and never more than a bank
has left (log entry 152). -/
def W.selfTest (w : W) : W :=
  let k := w.free
  let spent (c : Nat) (p : Phys) : Phys := { p with rows := p.rows.zipIdx.map fun q => q.1 - Config.faultyRows k c q.2 }
  w.each (List.range 144) (fun c w => w.modPhys c (spent c)) |> fun w => { w with free := k + 1 }

/-- DIE_POWER_UP (R376, R377): phase B2 runs, with its self-test; at its end WAKE# asks for the release of PERST#, until the link is up (R425). -/
def execDiePowerUp (s : State) : Host.Outcome State Fault Refusal :=
  s.act fun w => w.if (w.pwr.alive && !w.pwr.bootFailed && !w.pwr.hot && !w.pwr.mainLost && !w.pwr.standby
      && ((decide (w.pwr.phase = 1) && w.pwr.mainOk) || (decide (w.pwr.phase = 2) && !w.pwr.b2Done))) fun w =>
    let w := { w.selfTest with pwr.phase := 2, pwr.b2Done := true }
    if w.pwr.linkUp then w else { w with pwr.wake := true }.emit (.wakePin true)

/-- The PCIe link reaches L0, and WAKE# is released (R425). -/
def W.linkReady (w : W) : W :=
  if w.pwr.linkUp then w
  else
    let w := { w with pwr.linkUp := true }.emit (.linkState true)
    if w.pwr.wake then { w with pwr.wake := false }.emit (.wakePin false) else w

/-- PCIE_LINK_UP (R376). -/
def execPcieLinkUp (s : State) : Host.Outcome State Fault Refusal :=
  s.act fun w => w.if (w.pwr.alive && !w.pwr.perst && !w.pwr.mainLost && !w.pwr.bootFailed
      && (decide (2 ≤ w.pwr.phase) || (decide (w.pwr.phase = 1) && w.pwr.mainOk))) fun w => w.linkReady

/-- TRESTLE_START (R376): phase B3, trestle mode. -/
def execTrestleStart (s : State) : Host.Outcome State Fault Refusal :=
  s.act fun w => w.if (w.pwr.alive && decide (w.pwr.phase = 2) && w.pwr.b2Done && !w.pwr.perst && !w.pwr.standby) fun w =>
    { w.linkReady with pwr.phase := 3, pwr.trestle := true }

/-- A whole stack is lost (R62): its channels leave service, and the pages homed there are handled as pages that cannot be read (R61). -/
def W.loseStack (w : W) (k : Nat) : W :=
  let w := w.setStack k .lost
  let w := w.each (List.range 32) fun i w => w.modChan (32 * k + i) fun c => { c with state := .lost }
  let used (f : Nat) : Bool := (w.userOf f).isSome || w.hbm.moves.any fun m => m.new == f
  let fs := (w.hbm.frames.map (·.1)).filter fun f => stackOf (chanOf f) == k && used f
  let w := w.each fs fun f w => w.rehomePoisoned f
  (w.event .capacity 0 true unitAbut none (.rating BktClass.hbmChannel.num w.rated)).healthAll unitAbut (.rating BktClass.hbmChannel.num w.rated)

/-- STACK_TRAIN_DONE (R378, R62): a stack joins and its trained values, which are open, go to flash; or it tries once more, or is lost. A
stack in service is lost when it answers to training no more (log entry 111). -/
def execStackTrainDone (stack : Nat) (ok : Bool) (s : State) : Host.Outcome State Fault Refusal :=
  s.act fun w => w.if (w.pwr.alive && decide (3 ≤ w.pwr.phase) && decide (stack < 8)
      && (w.stackState stack == .training || w.stackState stack == .retry || (!ok && w.stackState stack == .joined))) fun w =>
    let first := w.stackState stack == .training
    let w := { w with pwr.phase := max 4 w.pwr.phase }
    if ok then
      let (v, w) := w.freeVal
      let w := { w with pwr.trained := (w.pwr.trained.filter fun (q : Nat × BitVec 64) => q.1 != stack) ++ [(stack, v)] }
      (((w.setStack stack .joined)).event .capacity 0 true unitAbut).healthAll unitAbut
    else if first then w.setStack stack .retry
    else w.loseStack stack

/-- PORT_JOIN (R378). -/
def execPortJoin (port : Nat) (s : State) : Host.Outcome State Fault Refusal :=
  s.act fun w => w.if (w.pwr.alive && decide (3 ≤ w.pwr.phase) && decide (port < 9)
      && ((w.port port).state == .training || (w.port port).state == .down)) fun w =>
    let w := { w with pwr.phase := max 5 w.pwr.phase }
    (w.modPort port fun p => { p with state := .up }).sendWaiting

/-- The Abutment blows fuses up to the running image's SVN (R391). -/
def W.commitSvn (w : W) : W :=
  let svn := (w.runImage.map (·.svn)).getD 0
  if svn ≤ w.fuses then w else { w with fuses := min 63 svn }.event .firmware 0 true unitAbut

/-- FULL_SERVICE (R376, R379, R391): every stack has joined or is lost. A cluster that holds a task keeps its 1.2 GHz until its next step
boundary. -/
def execFullService (s : State) : Host.Outcome State Fault Refusal :=
  s.act fun w => w.if (w.pwr.alive && decide (3 ≤ w.pwr.phase) && decide (w.pwr.phase < 6) && !w.pwr.standby
      && (List.range 8).all fun k => w.stackState k == .joined || w.stackState k == .lost) fun w =>
    let w := { w with pwr.phase := 6, pwr.trestle := false }
    let w := w.each ((List.range 16).filter fun cl => !w.busyCluster cl) fun cl w => w.modCluster cl fun c => { c with fast := true }
    if (w.runImage.map (·.commit)).getD false then w.commitSvn else w

/-! ### Resets of the module (R377, R380) -/

/-- PERST_ASSERT (R377): before B3 it only holds the link; with the link up in B3 or later it is a module reset. -/
def execPerstAssert (s : State) : Host.Outcome State Fault Refusal :=
  s.act fun w =>
    let w := if w.busUp then w.moduleReset w.pwr.auxOk 1 else w
    let w := if w.pwr.linkUp then { w with pwr.linkUp := false }.emit (.linkState false) else w
    { w with pwr.perst := true }

/-- PERST_RELEASE (R376). -/
def execPerstRelease (s : State) : Host.Outcome State Fault Refusal := s.act fun w => { w with pwr.perst := false }

/-- PCIE_HOT_RESET (R380). -/
def execPcieHotReset (s : State) : Host.Outcome State Fault Refusal :=
  s.act fun w => w.if (w.pwr.alive && w.pwr.linkUp && !w.pwr.perst) fun w => w.moduleReset w.pwr.auxOk 2

/-- DATA_LINK_DOWN (R380). -/
def execDataLinkDown (s : State) : Host.Outcome State Fault Refusal :=
  s.act fun w => w.if (w.pwr.alive && w.pwr.linkUp && !w.pwr.perst) fun w => w.moduleReset w.pwr.auxOk 3

end Sys2Proof.Machine
end

