-- ==== Sys2Proof/Machine/Firmware.lean ====
section
/-! DEFINITION. Firmware staging and activation, tenant keys, and the SPDM responder (R389 to R399). -/

namespace Sys2Proof.Machine

open Sys2Proof

/-! ### Staging (R389, R390, R392) -/

/-- An image as it stands in a slot, read from its bytes (R389). -/
def FwImage.ofBytes (b : List Byte) : FwImage :=
  { version := BitVec.ofNat 32 (rd b 4 4), svn := rd b 8 1, commit := bit (rd b 9 1) 0, sirevMask := BitVec.ofNat 32 (rd b 12 4),
    digest := BitVec.ofNat 384 (rd b 20 48), header := b.take 4096, sig := (b.drop 68).take 96, cosig := (b.drop 164).take 96,
    bodyLen := b.length - 4096, bodyDigest := sha384 (b.drop 4096) }

/-- Is the header well formed, and the silicon revision included (R389, R392)? -/
def fwHeaderOk (b : List Byte) : Bool :=
  decide (4096 ≤ b.length) && rd b 0 4 == 0x57464E42 && decide (rd b 8 1 ≤ 63) && decide (rd b 9 1 ≤ 1)
    && rd b 16 4 == b.length - 4096 && resvZero [(0, 10), (12, 248)] (b.take 4096)
    && bit (rd b 12 4) Config.siliconRev.toNat

/-- What refuses a staged image (R392): its size, its header, a signature (or the signed digest of its body), its SVN. -/
def W.stageFault (w : W) (b : List Byte) : Option Status :=
  let i := FwImage.ofBytes b
  if 50331648 < b.length then some .refusedFit
  else if !fwHeaderOk b then some .refusedFormat
  else if i.svn < w.fuses then
    (if Config.wealoletSigOk (b.take 68) i.sig && i.digest == i.bodyDigest then some .refusedContract else some .refusedPermission)
  else if w.verifies i then none else some .refusedPermission

/-- A staging starts: the slot that is not running loses what it held (R392). -/
def W.startStage (w : W) (who : Option Nat) (b : List Byte) : W :=
  let w := if w.fw.runB then { w with fw.slotA := none } else { w with fw.slotB := none }
  { w.setInvalid (!w.fw.runB) true with fw.stage := 1, fw.stageCmd := some who, fw.stageImage := b }

/-- FW_STAGE (R392). -/
def execFwStage (p : Pkt) (s : State) : Host.Outcome State Fault Refusal :=
  s.act fun w => w.intake opFwStage p fun c w =>
    if w.fw.stageCmd.isSome || w.activating then w.answer c .retryLater
    else
      let len := p.arg 24 4
      if 50331648 < len then { w.startStage none [] with fw.stage := 0, fw.stageCmd := none }.answer c .refusedFit
      else (w.startStage (some c.id) (padTo len (p.block.take len))).begin c

/-- FW_STAGE_DONE (R392): the image is written and checked; a Redfish upload is answered too. -/
def execFwStageDone (s : State) : Host.Outcome State Fault Refusal :=
  s.act fun w => w.with w.fw.stageCmd fun who w => w.if (who.isNone || !(w.sp 0).stopHost) fun w =>
    let b := w.fw.stageImage
    let bad := w.stageFault b
    let w := { w with fw.stageCmd := none, fw.stageImage := [], fw.stage := if bad.isSome then 0 else 2 }
    let i := some (FwImage.ofBytes b)
    let w := if bad.isSome then w
      else (if w.fw.runB then { w with fw.slotA := i } else { w with fw.slotB := i }).setInvalid (!w.fw.runB) false
    let w := w.event .firmware 0 true unitAbut
    match who with
    | some c => w.finish c (bad.getD .ok)
    | none => w.emit (.redfish (if bad.isSome then 400 else 200) [])

/-! ### Activation (R393) -/

/-- An activation starts (R393 step 1): no step is admitted any more. -/
def W.startActivation (w : W) (who : Option Nat) : W :=
  { w with fw.act := 1, fw.actCmd := some who }.event .firmware 0 true unitAbut

/-- FW_ACTIVATE (R393). -/
def execFwActivate (p : Pkt) (s : State) : Host.Outcome State Fault Refusal :=
  s.act fun w => w.intake opFwActivate p fun c w =>
    let k := p.arg 12 1
    if w.activating then w.answer c .retryLater
    else if 1 < k || (k == 1) == w.fw.runB || !w.slotVerifies (k == 1) then w.answer c .refusedFormat
    else (w.startActivation (some c.id)).begin c

/-- FW_ACTIVATE_WINDOW (R393 step 2): the last running compute phase has ended. -/
def execFwActivateWindow (s : State) : Host.Outcome State Fault Refusal :=
  s.act fun w => w.if (w.fw.act == 1 && !(w.step.steps.any fun x => x.phase == .compute)) fun w => { w with fw.act := 2 }

/-- FW_SWITCH (R393 steps 3 and 4): every component switches, admission resumes, and the command replies. -/
def execFwSwitch (s : State) : Host.Outcome State Fault Refusal :=
  s.act fun w => w.if (w.fw.act == 2) fun w =>
    let who := w.fw.actCmd
    let w := { w with fw.act := 0, fw.actCmd := none, fw.runB := !w.fw.runB, fw.stage := 0 }.event .firmware 0 true unitAbut
    let w := match who with
      | some (some c) => w.finish c .ok
      | some none => w.emit (.redfish 200 [])
      | none => w
    w.runLater

/-- FW_ACTIVATE_TIMEOUT (R393): the drain has lasted 1 s. -/
def execFwActivateTimeout (s : State) : Host.Outcome State Fault Refusal :=
  s.act fun w => w.if (w.fw.act == 1) fun w => w.abandonActivation .retryLater

/-! ### Tenant keys (R398, R399) -/

/-- A wrapped-key block is well formed, and bound to this slot and span (R398). -/
def keyBlockOk (b : List Byte) (k n : Nat) : Bool :=
  rd b 0 4 == 0x594B5742 && rd b 4 2 == k && rd b 6 1 == n && resvZero [(0, 7), (16, 108), (128, 80)] (b.take 256)

/-- KEY_INSTALL (R295, R398, R399). -/
def execKeyInstall (p : Pkt) (s : State) : Host.Outcome State Fault Refusal :=
  s.act fun w => w.intake opKeyInstall p fun c w =>
    let k := p.arg 12 2
    let b := padTo 256 (p.block.take 256)
    if !w.ownKey c.fn k then w.answer c .refusedPermission
    else if (w.keySlot k).state ≠ .empty then w.answer c .retryLater
    else if !keyBlockOk b k c.fn then w.answer c .refusedFormat
    else
      match Config.unwrapKey b with
      | none => w.answer c .refusedPermission
      | some key =>
        if key.toNat % 2 ^ 256 = key.toNat / 2 ^ 256 then w.answer c .refusedFormat
        else
          (w.modKey k fun s => { s with state := .installed, count := (s.count + 1) % 2 ^ 20, key := key }).answer c .ok

/-! ### Measurements and SPDM (R395 to R397) -/

/-- Digest of a component as 48 bytes. -/
def measured (i : Nat) (b : List Byte) : List Byte := leBytes 48 (Config.componentDigest i b).toNat

/-- What identifies a firmware image to the measurements of its components. -/
def FwImage.ident (i : FwImage) : List Byte := i.header ++ leBytes 48 i.bodyDigest.toNat

/-- Digests of indices 3 to 9 for an image (R396); a die's index has a state byte in front. -/
def W.imageMeasures (w : W) (i : FwImage) (offset : Nat) : List (Nat × List Byte) :=
  (List.range 7).map fun k =>
    let d := measured (3 + k) i.ident
    (3 + k + offset, if 1 ≤ k ∧ k ≤ 4 then leBytes 1 (if (w.die (k - 1)).resetting then 1 else 0) ++ d else d)

/-- Trust anchors and role map as bytes, for index 11. -/
def W.credentialBytes (w : W) : List Byte :=
  w.fw.anchors.flatten ++ w.fw.roles.flatMap fun (c, r) => leBytes 4 c ++ leBytes 1 r.level

/-- Every measurement present (R396, R397). -/
def W.measures (w : W) : List (Nat × List Byte) :=
  let cosign := match w.fw.cosign with | some k => leBytes 48 (sha384 k).toNat | none => List.replicate 48 0#8
  [(1, measured 1 []), (2, leBytes 1 w.fuses ++ cosign)]
    ++ (match w.runImage with | some i => w.imageMeasures i 0 | none => [])
    ++ (if w.integ.pack = 0 then [] else [(10, measured 10 w.integ.packBytes)])
    ++ [(11, measured 11 w.credentialBytes)]
    ++ (if w.fw.stage = 2 then (match w.otherImage with | some i => w.imageMeasures i 16 | none => []) else [])

/-- The answer of the SPDM responder to a request code (R395): response code, measurements, and further bytes, which the
manual does not lay out. A measurement request without a signature is not supported. -/
def W.spdmAnswer (w : W) (code : Nat) (req : List Byte) (indices : List Nat) : (Nat × List (Nat × List Byte) × List Byte) × W :=
  let extra := Config.spdmBytes w.fw.spdmCount req
  let w := { w with fw.spdmCount := w.fw.spdmCount + 1 }
  match code with
  | 0x84 => ((0x04, [], extra), w)
  | 0xE1 => ((0x61, [], extra), w)
  | 0xE3 => ((0x63, [], extra), w)
  | 0x81 => ((0x01, [], extra), w)
  | 0x82 => ((0x02, [], extra), w)
  | 0x83 => ((0x03, [], extra), w)
  | 0xE0 =>
    if bit (rd req 2 1) 0 then ((0x60, w.measures.filter fun m => indices.contains m.1, extra), w)
    else ((0x7F, [], extra), w)
  | _ => ((0x7F, [], extra), w)

/-- Can a request arrive on a path (R376, R395, R400)? -/
def W.pathOpen (w : W) : SpdmPath → Bool
  | .doe => w.busUp
  | .mctp => w.pwr.alive && decide (1 ≤ w.pwr.phase) && !w.fw.mctpOff && !w.pwr.bootFailed
  | .ring fn => w.serving && decide (fn < 64)

/-- Answer one SPDM request (R395, R397): measurement requests wait while an activation window is open. -/
def W.spdm (w : W) (path : SpdmPath) (code : Nat) (req : List Byte) (indices : List Nat) : W :=
  if !w.pathOpen path then w
  else if code = 0xE0 ∧ w.fw.act = 2 then w.emit (.spdmNotReady path 17)
  else
    let ((c, items, extra), w) := w.spdmAnswer code req indices
    w.emit (.spdm path c items extra)

/-- GET_VERSION (R395). -/
def execGetVersion (path : SpdmPath) (request : List Byte) (s : State) : Host.Outcome State Fault Refusal :=
  s.act fun w => w.spdm path 0x84 request []
/-- GET_CAPABILITIES (R395). -/
def execGetCapabilities (path : SpdmPath) (request : List Byte) (s : State) : Host.Outcome State Fault Refusal :=
  s.act fun w => w.spdm path 0xE1 request []
/-- NEGOTIATE_ALGORITHMS (R395): ECDSA P-384 and SHA-384 alone. -/
def execNegotiateAlgorithms (path : SpdmPath) (request : List Byte) (s : State) : Host.Outcome State Fault Refusal :=
  s.act fun w => w.spdm path 0xE3 request []
/-- GET_DIGESTS (R394, R395). -/
def execGetDigests (path : SpdmPath) (request : List Byte) (s : State) : Host.Outcome State Fault Refusal :=
  s.act fun w => w.spdm path 0x81 request []
/-- GET_CERTIFICATE (R394, R395). -/
def execGetCertificate (path : SpdmPath) (request : List Byte) (s : State) : Host.Outcome State Fault Refusal :=
  s.act fun w => w.spdm path 0x82 request []
/-- CHALLENGE (R395). -/
def execChallenge (path : SpdmPath) (request : List Byte) (s : State) : Host.Outcome State Fault Refusal :=
  s.act fun w => w.spdm path 0x83 request []
/-- GET_MEASUREMENTS (R395 to R397). -/
def execGetMeasurements (path : SpdmPath) (request : List Byte) (indices : List Nat) (s : State) : Host.Outcome State Fault Refusal :=
  s.act fun w => w.spdm path 0xE0 request indices

/-- ATTEST (R395): one SPDM request and its response. Request code and measurement operation stand at bytes 1 and 3. A
response that does not fit into the buffer is refused, and nothing is written (the manual gives no rule). -/
def execAttest (p : Pkt) (s : State) : Host.Outcome State Fault Refusal :=
  s.act fun w => w.intake opAttest p fun c w =>
    let req := padTo (p.arg 32 4) (p.block.take (p.arg 32 4))
    let op := rd req 3 1
    let ((k, items, extra), w) := w.spdmAnswer (rd req 1 1) req (if op = 0xFF then List.range 26 else [op])
    let body := leBytes 1 0x13 ++ leBytes 1 k ++ (items.flatMap fun m => leBytes 1 m.1 ++ m.2) ++ extra
    if p.arg 36 4 < body.length then w.answer c .refusedFit
    else (w.emit (.hostWrite c.fn (p.arg 24 8) body)).answer c .ok (.count body.length)

end Sys2Proof.Machine
end

