-- ==== Sys2Proof/Machine/Observe.lean ====
section
/-! DEFINITION. Event records, trace set-up, counters, the health view (R88, R89, R406 to R419, R432). -/

namespace Sys2Proof.Machine

open Sys2Proof

/-! ### Counters (R89, R415) -/

/-- CNT_LO_READ (R89): the low word is returned, and the high word of the same moment is latched. -/
def execCntLoRead (fn off : Nat) (s : State) : Host.Outcome State Fault Refusal :=
  s.act fun w => w.if (w.busUp && decide (fn < 64) && decide (0x4000 ≤ off) && decide (off < 0x5000) && isCounter (off % 0x1000)) fun w =>
    let v := w.counter fn (off % 0x1000)
    let w := { w with free := w.free + 1 }
    { w with obs.hi := Sparse.put (fun _ => none) w.obs.hi (65536 * fn + off) (some (BitVec.ofNat 32 (v / 2 ^ 32))) }.emit
      (.readData fn (leBytes 4 v))

/-- A write of CNT_FMT_CTL (R88, R89): PF only; a change discards latched words. -/
def W.writeFmtCtl (w : W) (fn v : Nat) : W :=
  if fn ≠ 0 ∨ bit (w.regv 0 0x40FC) 0 = bit v 0 then w
  else { w.setReg 0 0x40FC (v % 2) with obs.hi := w.obs.hi.filter fun (k, _) => k / 65536 != 0 }

/-- CNT_FMT_CTL_WRITE (R88, R89). -/
def execCntFmtCtlWrite (fn : Nat) (value : Word) (s : State) : Host.Outcome State Fault Refusal :=
  s.act fun w => w.if w.busUp fun w => w.writeFmtCtl fn value.toNat

/-! ### Event records (R408 to R411) -/

/-- Change a function's latch. -/
def W.modLatch (w : W) (fn : Nat) (f : Latch → Latch) : W :=
  { w with obs.latches := Sparse.modify (fun _ => ({} : Latch)) w.obs.latches fn f }

/-- A write of TRC_EV_SEL (R410). -/
def W.selectEvent (w : W) (fn : Nat) (seq : Word) : W := w.modLatch fn fun l => { l with sel := seq.toNat, busy := true }

/-- TRC_EV_SEL (R410). -/
def execTrcEvSel (fn : Nat) (seq : Word) (s : State) : Host.Outcome State Fault Refusal :=
  s.act fun w => w.if (w.busUp && decide (fn < 64)) fun w => w.selectEvent fn seq

/-- A record as a function reads it (R408): another span's payload is zero. -/
def EvRec.seenBy (r : EvRec) (fn : Nat) : EvRec :=
  if fn = 0 ∨ r.device ∨ r.span = fn then r else { r with payload := List.replicate r.payload.length 0#8 }

/-- The record with a number: from the ring, else from the flash log; none held: TYPE 0 with TRC_FL_FIRST (R410). -/
def W.findEvent (w : W) (seq : Nat) : EvRec :=
  match w.obs.ring.find? fun r => r.seq == seq with
  | some r => r
  | none => (w.obs.flash.find? fun r => r.seq == seq).getD
      { ty := 0, payload := [], span := 0, device := true, unit := 0, seq := w.flFirst, time := 0#64 }

/-- EVENT_RECORD_LATCHED (R410). -/
def execEventRecordLatched (fn : Nat) (s : State) : Host.Outcome State Fault Refusal :=
  s.act fun w => w.if (w.latch fn).busy fun w =>
    let r := (w.findEvent (w.latch fn).sel).seenBy fn
    w.modLatch fn fun l => { l with busy := false, record := some r }

/-- Records are cleared, and a CLEARED record names who cleared them (R411). -/
def W.clearEvents (w : W) (ring flash : Bool) (unit : Nat) : W :=
  let w := if ring then { w with obs.ring := [], obs.unflushed := 0 } else w
  let w := if flash then { w with obs.flash := [] } else w
  if ring || flash then w.event .cleared 0 true unit none (.clearer (unit == unitMgmt)) else w

/-- TRC_EV_CLEAR with RING (R411): ignored from a VF. -/
def execTrcEvClearRing (fn : Nat) (s : State) : Host.Outcome State Fault Refusal :=
  s.act fun w => w.if (w.busUp && fn == 0) fun w => w.clearEvents true false unitAbut

/-- TRC_EV_CLEAR with FLASH (R411): ignored from a VF. -/
def execTrcEvClearFlash (fn : Nat) (s : State) : Host.Outcome State Fault Refusal :=
  s.act fun w => w.if (w.busUp && fn == 0) fun w => w.clearEvents false true unitAbut

/-- EVENT_FLUSH (R409): the ring goes to the flash log; records refused meanwhile are accounted for. -/
def execEventFlush (s : State) : Host.Outcome State Fault Refusal :=
  s.act fun w => w.if (w.pwr.alive && (w.obs.flushDue || decide (0 < w.obs.refused))) fun w =>
    let k := w.obs.refused
    let w := w.flushRing
    if k = 0 then w else { w with obs.refused := 0 }.event .dropped 0 true unitAbut (some (leBytes 4 k))

/-! ### Trace (R413, R414) -/

/-- Is the region of a trace made of the span's own WRITABLE pages (R413)? -/
def W.traceRegion (w : W) (n base pages : Nat) : Bool :=
  (List.range pages).all fun i =>
    match w.page n (base / pageBytes + i) with
    | some e => e.frame.isSome && e.writable
    | none => false

/-- A write of TRC_CFG (R413, R414, R418): while EN is set, only clearing EN counts. -/
def W.writeTrcCfg (w : W) (n v : Nat) : W :=
  let on := bit (w.regv n 0x8020) 0
  if on then
    (if bit v 0 then w
     else { w.setReg n 0x8020 (w.regv n 0x8020 / 2 * 2) with obs.traces := Sparse.put (fun _ => none) w.obs.traces n none })
  else
    let w := w.setReg n 0x8020 (v % 128 / 2 * 2)
    if !bit v 0 then w
    else
      let base := w.regv n 0x8024 + 2 ^ 32 * w.regv n 0x8028
      let pages := w.regv n 0x802C % 4096
      let ls := w.coresOf n
      if base % pageBytes = 0 ∧ 128 ≤ pages ∧ pages ≤ 2048 ∧ base / pageBytes + pages ≤ 2 ^ 27 ∧ ¬ls.isEmpty ∧ w.traceRegion n base pages then
        let t : Trace := { cores := ls, share := 481 * pages / ls.length, base := base, pages := pages, stop := bit v 1, mask := bits v 6 2 }
        let w := w.each ls fun l w => { w with obs.wptr := Sparse.put (fun _ => 0) w.obs.wptr l 0 }
        let w := w.setReg n 0x8020 (v % 128)
        { w with obs.traces := Sparse.put (fun _ => none) w.obs.traces n (some t),
                 obs.trcErr := Sparse.put (fun _ => false) w.obs.trcErr n false }
      else { w with obs.trcErr := Sparse.put (fun _ => false) w.obs.trcErr n true }

/-- TRACE_ENABLE (R413): TRC_CFG is written with EN set. -/
def execTraceEnable (fn : Nat) (value : Word) (s : State) : Host.Outcome State Fault Refusal :=
  s.act fun w => w.if (w.busUp && decide (fn < 64)) fun w => w.writeTrcCfg fn (value.toNat ||| 1)

/-- TRACE_DISABLE (R414): EN is cleared. -/
def execTraceDisable (fn : Nat) (s : State) : Host.Outcome State Fault Refusal :=
  s.act fun w => w.if (w.busUp && decide (fn < 64) && bit (w.regv fn 0x8020) 0) fun w => w.writeTrcCfg fn 0

/-! ### The health view (R416, R417, R432) -/

/-- Set a word of the health view. -/
def W.setHlt (w : W) (off v : Nat) : W := { w with obs.hlt := Sparse.put hltReset w.obs.hlt off (BitVec.ofNat 32 v) }

/-- The fault term: the largest level over THRESH among the instances of classes 0 and 3 to 7 (R417). -/
def W.faultTerm (w : W) : Nat :=
  let term (e : Nat × Bucket) : Nat :=
    let c := e.1 / 2 ^ 28
    if c = 1 ∨ c = 2 then 0 else 16384 * e.2.level / w.thresh c
  (w.integ.buckets.map term).foldl max 0

/-- The ageing term: 2,048 per 1 % of the slowest cluster that is in use; readings in 0.01 % (R417). -/
def W.ageTerm (w : W) (slow : List Nat) : Nat :=
  let live := slow.zipIdx.filter fun (_, cl) => !(w.cluster cl).dead
  min 20480 ((live.map (·.1)).foldl max 0 * 2048 / 100)

/-- The four terms of the risk index (R417): thermal, ageing, voltage, faults. -/
def W.riskTerms (w : W) (x : Sensors) : Nat × Nat × Nat × Nat :=
  (min 20480 (x.hotMean1024 - 76800), w.ageTerm x.slow, min 8192 (512 * x.excursions), min 65535 w.faultTerm)

/-- Words `k` to a register from a list, each `bits` wide. -/
def packed (l : List Nat) (k width i : Nat) : Nat :=
  ((List.range k).map fun j => l.getD (k * i + j) 0 % 2 ^ width * 2 ^ (width * j)).sum

/-- Crypto ceiling in GB/s (R340): 2,000, less 62.5 for each engine beyond the four spares. -/
def W.cryptoRate (w : W) : Nat := (4000 - 125 * (w.integ.crypto.length - 4)) / 2

/-- HEALTH_REFRESH (R416): the view is brought up to date, HLT_SEQ last. -/
def W.refresh (w : W) (x : Sensors) : W :=
  let (a, b, c, d) := w.riskTerms x
  let ports := ((List.range 9).filter fun p => (w.port p).state != .retired).length
  let map := (List.range 128).map fun l => (w.physOf l).getD 255
  let w := w.setHlt 0x6000 (min 65535 (a + b + c + d))
  let w := (w.setHlt 0x6004 (a + b * 65536)).setHlt 0x6008 (c + d * 65536)
  let w := ((w.setHlt 0x6010 w.capacity).setHlt 0x6014 w.sustained).setHlt 0x6018 (200 * min 8 ports)
  let w := w.setHlt 0x601C w.cryptoRate
  let w := w.each (List.range 24) fun i w => w.setHlt (0x6040 + 4 * i) (packed (x.temps.map (·.toNat)) 4 8 i)
  let w := w.each (List.range 8) fun i w => w.setHlt (0x60A0 + 4 * i) (packed x.slow 2 16 i)
  let w := w.each (List.range 16) fun i w => w.setHlt (0x60C0 + 4 * i) (packed x.volts 2 16 i)
  let w := w.each (List.range 32) fun i w => w.setHlt (0x6100 + 4 * i) (packed map 4 8 i)
  let w := w.setHlt 0x6180 (x.inlet.toNat + x.outlet.toNat * 256)
  w.setHlt 0x600C (((Sparse.get hltReset w.obs.hlt 0x600C).toNat + 1) % 2 ^ 32)

/-- HEALTH_REFRESH (R416). -/
def execHealthRefresh (sensors : Sensors) (s : State) : Host.Outcome State Fault Refusal :=
  s.act fun w => w.if w.pwr.alive fun w => w.refresh sensors

/-- The 4 KiB of the health view (R416). -/
def W.healthView (w : W) : List Byte := (List.range 1024).flatMap fun i => leBytes 4 (w.readReg 0 (0x6000 + 4 * i))

/-- HEALTH_QUERY (R416). -/
def execHealthQuery (p : Pkt) (s : State) : Host.Outcome State Fault Refusal :=
  s.act fun w => w.intake opHealthQuery p fun c w =>
    (w.emit (.hostWrite c.fn (p.arg 16 8) w.healthView)).answer c .ok

end Sys2Proof.Machine
end

