-- ==== Sys2Proof/Machine/Registers.lean ====
section
/-! DEFINITION. Writes to BAR0 (R7, R8, R277): each register's own behaviour, or its writable bits. -/

namespace Sys2Proof.Machine

open Sys2Proof

/-- A write of VDT_RT_ADDR3: all four words of the entry at VDT_RT_IDX are committed (R309, R325). -/
def W.commitRank (w : W) (v : Nat) : W :=
  let i := w.regv 0 0x7020 % 16384
  let a := w.regv 0 0x7024 + w.regv 0 0x7028 * 2 ^ 32 + w.regv 0 0x702C * 2 ^ 64 + v % 2 ^ 32 * 2 ^ 96
  { w with vdt.ranks := Sparse.put (fun _ => 0#128) w.vdt.ranks i (BitVec.ofNat 128 a) }

/-- RANK_TABLE_COMMIT (R309, R325): PF only. -/
def execRankTableCommit (fn : Nat) (value : Word) (s : State) : Host.Outcome State Fault Refusal :=
  s.act fun w => w.if (w.busUp && fn == 0) fun w => w.commitRank value.toNat

/-- A write of RING_CFG (R253, R279): EN set enables, EN clear disables; the fields are taken while EN is 0. -/
def W.writeRingCfg (w : W) (fn r v : Nat) : W :=
  if bit v 31 then w.enableRing fn r v
  else if (w.ring fn r).en then w.disableRing fn r
  else w.writeBits fn (ringBase r + 16) v (ringMask 16)

/-- One 32-bit write to a function's BAR0 (R8): read-only and absent registers ignore it. -/
def W.regWrite (w : W) (fn off v : Nat) : W :=
  if off % 4 ≠ 0 then w
  else if 0x0400 ≤ off ∧ off < 0x0600 then
    let r := (off - 0x400) / 0x20
    if off % 0x20 = 16 then w.writeRingCfg fn r v
    else if (w.ring fn r).en then w
    else w.writeBits fn off v (regMask fn off)
  else if 0x1000 ≤ off ∧ off < 0x1100 then w.mailbox fn ((off - 0x1000) / 64) (off % 64) (leBytes 4 v)
  else if 0x2000 ≤ off ∧ off < 0x2400 ∧ off % 16 = 12 then
    (if bit v 0 then w.writeBits fn off 1 1 else w.unmask fn ((off - 0x2000) / 16))
  else if off = 0x40FC then w.writeFmtCtl fn v
  else if off = 0x550C then (if fn = 0 then w.writeLp v else w)
  else if off = 0x7030 then (if fn = 0 then w.commitRank v else w)
  else if off = 0x8008 then w.selectEvent fn (BitVec.ofNat 32 v)
  else if off = 0x800C then (if fn = 0 then w.clearEvents (bit v 0) (bit v 1) unitAbut else w)
  else if off = 0x8020 then w.writeTrcCfg fn v
  else w.writeBits fn off v (regMask fn off)

/-- REGISTER_WRITE (R8, R277). -/
def execRegisterWrite (fn off : Nat) (value : Word) (s : State) : Host.Outcome State Fault Refusal :=
  s.act fun w => w.if (w.busUp && decide (fn < 64) && decide (off < 65536)) fun w => w.regWrite fn off value.toNat

end Sys2Proof.Machine
end

