-- ==== Sys2Proof/Machine/Management.lean ====
section
/-! DEFINITION. The management network (R400 to R404): roles, and what each Redfish request does. A client that sends a
request has completed TLS with a certificate under an enrolled anchor; its number stands for the certificate. -/

namespace Sys2Proof.Machine

open Sys2Proof

/-- Role of a client (R402): by the role map; while the map is empty the only anchor is the one enrolled for an Administrator
(R401). -/
def W.roleOf (w : W) (client : Nat) : Role :=
  if w.fw.roles.isEmpty then .administrator
  else match w.fw.roles.find? fun q => q.1 == client with
    | some (_, r) => r
    | none => .none

/-- Is management up: the Abutment has power and is past B0 (R376)? -/
def W.mgmtUp (w : W) : Bool := w.pwr.alive && decide (1 ≤ w.pwr.phase)

/-- Answer a Redfish request. -/
def W.http (w : W) (code : Nat) (data : List Byte := []) : W := w.emit (.redfish code data)

/-- What the SMBus reads (R426): the FRU EEPROM of 8 KiB at 7-bit address 0x50, while the auxiliary input is there; nothing else answers,
and a write changes nothing. No row of the opcode table reads it (log entry 112). -/
def W.smbusRead (w : W) (addr offset : Nat) : Option Byte :=
  if addr = 0x50 ∧ offset < 8192 ∧ w.pwr.auxOk then some (Config.fruByte offset) else none

/-- A request that needs a role (R388, R393, R401, R402): 503 with Retry-After 1 during an activation window, 403 while no anchor is enrolled,
in recovery, or without the role. -/
def W.mgmt (w : W) (client : Nat) (need : Role) (f : W → W) : W :=
  if !w.mgmtUp then w
  else if w.fw.act = 2 then w.http 503 [1#8]
  else if w.fw.anchors.isEmpty || w.pwr.bootFailed || (w.roleOf client).level < need.level then w.http 403
  else f w

/-- MGMT_ENROL_ANCHOR (R401): accepted only while no anchor is enrolled. -/
def execMgmtEnrolAnchor (anchor : List Byte) (s : State) : Host.Outcome State Fault Refusal :=
  s.act fun w => w.if w.mgmtUp fun w =>
    if w.fw.act = 2 then w.http 503 [1#8]
    else if !w.fw.anchors.isEmpty || w.pwr.bootFailed then w.http 403
    else { w with fw.anchors := [anchor] }.http 200

/-- The retirement map (R333, R402): retired cores, channels, ports, crypto engines, PLLs and phases, one byte for each of
their numbers in these groups. -/
def W.retirementMap (w : W) : List Byte :=
  let flag (b : Bool) : Byte := if b then 1#8 else 0#8
  (List.range 144).map (fun c => flag ((w.phys c).state == .retired))
    ++ (List.range 256).map (fun c => flag ((w.chan c).state == .retired))
    ++ (List.range 9).map (fun p => flag ((w.port p).state == .retired))
    ++ (List.range 36).map (fun e => flag (w.integ.crypto.contains e))
    ++ (List.range 32).map (fun k => flag (w.integ.plls.contains k))
    ++ (List.range 56).map (fun k => flag (w.integ.phases.contains k))

/-- What a Reader may fetch (R402): 0 the health view with its sensors, 1 power and thermal readings, 2 the event ring, 3 the
flash log, 4 measurements, 5 the retirement map. -/
def W.readout (w : W) (what : Nat) : Option (List Byte) :=
  match what with
  | 0 => some w.healthView
  | 1 => some (leBytes 4 (w.readReg 0 0x5504) ++ leBytes 4 (w.readReg 0 0x5508))
  | 2 => some (w.obs.ring.flatMap EvRec.bytes)
  | 3 => some (w.obs.flash.flatMap EvRec.bytes)
  | 4 => some (w.measures.flatMap fun m => leBytes 1 m.1 ++ m.2)
  | 5 => some w.retirementMap
  | _ => none

/-- MGMT_READ (R402). -/
def execMgmtRead (client what : Nat) (s : State) : Host.Outcome State Fault Refusal :=
  s.act fun w => w.mgmt client .reader fun w =>
    match w.readout what with
    | some d => w.http 200 d
    | none => w.http 404

/-- Bytes of HBM at a physical address, as a debug read sees them: a page that waits for its scrub holds open bytes. -/
def W.physBytes (w : W) (a len : Nat) : List Byte × W :=
  let open_ := w.frame (a / pageBytes) == .scrubWait
  ((List.range len).map fun i => if open_ then Config.lostByte w.free (a + i) else Sparse.get memBlank w.mem (a + i),
   { w with free := w.free + 1 })

/-- What a debug read returns, and the span whose memory it reads (R403, R404): 0 a BAR0 register, 1 HBM by physical address, 2
HBM by span and device address, 3 a scratchpad slot, 4 a tile-map entry, 5 the event ring. -/
def W.debug (w : W) (what a b len : Nat) : Option (List Byte × Option Nat) × W :=
  match what with
  | 0 => (if a < 64 ∧ b < 65536 then some (leBytes 4 (w.readReg a b), none) else none, w)
  | 1 =>
    if 196608 * pageBytes < a + len ∨ a % pageBytes + len > pageBytes then (none, w)
    else
      let (d, w) := w.physBytes a len
      let n := match w.userOf (a / pageBytes) with
        | some (64, f) => (w.deck.images.find? fun i => i.frames.contains f).map (·.owner)
        | some (n, _) => some n
        | none => none
      (some (d, n), w)
  | 2 =>
    if 63 < a ∨ b % pageBytes + len > pageBytes then (none, w)
    else
      match w.locate a (w.currentBinds a) b with
      | .home pa _ => let (d, w) := w.physBytes pa len; (some (d, some a), w)
      | .deck _ _ pa => let (d, w) := w.physBytes pa len; (some (d, some a), w)
      | _ => (none, w)
  | 3 =>
    if 127 < a ∨ 2879 < b ∨ 4352 < len then (none, w)
    else
      let e := (w.core' a).tiles.find? fun e => e.slot == b
      let at_ (i : Nat) : Byte := match e with
        | some e => ((Tile.slice e.data i 1).head?).getD (Config.staleByte a b i)
        | none => Config.staleByte a b i
      (some ((List.range len).map at_, some (w.owner a)), w)
  | 4 =>
    if 127 < a then (none, w)
    else
      match (w.core' a).tiles.find? fun e => e.slot == b with
      | none => (some ([], some (w.owner a)), w)
      | some e =>
        (some (leBytes 6 e.addr ++ leBytes 1 (match e.state with | .fetching => 0 | .clean => 1 | .dirty => 2 | .writingBack => 3)
          ++ leBytes 1 (match e.pin with | .none => 0 | .stay => 1 | .hot => 2), some (w.owner a)), w)
  | 5 => (some (w.obs.ring.flatMap EvRec.bytes, none), w)
  | _ => (none, w)

/-- MGMT_DEBUG_READ (R403, R404): a read of span memory or scratchpad leaves a record with the span and the range. -/
def execMgmtDebugRead (client what a b len : Nat) (s : State) : Host.Outcome State Fault Refusal :=
  s.act fun w => w.mgmt client .operator fun w =>
    match w.debug what a b len with
    | (none, w) => w.http 404
    | (some (d, n), w) => (w.with n fun n w => w.event .debugRead n false unitMgmt none (.range what a b len)).http 200 d

/-- MGMT_MODULE_RESET (R380). -/
def execMgmtModuleReset (client : Nat) (s : State) : Host.Outcome State Fault Refusal :=
  s.act fun w => w.mgmt client .operator fun w =>
    let w := w.http 200
    if 2 ≤ w.pwr.phase then w.moduleReset w.pwr.auxOk 4 else w

/-- MGMT_LOADTEST_RUN (R402, R440). -/
def execMgmtLoadtestRun (client scope unit : Nat) (s : State) : Host.Outcome State Fault Refusal :=
  s.act fun w => w.mgmt client .operator fun w =>
    if !w.busUp || w.pwr.standby then w.http 409
    else
      match w.testTarget scope unit with
      | .error .retryLater => w.http 409
      | .error _ => w.http 400
      | .ok cs => (w.startTest none 4 scope unit cs).http 202

/-- MGMT_TRACE_CONFIG (R402, R413): TRC_BASE, TRC_PAGES and TRC_CFG of a span, under the rules of their registers. -/
def execMgmtTraceConfig (client span base pages : Nat) (value : Word) (s : State) : Host.Outcome State Fault Refusal :=
  s.act fun w => w.mgmt client .operator fun w =>
    if 63 < span then w.http 400
    else
      let w := w.writeBits span 0x8024 (base % 2 ^ 32) (regMask span 0x8024)
      let w := w.writeBits span 0x8028 (base / 2 ^ 32) (regMask span 0x8028)
      let w := w.writeBits span 0x802C pages (regMask span 0x802C)
      (w.writeTrcCfg span value.toNat).http 200

/-- MGMT_FW_UPLOAD (R392, R402): the one request that recovery accepts (R388). -/
def execMgmtFwUpload (client : Nat) (image : List Byte) (s : State) : Host.Outcome State Fault Refusal :=
  s.act fun w => w.if w.mgmtUp fun w =>
    if w.fw.act = 2 then w.http 503 [1#8]
    else if w.fw.anchors.isEmpty || (w.roleOf client).level < Role.administrator.level then w.http 403
    else if w.fw.stageCmd.isSome || w.activating then w.http 409
    else (w.startStage none image).http 202

/-- MGMT_FW_ACTIVATE (R393). -/
def execMgmtFwActivate (client : Nat) (s : State) : Host.Outcome State Fault Refusal :=
  s.act fun w => w.mgmt client .administrator fun w =>
    if w.activating then w.http 409
    else if !w.slotVerifies (!w.fw.runB) then w.http 400
    else (w.startActivation none).http 202

/-- MGMT_SVN_COMMIT (R391). -/
def execMgmtSvnCommit (client : Nat) (s : State) : Host.Outcome State Fault Refusal :=
  s.act fun w => w.mgmt client .administrator fun w => w.commitSvn.http 200

/-- MGMT_COSIGN_ENROL (R390): the key stands in fuses (R396), which are never cleared, so a second one is turned away. -/
def execMgmtCosignEnrol (client : Nat) (key : List Byte) (s : State) : Host.Outcome State Fault Refusal :=
  s.act fun w => w.mgmt client .administrator fun w =>
    if w.fw.cosign.isSome then w.http 409 else { w with fw.cosign := some key }.http 200

/-- A channel comes back (R333): its withdrawn pages first make good what the visible capacity lost, then fill the pool. -/
def W.returnChannel (w : W) (c : Nat) : W :=
  let fs := ((List.range 768).map (768 * c + ·)).filter fun f => w.frame f == .withdrawn
  let w := w.modChan c fun x => { x with state := .inService }
  w.each fs fun f w =>
    if 0 < w.hbm.withdrawn then { w with hbm.withdrawn := w.hbm.withdrawn - 1 }.setFrame f .scrubWait
    else (w.setFrame f .spare).modChan c fun x => { x with pool := x.pool + 1 }

/-- A core comes back (R333): to the lowest logical number of its cluster that has no core, else as a spare in standby. -/
def W.returnCore (w : W) (c : Nat) : W :=
  let cl := c / 9
  match ((List.range 8).map (8 * cl + ·)).find? fun l => (w.physOf l).isNone with
  | some l => (w.setPhysOf l (some c)).modPhys c fun p => { p with state := .active }
  | none => w.modPhys c fun p => { p with state := .spare }

/-- Return a retired part to service (R333); none where that part is not retired, or is repaired rather than retired. -/
def W.returnPart (w : W) (cls : BktClass) (i : Nat) : Option W :=
  match cls with
  | .core => if (w.phys i).state = .retired ∧ w.logOf i = none ∧ (w.cluster (i / 9)).dead = false then some (w.returnCore i) else none
  | .hbmChannel => if (w.chan i).state = .retired then some (w.returnChannel i) else none
  | .vdtPort => if (w.port i).state = .retired then some (w.modPort i fun p => { p with state := .training }) else none
  | .crypto => if w.integ.crypto.contains i then some { w with integ.crypto := w.integ.crypto.filter (· != i) } else none
  | .pll =>
    if w.integ.plls.contains i then
      let w := { w with integ.plls := w.integ.plls.filter (· != i) }
      some (w.modCluster (i / 2) fun c => if c.dead then { c with dead := false, pll := i % 2 } else c)
    else none
  | .powerPhase => if w.integ.phases.contains i then some { w with integ.phases := w.integ.phases.filter (· != i) } else none
  | _ => none

/-- MGMT_PART_RETURN (R333, R402): the part's bucket starts afresh. -/
def execMgmtPartReturn (client : Nat) (cls : BktClass) (inst : Nat) (s : State) : Host.Outcome State Fault Refusal :=
  s.act fun w => w.mgmt client .administrator fun w =>
    match (if inst < cls.instances then w.returnPart cls inst else none) with
    | none => w.http 400
    | some w =>
      { w with integ.buckets := Sparse.erase w.integ.buckets (cls.num * 2 ^ 28 + inst),
               integ.saved := Sparse.erase w.integ.saved (cls.num * 2 ^ 28 + inst) }.http 200

/-- MGMT_PACK_UPLOAD (R344, R402). -/
def execMgmtPackUpload (client : Nat) (pack : List Byte) (s : State) : Host.Outcome State Fault Refusal :=
  s.act fun w => w.mgmt client .administrator fun w =>
    match w.loadPack pack pack.length with
    | .error _ => w.http 400
    | .ok (_, w) => w.http 200

/-- MGMT_CREDENTIALS (R401, R402): new anchors and role map; the unenrolled state does not come back this way. -/
def execMgmtCredentials (client : Nat) (anchors : List (List Byte)) (roles : List (Nat × Role)) (s : State) :
    Host.Outcome State Fault Refusal :=
  s.act fun w => w.mgmt client .administrator fun w =>
    if anchors.isEmpty then w.http 400 else { w with fw.anchors := anchors, fw.roles := roles }.http 200

/-- MGMT_EVENT_CLEAR (R411). -/
def execMgmtEventClear (client : Nat) (ring flash : Bool) (s : State) : Host.Outcome State Fault Refusal :=
  s.act fun w => w.mgmt client .administrator fun w => (w.clearEvents ring flash unitMgmt).http 200

/-- MGMT_DISABLE_MCTP (R400). -/
def execMgmtDisableMctp (client : Nat) (disable : Bool) (s : State) : Host.Outcome State Fault Refusal :=
  s.act fun w => w.mgmt client .administrator fun w => { w with fw.mctpOff := disable }.http 200

/-- MGMT_DISABLE_WINDOW (R44): in force from the next module reset. -/
def execMgmtDisableWindow (client : Nat) (disable : Bool) (s : State) : Host.Outcome State Fault Refusal :=
  s.act fun w => w.mgmt client .operator fun w => { w with fw.windowOffNext := disable }.http 200

end Sys2Proof.Machine
end

