-- ==== Sys2Proof/Machine/Dispatch.lean ====
section
/-! DEFINITION. The dispatch: one arm per command, in the table's order. -/

namespace Sys2Proof.Machine

open Sys2Proof

/-- The effect of a command on everything but the queue. -/
def exec (i : Instr) (s : State) : Host.Outcome State Fault Refusal :=
  match i with
  | .nop p => Sys2Proof.Machine.execNop p s
  | .fence p => Sys2Proof.Machine.execFence p s
  | .fenceComplete fn ring => Sys2Proof.Machine.execFenceComplete fn ring s
  | .query p => Sys2Proof.Machine.execQuery p s
  | .spanCreate p => Sys2Proof.Machine.execSpanCreate p s
  | .spanResize p => Sys2Proof.Machine.execSpanResize p s
  | .spanFreeze p => Sys2Proof.Machine.execSpanFreeze p s
  | .spanThaw p => Sys2Proof.Machine.execSpanThaw p s
  | .freezeComplete span => Sys2Proof.Machine.execFreezeComplete span s
  | .spanSave p => Sys2Proof.Machine.execSpanSave p s
  | .spanRestore p => Sys2Proof.Machine.execSpanRestore p s
  | .spanDestroy p => Sys2Proof.Machine.execSpanDestroy p s
  | .spanQos p => Sys2Proof.Machine.execSpanQos p s
  | .map p => Sys2Proof.Machine.execMap p s
  | .unmap p => Sys2Proof.Machine.execUnmap p s
  | .unmapComplete cmd => Sys2Proof.Machine.execUnmapComplete cmd s
  | .prefetchPlan p => Sys2Proof.Machine.execPrefetchPlan p s
  | .pin p => Sys2Proof.Machine.execPin p s
  | .migrate p => Sys2Proof.Machine.execMigrate p s
  | .deckLoad p => Sys2Proof.Machine.execDeckLoad p s
  | .deckLoadComplete image stream => Sys2Proof.Machine.execDeckLoadComplete image stream s
  | .deckSwitch p => Sys2Proof.Machine.execDeckSwitch p s
  | .deckSwitchEffect span slot => Sys2Proof.Machine.execDeckSwitchEffect span slot s
  | .deckRetire p => Sys2Proof.Machine.execDeckRetire p s
  | .generationRelease span slot => Sys2Proof.Machine.execGenerationRelease span slot s
  | .deckTileRefetchDone image tile data => Sys2Proof.Machine.execDeckTileRefetchDone image tile data s
  | .adapterLoad p => Sys2Proof.Machine.execAdapterLoad p s
  | .adapterLoadComplete handle stream => Sys2Proof.Machine.execAdapterLoadComplete handle stream s
  | .adapterEvict p => Sys2Proof.Machine.execAdapterEvict p s
  | .adapterRemove handle => Sys2Proof.Machine.execAdapterRemove handle s
  | .adapterContract p => Sys2Proof.Machine.execAdapterContract p s
  | .adapterReloadDone handle stream => Sys2Proof.Machine.execAdapterReloadDone handle stream s
  | .graceExpiry span reqId => Sys2Proof.Machine.execGraceExpiry span reqId s
  | .programLoad p => Sys2Proof.Machine.execProgramLoad p s
  | .programUnload p => Sys2Proof.Machine.execProgramUnload p s
  | .stepSubmit p => Sys2Proof.Machine.execStepSubmit p s
  | .stepCancel p => Sys2Proof.Machine.execStepCancel p s
  | .tableCreate p => Sys2Proof.Machine.execTableCreate p s
  | .hotsetRefresh p => Sys2Proof.Machine.execHotsetRefresh p s
  | .rowMigrate p => Sys2Proof.Machine.execRowMigrate p s
  | .rowMigrateCopy span table => Sys2Proof.Machine.execRowMigrateCopy span table s
  | .rowMigrateRelease span table => Sys2Proof.Machine.execRowMigrateRelease span table s
  | .securePolicy p => Sys2Proof.Machine.execSecurePolicy p s
  | .secureNow p => Sys2Proof.Machine.execSecureNow p s
  | .restore p => Sys2Proof.Machine.execRestore p s
  | .rankAdopt p => Sys2Proof.Machine.execRankAdopt p s
  | .reshard p => Sys2Proof.Machine.execReshard p s
  | .loadtestPack p => Sys2Proof.Machine.execLoadtestPack p s
  | .loadtestRun p => Sys2Proof.Machine.execLoadtestRun p s
  | .katRun p => Sys2Proof.Machine.execKatRun p s
  | .healthQuery p => Sys2Proof.Machine.execHealthQuery p s
  | .keyInstall p => Sys2Proof.Machine.execKeyInstall p s
  | .keyRevoke p => Sys2Proof.Machine.execKeyRevoke p s
  | .keyZeroise slot => Sys2Proof.Machine.execKeyZeroise slot s
  | .attest p => Sys2Proof.Machine.execAttest p s
  | .fwStage p => Sys2Proof.Machine.execFwStage p s
  | .fwActivate p => Sys2Proof.Machine.execFwActivate p s
  | .fwActivateWindow => Sys2Proof.Machine.execFwActivateWindow s
  | .fwSwitch => Sys2Proof.Machine.execFwSwitch s
  | .fwActivateTimeout => Sys2Proof.Machine.execFwActivateTimeout s
  | .haltSpan m => Sys2Proof.Machine.execHaltSpan m s
  | .haltSpanResume m => Sys2Proof.Machine.execHaltSpanResume m s
  | .abortStep m => Sys2Proof.Machine.execAbortStep m s
  | .stopTraffic m => Sys2Proof.Machine.execStopTraffic m s
  | .stopTrafficResume m => Sys2Proof.Machine.execStopTrafficResume m s
  | .resetSpan m => Sys2Proof.Machine.execResetSpan m s
  | .functionLevelReset fn => Sys2Proof.Machine.execFunctionLevelReset fn s
  | .spanResetDrainEnd span => Sys2Proof.Machine.execSpanResetDrainEnd span s
  | .vfRemove numVfs enable => Sys2Proof.Machine.execVfRemove numVfs enable s
  | .sqTail fn ring value => Sys2Proof.Machine.execSqTail fn ring value s
  | .cqHead fn ring value => Sys2Proof.Machine.execCqHead fn ring value s
  | .ringEnable fn ring value => Sys2Proof.Machine.execRingEnable fn ring value s
  | .ringDisable fn ring => Sys2Proof.Machine.execRingDisable fn ring s
  | .ringDisabled fn ring => Sys2Proof.Machine.execRingDisabled fn ring s
  | .cntLoRead fn off => Sys2Proof.Machine.execCntLoRead fn off s
  | .cntFmtCtlWrite fn value => Sys2Proof.Machine.execCntFmtCtlWrite fn value s
  | .trcEvSel fn seq => Sys2Proof.Machine.execTrcEvSel fn seq s
  | .eventRecordLatched fn => Sys2Proof.Machine.execEventRecordLatched fn s
  | .trcEvClearRing fn => Sys2Proof.Machine.execTrcEvClearRing fn s
  | .trcEvClearFlash fn => Sys2Proof.Machine.execTrcEvClearFlash fn s
  | .traceEnable fn value => Sys2Proof.Machine.execTraceEnable fn value s
  | .traceDisable fn => Sys2Proof.Machine.execTraceDisable fn s
  | .rankTableCommit fn value => Sys2Proof.Machine.execRankTableCommit fn value s
  | .standbyRequest fn value => Sys2Proof.Machine.execStandbyRequest fn value s
  | .standbyEntry => Sys2Proof.Machine.execStandbyEntry s
  | .standbyExit => Sys2Proof.Machine.execStandbyExit s
  | .thermalStandbyExit hottest => Sys2Proof.Machine.execThermalStandbyExit hottest s
  | .registerWrite fn off value => Sys2Proof.Machine.execRegisterWrite fn off value s
  | .bar4Read fn off len => Sys2Proof.Machine.execBar4Read fn off len s
  | .bar4Write fn off data => Sys2Proof.Machine.execBar4Write fn off data s
  | .matmul at_ upsets => Sys2Proof.Machine.execMatmul at_ upsets s
  | .adapter at_ upsets => Sys2Proof.Machine.execAdapter at_ upsets s
  | .vector at_ => Sys2Proof.Machine.execVector at_ s
  | .gatherGemv at_ => Sys2Proof.Machine.execGatherGemv at_ s
  | .update at_ => Sys2Proof.Machine.execUpdate at_ s
  | .attnFwd at_ upsets => Sys2Proof.Machine.execAttnFwd at_ upsets s
  | .attnBwd at_ upsets => Sys2Proof.Machine.execAttnBwd at_ upsets s
  | .kvAppend at_ => Sys2Proof.Machine.execKvAppend at_ s
  | .embLookup at_ => Sys2Proof.Machine.execEmbLookup at_ s
  | .embGrad at_ => Sys2Proof.Machine.execEmbGrad at_ s
  | .put at_ => Sys2Proof.Machine.execPut at_ s
  | .get at_ => Sys2Proof.Machine.execGet at_ s
  | .rscat at_ => Sys2Proof.Machine.execRscat at_ s
  | .agath at_ => Sys2Proof.Machine.execAgath at_ s
  | .descriptorComplete at_ dseq => Sys2Proof.Machine.execDescriptorComplete at_ dseq s
  | .tileFetchComplete core addr gen outcome => Sys2Proof.Machine.execTileFetchComplete core addr gen outcome s
  | .prefetch step layer => Sys2Proof.Machine.execPrefetch step layer s
  | .pierBarrierRelease step pier tasks => Sys2Proof.Machine.execPierBarrierRelease step pier tasks s
  | .stepDeadlockTimeout step => Sys2Proof.Machine.execStepDeadlockTimeout step s
  | .runAheadStage span ring => Sys2Proof.Machine.execRunAheadStage span ring s
  | .stepAdmit span ring => Sys2Proof.Machine.execStepAdmit span ring s
  | .taskPlaceDeferred step task => Sys2Proof.Machine.execTaskPlaceDeferred step task s
  | .computePhaseEnd step => Sys2Proof.Machine.execComputePhaseEnd step s
  | .stepCommit step => Sys2Proof.Machine.execStepCommit step s
  | .clusterSleep cluster => Sys2Proof.Machine.execClusterSleep cluster s
  | .clusterWakeDone cluster => Sys2Proof.Machine.execClusterWakeDone cluster s
  | .dieSleep die => Sys2Proof.Machine.execDieSleep die s
  | .migrationSampleWindow occupancy span page => Sys2Proof.Machine.execMigrationSampleWindow occupancy span page s
  | .pageMigrationFlip span page => Sys2Proof.Machine.execPageMigrationFlip span page s
  | .oldHomeRelease span page => Sys2Proof.Machine.execOldHomeRelease span page s
  | .patrolScrub channel frame tile correctable => Sys2Proof.Machine.execPatrolScrub channel frame tile correctable s
  | .hbmRetrain channel low ends => Sys2Proof.Machine.execHbmRetrain channel low ends s
  | .pageScrubDone frame => Sys2Proof.Machine.execPageScrubDone frame s
  | .bucketLeak cls inst => Sys2Proof.Machine.execBucketLeak cls inst s
  | .bucketLevelSave => Sys2Proof.Machine.execBucketLevelSave s
  | .scratchpadParityError core site bank row => Sys2Proof.Machine.execScratchpadParityError core site bank row s
  | .controlParityError core => Sys2Proof.Machine.execControlParityError core s
  | .sharedStateError die iodie => Sys2Proof.Machine.execSharedStateError die iodie s
  | .dieResetDone die => Sys2Proof.Machine.execDieResetDone die s
  | .quarantineTest core => Sys2Proof.Machine.execQuarantineTest core s
  | .coreRetire core => Sys2Proof.Machine.execCoreRetire core s
  | .coreMove core => Sys2Proof.Machine.execCoreMove core s
  | .loadtestAuto cluster unit => Sys2Proof.Machine.execLoadtestAuto cluster unit s
  | .cryptoSelfTest engine pass => Sys2Proof.Machine.execCryptoSelfTest engine pass s
  | .pllLockLoss cluster fault => Sys2Proof.Machine.execPllLockLoss cluster fault s
  | .powerPhaseTrip phase shorted => Sys2Proof.Machine.execPowerPhaseTrip phase shorted s
  | .droopDetect cluster => Sys2Proof.Machine.execDroopDetect cluster s
  | .railExcursion rail die => Sys2Proof.Machine.execRailExcursion rail die s
  | .powerGovernorTick watts volts busiest hotDies overDies => Sys2Proof.Machine.execPowerGovernorTick watts volts busiest hotDies overDies s
  | .thermalTrip => Sys2Proof.Machine.execThermalTrip s
  | .thermalCooldown hottest => Sys2Proof.Machine.execThermalCooldown hottest s
  | .supplyValid main => Sys2Proof.Machine.execSupplyValid main s
  | .auxLoss => Sys2Proof.Machine.execAuxLoss s
  | .mainPowerFail => Sys2Proof.Machine.execMainPowerFail s
  | .overVoltageTrip => Sys2Proof.Machine.execOverVoltageTrip s
  | .mainReturn => Sys2Proof.Machine.execMainReturn s
  | .bootRomVerify => Sys2Proof.Machine.execBootRomVerify s
  | .diePowerUp => Sys2Proof.Machine.execDiePowerUp s
  | .trestleStart => Sys2Proof.Machine.execTrestleStart s
  | .stackTrainDone stack ok => Sys2Proof.Machine.execStackTrainDone stack ok s
  | .portJoin port => Sys2Proof.Machine.execPortJoin port s
  | .fullService => Sys2Proof.Machine.execFullService s
  | .perstAssert => Sys2Proof.Machine.execPerstAssert s
  | .perstRelease => Sys2Proof.Machine.execPerstRelease s
  | .pcieHotReset => Sys2Proof.Machine.execPcieHotReset s
  | .dataLinkDown => Sys2Proof.Machine.execDataLinkDown s
  | .intModTimer fn ring => Sys2Proof.Machine.execIntModTimer fn ring s
  | .putFrame f => Sys2Proof.Machine.execPutFrame f s
  | .getReq f => Sys2Proof.Machine.execGetReq f s
  | .getResp f => Sys2Proof.Machine.execGetResp f s
  | .rowRec f => Sys2Proof.Machine.execRowRec f s
  | .coll f => Sys2Proof.Machine.execColl f s
  | .parityDelta f row => Sys2Proof.Machine.execParityDelta f row s
  | .ack f info => Sys2Proof.Machine.execAck f info s
  | .nack f reason => Sys2Proof.Machine.execNack f reason s
  | .close f => Sys2Proof.Machine.execClose f s
  | .void f => Sys2Proof.Machine.execVoid f s
  | .accept f => Sys2Proof.Machine.execAccept f s
  | .epochClose span table => Sys2Proof.Machine.execEpochClose span table s
  | .epochApplyDone span table => Sys2Proof.Machine.execEpochApplyDone span table s
  | .lookupServe span table look => Sys2Proof.Machine.execLookupServe span table look s
  | .embBarrierTimeout span table => Sys2Proof.Machine.execEmbBarrierTimeout span table s
  | .dirUpdate f => Sys2Proof.Machine.execDirUpdate f s
  | .redirect f => Sys2Proof.Machine.execRedirect f s
  | .flowReset f => Sys2Proof.Machine.execFlowReset f s
  | .rankMoved f => Sys2Proof.Machine.execRankMoved f s
  | .retxTimer flow psn => Sys2Proof.Machine.execRetxTimer flow psn s
  | .ackTimer rank flow => Sys2Proof.Machine.execAckTimer rank flow s
  | .ccIncrease flow => Sys2Proof.Machine.execCcIncrease flow s
  | .flowUnreachable flow => Sys2Proof.Machine.execFlowUnreachable flow s
  | .flowIdleClose flow => Sys2Proof.Machine.execFlowIdleClose flow s
  | .portLinkLoss port attemptsFailed => Sys2Proof.Machine.execPortLinkLoss port attemptsFailed s
  | .portStatusUpdate status => Sys2Proof.Machine.execPortStatusUpdate status s
  | .secureCapture span pauseUs => Sys2Proof.Machine.execSecureCapture span pauseUs s
  | .secureSeal span => Sys2Proof.Machine.execSecureSeal span s
  | .drainWrite span consumed => Sys2Proof.Machine.execDrainWrite span consumed s
  | .healthRefresh sensors => Sys2Proof.Machine.execHealthRefresh sensors s
  | .eventFlush => Sys2Proof.Machine.execEventFlush s
  | .mgmtEnrolAnchor anchor => Sys2Proof.Machine.execMgmtEnrolAnchor anchor s
  | .mgmtRead client what => Sys2Proof.Machine.execMgmtRead client what s
  | .mgmtDebugRead client what a b len => Sys2Proof.Machine.execMgmtDebugRead client what a b len s
  | .mgmtModuleReset client => Sys2Proof.Machine.execMgmtModuleReset client s
  | .mgmtLoadtestRun client scope unit => Sys2Proof.Machine.execMgmtLoadtestRun client scope unit s
  | .mgmtTraceConfig client span base pages value => Sys2Proof.Machine.execMgmtTraceConfig client span base pages value s
  | .mgmtFwUpload client image => Sys2Proof.Machine.execMgmtFwUpload client image s
  | .mgmtFwActivate client => Sys2Proof.Machine.execMgmtFwActivate client s
  | .mgmtSvnCommit client => Sys2Proof.Machine.execMgmtSvnCommit client s
  | .mgmtCosignEnrol client key => Sys2Proof.Machine.execMgmtCosignEnrol client key s
  | .mgmtPartReturn client cls inst => Sys2Proof.Machine.execMgmtPartReturn client cls inst s
  | .mgmtPackUpload client pack => Sys2Proof.Machine.execMgmtPackUpload client pack s
  | .mgmtCredentials client anchors roles => Sys2Proof.Machine.execMgmtCredentials client anchors roles s
  | .mgmtEventClear client ring flash => Sys2Proof.Machine.execMgmtEventClear client ring flash s
  | .mgmtDisableMctp client disable => Sys2Proof.Machine.execMgmtDisableMctp client disable s
  | .mgmtDisableWindow client disable => Sys2Proof.Machine.execMgmtDisableWindow client disable s
  | .getVersion path request => Sys2Proof.Machine.execGetVersion path request s
  | .getCapabilities path request => Sys2Proof.Machine.execGetCapabilities path request s
  | .negotiateAlgorithms path request => Sys2Proof.Machine.execNegotiateAlgorithms path request s
  | .getDigests path request => Sys2Proof.Machine.execGetDigests path request s
  | .getCertificate path request => Sys2Proof.Machine.execGetCertificate path request s
  | .challenge path request => Sys2Proof.Machine.execChallenge path request s
  | .getMeasurements path request indices => Sys2Proof.Machine.execGetMeasurements path request indices s
  | .holdUpExpiry => Sys2Proof.Machine.execHoldUpExpiry s
  | .pcieLinkUp => Sys2Proof.Machine.execPcieLinkUp s
  | .vfEnable numVfs enable => Sys2Proof.Machine.execVfEnable numVfs enable s
  | .fwStageDone => Sys2Proof.Machine.execFwStageDone s
  | .loadtestRunDone results pllFault => Sys2Proof.Machine.execLoadtestRunDone results pllFault s
  | .spanSaveDone span => Sys2Proof.Machine.execSpanSaveDone span s
  | .spanRestoreDone span records => Sys2Proof.Machine.execSpanRestoreDone span records s
  | .restoreDone span records unreachable => Sys2Proof.Machine.execRestoreDone span records unreachable s
  | .segmentReconstruct f row => Sys2Proof.Machine.execSegmentReconstruct f row s
  | .adaptiveVoltageStep slower faster => Sys2Proof.Machine.execAdaptiveVoltageStep slower faster s
  | .mailboxWrite fn slot off data => Sys2Proof.Machine.execMailboxWrite fn slot off data s
  | .unknownOpcodePacket p opcode => Sys2Proof.Machine.execUnknownOpcodePacket p opcode s
  | .msixVectorUnmask fn vector => Sys2Proof.Machine.execMsixVectorUnmask fn vector s

end Sys2Proof.Machine
end

