-- ==== Sys2Proof/Safety.lean ====
section
/-! DEFINITION. The terms in which statements about the machine are made: when a packet's command starts, what a command
ends in, what has gone out, and which parts of the state stand as before. -/

namespace Sys2Proof.Machine

open Sys2Proof

/-- The command ends in a next state of which `P` holds. -/
def Ends (c : Instr) (s : State) (P : State → Prop) : Prop := ∃ t, exec c s = .next t ∧ P t

/-- The BN2 reads this packet next (R253, R254, R256, R265, R284), it is not refused on being read (R259), and its command is
not turned away by issuer, trestle mode, span state or missing block (R266, R270, R284, R260): the command starts. -/
def State.starts (s : State) (o : OpInfo) (p : Pkt) : Bool :=
  s.work.canRead p.fn p.ring && (s.work.badPacket o p).isNone && (s.work.turnedAway o p).isNone

/-- `o` has gone out on the way from `s` to `t`. -/
def Sent (s t : State) (o : Out) : Prop := ∃ l, t.dev.cmd.outbox = l ++ s.dev.cmd.outbox ∧ o ∈ l

/-- The next entry of a completion ring has been written with this reply: its address and its phase bit (R256, R261). -/
def Wrote (s t : State) (fn r : Nat) (x : Reply) : Prop :=
  Sent s t (.reply fn r (s.work.cqBase fn r + 32 * (s.work.ring fn r).cqTail) (s.work.ring fn r).cqPhase x)

/-- The packet's command has had its final reply, with the packet's TAG and SEQ (R261). -/
def Answered (s t : State) (p : Pkt) (st : Status) (d : Detail := .none) (r0 : Nat := 0) (r1 : Nat := 0) : Prop :=
  Wrote s t p.fn p.ring { tag := p.tag, seq := p.seq.toNat, status := st, detail := d, result0 := r0, result1 := r1 }

/-- The packet's command has had ST_ACCEPTED and goes on, in progress (R264). -/
def Accepted (s t : State) (o : OpInfo) (p : Pkt) : Prop :=
  Wrote s t p.fn p.ring { tag := p.tag, seq := p.seq.toNat, status := .accepted } ∧ s.work.cmdOf o p ∈ t.dev.cmd.cmds

/-- A reply has been given to a ring: written, or held while the completion ring is full (R256). -/
def Given (s t : State) (fn r : Nat) (x : Reply) : Prop :=
  (∃ a ph, Sent s t (.reply fn r a ph x)) ∨ ∃ now, (x, now) ∈ (t.work.ring fn r).held

/-- The command in progress with this number has ended with this reply (R261, R264): it is in progress no more, and its
ring, while enabled, has been given the reply with its TAG and SEQ. -/
def Finished (s t : State) (id : Nat) (st : Status) (d : Detail := .none) (r0 : Nat := 0) : Prop :=
  ∀ c, s.dev.cmd.cmds.find? (fun c => c.id == id) = some c → (∀ x ∈ t.dev.cmd.cmds, x.id ≠ id)
    ∧ ((s.work.ring c.fn c.ring).en = true →
        Given s t c.fn c.ring { tag := c.tag, seq := c.seq, status := st, detail := d, result0 := r0 })

/-- The same with ST_OK and the packet's own command. -/
def AnsweredOk (s t : State) (p : Pkt) (d : Detail := .none) : Prop :=
  Given s t p.fn p.ring { tag := p.tag, seq := p.seq.toNat, status := .ok, detail := d }

/-- The ring has moved on by this packet: its head and its expected sequence (R254, R259). -/
def Moved (s t : State) (p : Pkt) : Prop :=
  (t.work.ring p.fn p.ring).sqHead = ((s.work.ring p.fn p.ring).sqHead + 1) % s.work.entries p.fn p.ring
    ∧ (t.work.ring p.fn p.ring).nextSeq = ((s.work.ring p.fn p.ring).nextSeq + 1) % 2 ^ 24

/-- The opcode and the packet of a command that comes on a ring (R266); none of the others, nor of an unknown opcode. -/
def ringPacket : Instr → Option (OpInfo × Pkt)
  | .nop p => some (opNop, p)
  | .fence p => some (opFence, p)
  | .query p => some (opQuery, p)
  | .spanCreate p => some (opSpanCreate, p)
  | .spanResize p => some (opSpanResize, p)
  | .spanFreeze p => some (opSpanFreeze, p)
  | .spanThaw p => some (opSpanFreeze, { p with flags := p.flags ||| 0x100#16 })
  | .spanSave p => some (opSpanSave, p)
  | .spanRestore p => some (opSpanRestore, p)
  | .spanDestroy p => some (opSpanDestroy, p)
  | .spanQos p => some (opSpanQos, p)
  | .map p => some (opMap, p)
  | .unmap p => some (opUnmap, p)
  | .prefetchPlan p => some (opPrefetchPlan, p)
  | .pin p => some (opPin, p)
  | .migrate p => some (opMigrate, p)
  | .deckLoad p => some (opDeckLoad, p)
  | .deckSwitch p => some (opDeckSwitch, p)
  | .deckRetire p => some (opDeckRetire, p)
  | .adapterLoad p => some (opAdapterLoad, p)
  | .adapterEvict p => some (opAdapterEvict, p)
  | .adapterContract p => some (opAdapterContract, p)
  | .programLoad p => some (opProgramLoad, p)
  | .programUnload p => some (opProgramUnload, p)
  | .stepSubmit p => some (opStepSubmit, p)
  | .stepCancel p => some (opStepCancel, p)
  | .tableCreate p => some (opTableCreate, p)
  | .hotsetRefresh p => some (opHotsetRefresh, p)
  | .rowMigrate p => some (opRowMigrate, p)
  | .securePolicy p => some (opSecurePolicy, p)
  | .secureNow p => some (opSecureNow, p)
  | .restore p => some (opRestore, p)
  | .rankAdopt p => some (opRankAdopt, p)
  | .reshard p => some (opReshard, p)
  | .loadtestPack p => some (opLoadtestPack, p)
  | .loadtestRun p => some (opLoadtestRun, p)
  | .katRun p => some (opKatRun, p)
  | .healthQuery p => some (opHealthQuery, p)
  | .keyInstall p => some (opKeyInstall, p)
  | .keyRevoke p => some (opKeyRevoke, p)
  | .attest p => some (opAttest, p)
  | .fwStage p => some (opFwStage, p)
  | .fwActivate p => some (opFwActivate, p)
  | _ => none

/-- The context that a reference names. -/
def W.ctxAt (w : W) (r : CtxRef) : Option Ctx :=
  (w.stepOf r.step).bind fun x => (x.tasks.find? fun t => t.idx == r.task).bind fun t => t.ctxs[r.ctx]?

/-- The descriptor that an engine has run to its results is in flight, holding the entries of the tiles that it names, and its context
stands at the next one (R16, R17, R47). -/
def Issued (r : CtxRef) (e : Eng) (t : State) : Prop :=
  (∃ l, { e.fl with refs := e.fl.refs ++ l } ∈ t.dev.step.inflight) ∧ (t.work.ctxAt r).map (·.next) = (e.w.ctxAt r).map (·.next + 1)

/-- The descriptor that an engine has run is in flight on its core with a record of which `P` holds, nothing of it failed, and its
context stands at the next descriptor (R16, R17). -/
def Eng.runs (e : Eng) (r : CtxRef) (P : InFlight → Prop) (t : State) : Prop :=
  (∃ f ∈ t.dev.step.inflight, f.step = e.x.id ∧ f.task = e.task ∧ f.ctx = e.ctx ∧ f.dseq = e.dseq ∧ f.core = e.core ∧ f.fail = none ∧ P f)
    ∧ (t.work.ctxAt r).map (·.next) = some (e.dseq + 1)

/-! ### What a descriptor's operands have to be -/

/-- The tile that an engine sees at an address: one that it has taken in before, else one that is in a slot with a keystone that
holds and in no page that an UNMAP hides (R34, R35, R40, R46). -/
def Eng.sees (e : Eng) (va : Nat) : Option Tile :=
  match e.cap.find? fun c => c.1 == va with
  | some (_, t) => some t
  | none =>
    if isTileAddr va && e.w.hidden e.x (va / pageBytes) then none
    else
      match e.w.readAt e.x.span e.core e.x.binds va with
      | .data t _ _ => if t.keystoneOk then some t else none
      | _ => none

/-- The same as bytes. -/
def Eng.operand (e : Eng) (va : Nat) : Tile := (e.sees va).getD []

/-- The tile can be read as data: it is not poisoned either (R42). -/
def Eng.readable (e : Eng) (va : Nat) : Bool := (e.sees va).isSome && !(e.operand va).poison

/-- The tile stands as an operand of a format (R77, R83, R85): its code agrees, no spill tiles stand for it, it is not malformed. -/
def Eng.presents (e : Eng) (f : Fmt) (va : Nat) : Bool :=
  e.readable va && (e.operand va).format == f.code && !(f.girder && (e.operand va).overflow) && !(e.operand va).malformed f

/-- The step may write the tile (R34, R35, R61). -/
def Eng.writable (e : Eng) (va : Nat) : Bool :=
  !(isTileAddr va && e.w.hidden e.x (va / pageBytes)) && (e.w.writeFault e.x.span va).isNone

/-- Tiles of a stream of `n` elements (R139). -/
def streamTiles (f : Fmt) (base n : Nat) : List Nat := (List.range (ceilDiv n f.elems)).map (tileAfter base)

/-- The tile that a stream of `n` elements covers in part (R140). -/
def tailTiles (f : Fmt) (base n : Nat) : List Nat := if n % f.elems = 0 then [] else [tileAfter base (n / f.elems)]

/-- Every tile of an input stream stands as an operand; a stream that is not used has none. -/
def Eng.streams (e : Eng) (f : Option Fmt) (base n : Nat) : Prop := ∀ g, f = some g → ∀ va ∈ streamTiles g base n, e.presents g va = true

/-- Every tile of an output stream may be written, and the one that it covers in part is resident. -/
def Eng.takesStream (e : Eng) (f : Fmt) (base n : Nat) : Prop :=
  (∀ va ∈ streamTiles f base n, e.writable va = true) ∧ ∀ va ∈ tailTiles f base n, (e.sees va).isSome = true

/-- Tiles of a matrix in the layout of R114. -/
def matTiles (f : Fmt) (base stride rows cols : Nat) : List Nat :=
  (List.range (ceilDiv rows 64)).flatMap fun b => (List.range (ceilDiv cols f.rowElems)).map fun t => tileAfter base (b * stride + t)

/-- A matrix operand as it stands. -/
def Eng.matOf (e : Eng) (f : Fmt) (base stride rows cols : Nat) (zp : Int) : Mat :=
  Mat.ofViews f ((List.range (ceilDiv rows 64)).map fun b => (List.range (ceilDiv cols f.rowElems)).map fun t =>
    ⟨[(f, e.operand (tileAfter base (b * stride + t)))], false⟩) rows cols zp

/-- The operands of a matrix descriptor stand, its output may be written, and the compute check of every output block agrees, or the
integer path serves the block (R110, R119, R123). -/
def Eng.multiplies (e : Eng) (d : MatDesc) : Prop :=
  let ma := e.matOf d.fa d.addrA d.strideA d.m d.k d.zpa
  let mw := e.matOf d.fw d.addrW d.strideW d.n d.k d.zpw
  (∀ va ∈ matTiles d.fa d.addrA d.strideA d.m d.k, e.presents d.fa va = true)
    ∧ (∀ va ∈ matTiles d.fw d.addrW d.strideW d.n d.k, e.presents d.fw va = true)
    ∧ (d.acc = true → ∀ va ∈ d.tilesC, e.presents d.fc va = true)
    ∧ (∀ va ∈ d.tilesC, e.writable va = true)
    ∧ ∀ b ∈ blocksOf d.m d.n,
        intBlock ma mw d.zpwEn b = true ∨ (checkBlock ma mw d.zpwEn b (blockAcc ma mw d.zpwEn b)).2 = false

/-- The segment entries of an ADAPTER descriptor (R128). -/
def Eng.segments (e : Eng) (d : MatDesc) : List Segment' :=
  let ts := (List.range (ceilDiv d.segs 256)).map fun j => e.operand (tileAfter d.addrSeg j)
  (List.range d.segs).map fun i => Segment'.of (payBytes ts (16 * i) 16)

/-- The segment entries in the first tile of a deferral list, up to the one with ROWS = 0; none where the tile has no such entry. -/
def Eng.deferrals (e : Eng) (base : Nat) : Option (List Segment') :=
  let es := (List.range 256).map fun j => Segment'.of ((e.operand (tileAfter base 0)).slice (16 * j) 16)
  if es.any fun s => s.rows == 0 then some (es.takeWhile fun s => s.rows != 0) else none

/-- Query positions of an attention descriptor (R156, R163). -/
def Eng.qpos (e : Eng) (d : AttnDesc) : List Nat :=
  if d.mask % 8 = 0 then List.replicate d.m 0
  else
    let base := (e.operand d.p).num 6 6
    (List.range d.m).map fun i => payNum ((List.range (ceilDiv d.m 1024)).map fun j => e.operand (tileAfter base j)) (4 * i) 4

/-- Every page of a list that an attention descriptor visits has an entry as R164 and R169 ask, and positions alone mask all its keys:
it is skipped. -/
def Eng.skipsPages (e : Eng) (d : AttnDesc) (base : Nat) (skip : Bool) : Prop :=
  let count := (e.operand (tileAfter base 0)).num 0 8
  e.readable (tileAfter base 0) = true ∧ count ≤ 16384 ∧ d.first + d.count ≤ count
    ∧ ∀ k < d.count,
        let n := d.first + k
        let en := (e.operand (tileAfter base ((4 + n) / 512))).num ((4 + n) % 512 * 8) 8
        e.readable (tileAfter base ((4 + n) / 512)) = true ∧ bits en 62 55 = 0
          ∧ (en % 2 ^ 48 = 0 ∨ (1 ≤ bits en 54 48 ∧ bits en 54 48 ≤ 64 ∧ (bits en 54 48 = 64 ∨ n + 1 = count)))
          ∧ (skip = true → d.skips (e.qpos d) n (if en % 2 ^ 48 = 0 then 64 else bits en 54 48) = true)

/-- What an attention descriptor reads before any page stands: its parameter record with reserved bytes of zero, its query positions
where a mask needs them, and its queries (R156, R162, R163). -/
def Eng.attends (e : Eng) (d : AttnDesc) : Prop :=
  e.readable d.p = true ∧ resvZero [(0, 44)] ((e.operand d.p).slice 0 64) = true
    ∧ (d.mask % 8 ≠ 0 → ∀ j < ceilDiv d.m 1024, e.readable (tileAfter ((e.operand d.p).num 6 6) j) = true)
    ∧ ∀ va ∈ matTiles d.fq d.q (ceilDiv d.dim d.fq.rowElems) (d.heads * d.m) d.dim, e.presents d.fq va = true

/-- Row ids of an embedding descriptor without POOL, with their positions, pads left out (R182, R183). -/
def Eng.rowIds (e : Eng) : List (Nat × Nat) :=
  let nidx := rd e.desc 40 4
  let ts := (List.range (ceilDiv (8 * nidx) 4096)).map fun j => e.operand (tileAfter (rd e.desc 16 6) j)
  ((List.range nidx).map fun i => payNum ts (8 * i) 8).zipIdx.filter fun q => q.1 != padId

/-- The streams of an embedding descriptor without POOL stand: its row ids, and its weights, which are FP32, where WEIGHTED is set (R66,
R182). -/
def Eng.embeds (e : Eng) : Prop :=
  bit (rd e.desc 1 1) 5 = false
    ∧ (∀ j < ceilDiv (8 * rd e.desc 40 4) 4096, e.readable (tileAfter (rd e.desc 16 6) j) = true)
    ∧ (bit (rd e.desc 1 1) 6 = true → e.streams (some .fp32) (rd e.desc 28 6) (rd e.desc 40 4))

/-- The epoch that a step's look-ups and records of a table carry, and whether it updates the table (R187). -/
def Eng.epochOf (e : Eng) (t : Table) : Nat × Bool :=
  match e.x.tickets.find? fun k => k.table == t.id with
  | some k => (k.epoch, k.update)
  | none => (t.ticket, false)

/-- A Viaduct descriptor's packets go in plaintext, or under a key that the span may use (R296, R316). -/
def Eng.keyOk (e : Eng) : Prop := bit (rd e.desc 1 1) 6 = false ∨ e.w.keyUsable e.x.span (rd e.desc 14 2) = true

/-- The ranks of a collective's list (R318). -/
def Eng.ranks (e : Eng) : List Nat :=
  let n := rd e.desc 32 2
  let ts := (List.range (ceilDiv (2 * n) 4096)).map fun j => e.operand (tileAfter (rd e.desc 22 6) j)
  (List.range n).map fun i => payNum ts (2 * i) 2

/-- A frame is taken as it arrives: it comes in at a port that is up, its checks are good, the block is out of standby or the frame is a
control one, and it is for this rank (R307, R309). -/
def State.takes (s : State) (a : Arrival) : Bool :=
  decide (a.port < 9) && (s.work.port a.port).state == .up && (!s.dev.pwr.standby || a.ctrl) && a.check == .good
    && s.work.rank == some a.dstRank

/-- A frame takes effect when it arrives now: it is taken, it is the next of its flow with none held behind it (R312), and, where a key or a
group is asked for, the key is held and the span takes it (R317, R321). -/
def State.due (s : State) (a : Arrival) : Bool :=
  s.takes a && (s.work.rx a.toFrame).next == a.psn && (s.work.rx a.toFrame).held.isEmpty
    && (a.ty == tyRankMoved || a.ty == tyFlowReset || (s.work.keyHeld a.toFrame && s.work.spanTakes a.toFrame))

/-- The message that a frame ends: what has come of it in parts before, and its own payload (log entry 22). -/
def State.message (s : State) (a : Arrival) : List Byte := (s.work.rx a.toFrame).part ++ a.payload

/-- The parapet mailbox slot of a function can be written: BAR0 answers, and the function is the PF or an existing VF (R271). -/
def State.slotOpen (s : State) (fn slot : Nat) : Bool :=
  s.work.busUp && (fn == 0 || (decide (fn < 64) && s.work.vfExists fn)) && decide (slot < 4)

/-- A mailbox write makes this packet a command that acts now (R271, R272): its slot is free, it is well formed, its span exists and
is one that the function may name, neither standby nor an activation window is on (R384, R393), and no other command waits for their
end. -/
def State.parapet (s : State) (m : MboxCmd) (b : List Byte) : Bool :=
  s.slotOpen m.fn m.slot && (s.work.mbox m.fn m.slot).busy.isNone && (s.work.mbox m.fn m.slot).bytes.length == 64
    && parapetOk b && (m.fn == 0 || m.span.toNat == m.fn) && decide (m.span.toNat ≤ 63)
    && (s.work.sp m.span.toNat).mode != .absent && !s.dev.pwr.standby && s.dev.fw.act != 2
    && s.dev.cmd.parJobs.all fun j => j.later.isEmpty && decide (j.id < s.dev.cmd.nextId)

/-- A Redfish request with this role is served (R388, R393, R401, R402). -/
def State.allows (s : State) (client : Nat) (need : Role) : Bool :=
  s.work.mgmtUp && s.dev.fw.act != 2 && !s.dev.fw.anchors.isEmpty && !s.dev.pwr.bootFailed
    && decide (need.level ≤ (s.work.roleOf client).level)

/-- A byte of HBM as it reads. -/
def State.byte (s : State) (a : Nat) : Byte := Sparse.get memBlank s.mem a

/-- The parts of the state, for frames. The count of free values drawn is the model's own and is no part. -/
inductive Part where
  | cmd | span | hbm | core | step | deck | tables | vdt | integ | sec | pwr | fw | obs | regs | memory | fuses
deriving DecidableEq, Repr

/-- A part stands as before; memory is compared byte by byte. -/
def Part.same : Part → State → State → Prop
  | .cmd, s, t => t.dev.cmd = s.dev.cmd
  | .span, s, t => t.dev.span = s.dev.span
  | .hbm, s, t => t.dev.hbm = s.dev.hbm
  | .core, s, t => t.dev.core = s.dev.core
  | .step, s, t => t.dev.step = s.dev.step
  | .deck, s, t => t.dev.deck = s.dev.deck
  | .tables, s, t => t.dev.tables = s.dev.tables
  | .vdt, s, t => t.dev.vdt = s.dev.vdt
  | .integ, s, t => t.dev.integ = s.dev.integ
  | .sec, s, t => t.dev.sec = s.dev.sec
  | .pwr, s, t => t.dev.pwr = s.dev.pwr
  | .fw, s, t => t.dev.fw = s.dev.fw
  | .obs, s, t => t.dev.obs = s.dev.obs
  | .regs, s, t => t.dev.regs = s.dev.regs
  | .memory, s, t => ∀ a, t.byte a = s.byte a
  | .fuses, s, t => t.fuses = s.fuses

/-- Whatever next state the command ends in: of the state only the listed parts can differ, and the queue does not. -/
def Keeps (parts : List Part) (c : Instr) (s : State) : Prop :=
  ∀ t, exec c s = .next t → t.pending = s.pending ∧ ∀ p, p ∉ parts → p.same s t

/-- The memory is in its canonical form. -/
def State.MemWf (s : State) : Prop := Memory.wf s.mem = true

end Sys2Proof.Machine
end

