-- ==== Sys2Proof/Certificates/Slice0/Obligations.lean ====
section
/-! DEFINITION. The statements about the machine. -/

open Sys2Proof Sys2Proof.Machine

/-- For every command c, every queue q and every state s: a step of s with c in front of q is exec of c on s with the
queue q. Where no command waits, the step answers the same state. Queue and idling are the model's own (log entry 1). -/
def Obligations.StepRunsFrontCommandOrIdles : Prop :=
  (∀ (c : Instr) (q : List Instr) (s : State), step { s with pending := c :: q } = exec c { s with pending := q })
    ∧ ∀ s : State, s.pending = [] → step s = .next s

/-- For every command c and every state s, exec of c at s answers a next state t: no command faults and none is refused.
The queue of t is that of s, no blown fuse is unblown, and where at most 63 of the fuses were blown at most 63 are. -/
def Obligations.EveryCommandCompletes : Prop :=
  ∀ (c : Instr) (s : State), ∃ t, exec c s = .next t ∧ t.pending = s.pending ∧ s.fuses ≤ t.fuses
    ∧ (s.fuses ≤ 63 → t.fuses ≤ 63)

/-- For every state s whose memory is in canonical form (addresses strictly rising, no entry equal to the byte that a
scrubbed page holds there): if a step of s answers a next state, that state's memory is in canonical form. -/
def Obligations.StepKeepsMemoryCanonical : Prop :=
  ∀ s t : State, s.MemWf → step s = .next t → t.MemWf

/-- After reset nothing of HBM is listed, so its memory is in canonical form and every byte reads as a scrub leaves it:
zero tiles and zero padding (log entry 29 names that choice). ID_STATE shows phase B3 with TRESTLE set and no stack
joined; every ring is disabled with next sequence 0, head 0 and completion PHASE 1; span 0 is ACTIVE and every other
span is ABSENT; no command is in progress, no interrupt is pending, no step is read and no program is loaded. -/
def Obligations.ResetStateIsAsTheSpecAndTheLogSay : Prop :=
  (State.reset.MemWf ∧ ∀ a, State.reset.byte a = memBlank a)
    ∧ State.reset.work.readReg 0 0x18 = 0x0B
    ∧ (∀ fn r, (State.reset.work.ring fn r).en = false ∧ (State.reset.work.ring fn r).nextSeq = 0
        ∧ (State.reset.work.ring fn r).sqHead = 0 ∧ (State.reset.work.ring fn r).cqPhase = true)
    ∧ (State.reset.work.sp 0).mode = .active ∧ (∀ n, n ≠ 0 → (State.reset.work.sp n).mode = .absent)
    ∧ State.reset.dev.cmd.cmds = [] ∧ State.reset.dev.cmd.pba = [] ∧ State.reset.dev.step.steps = []
    ∧ State.reset.dev.step.programs = []

/-- For every command that comes on a ring, when the BN2 reads its packet: a SPAN other than the ring's gives
ST_REFUSED_PERMISSION; else a SEQ other than the ring's expected one gives ST_REFUSED_FORMAT with the expected value
in DETAIL; else a resv field that is not zero gives ST_REFUSED_FORMAT. The head moves past the packet, the expected
sequence stays, and spans, pages, steps, decks, tables, keys and memory stand as before. A packet with the right SPAN
and SEQ whose opcode is unknown or not accepted on rings gets ST_REFUSED_FORMAT likewise. -/
def Obligations.BadPacketsAreRefusedInOrder : Prop :=
  (∀ (c : Instr) (o : OpInfo) (p : Pkt) (s : State) (st : Status) (d : Detail),
    ringPacket c = some (o, p) → s.work.canRead p.fn p.ring = true →
    ((p.span.toNat ≠ p.fn ∧ st = .refusedPermission ∧ d = .none)
      ∨ (p.span.toNat = p.fn ∧ p.seq.toNat ≠ (s.work.ring p.fn p.ring).nextSeq ∧ st = .refusedFormat
          ∧ d = .expectSeq (s.work.ring p.fn p.ring).nextSeq)
      ∨ (p.span.toNat = p.fn ∧ p.seq.toNat = (s.work.ring p.fn p.ring).nextSeq ∧ o.resvOk p = false
          ∧ st = .refusedFormat ∧ d = .none)) →
    Ends c s fun t => Answered s t p st d
      ∧ (t.work.ring p.fn p.ring).sqHead = ((s.work.ring p.fn p.ring).sqHead + 1) % s.work.entries p.fn p.ring
      ∧ (t.work.ring p.fn p.ring).nextSeq = (s.work.ring p.fn p.ring).nextSeq
      ∧ ∀ q, q ≠ Part.cmd → q.same s t)
    ∧ ∀ (p : Pkt) (op : BitVec 16) (s : State), s.work.canRead p.fn p.ring = true → p.span.toNat = p.fn →
        p.seq.toNat = (s.work.ring p.fn p.ring).nextSeq → ringOpcode op.toNat = none →
        Ends (.unknownOpcodePacket p op) s fun t => Answered s t p .refusedFormat
          ∧ (t.work.ring p.fn p.ring).sqHead = ((s.work.ring p.fn p.ring).sqHead + 1) % s.work.entries p.fn p.ring
          ∧ (t.work.ring p.fn p.ring).nextSeq = (s.work.ring p.fn p.ring).nextSeq
          ∧ ∀ q, q ≠ Part.cmd → q.same s t

/-- For every command that comes on a ring with a good packet: a command of the PF on the ring of a VF gets
ST_REFUSED_PERMISSION; else one that trestle mode does not take gets ST_TRESTLE_LIMIT in it; else one that a span
takes only while ACTIVE gets ST_RETRY_LATER in another state; else one that needs a parameter block and has none gets
ST_REFUSED_FORMAT. The ring moves on, and nothing but the command interface changes. The order among the four is the
model's choice (log entry 10). -/
def Obligations.CommandsAreTurnedAwayByIssuerModeAndState : Prop :=
  ∀ (c : Instr) (o : OpInfo) (p : Pkt) (s : State) (st : Status),
    ringPacket c = some (o, p) → s.work.canRead p.fn p.ring = true → s.work.badPacket o p = none →
    ((o.pf = true ∧ p.fn ≠ 0 ∧ st = .refusedPermission)
      ∨ (¬ (o.pf = true ∧ p.fn ≠ 0) ∧ s.dev.pwr.trestle = true ∧ o.trestle = false ∧ st = .trestleLimit)
      ∨ (¬ (o.pf = true ∧ p.fn ≠ 0) ∧ ¬ (s.dev.pwr.trestle = true ∧ o.trestle = false)
          ∧ (s.work.sp p.fn).mode ≠ .active ∧ o.frozen = false ∧ st = .retryLater)
      ∨ (¬ (o.pf = true ∧ p.fn ≠ 0) ∧ ¬ (s.dev.pwr.trestle = true ∧ o.trestle = false)
          ∧ ((s.work.sp p.fn).mode = .active ∨ o.frozen = true) ∧ o.pblk = true ∧ p.pblk = false ∧ st = .refusedFormat)) →
    Ends c s fun t => Answered s t p st ∧ Moved s t p ∧ ∀ q, q ≠ Part.cmd → q.same s t

/-- A NOP that starts replies ST_OK. A QUERY of ITEM 3 replies with the span's number of programs and its largest core
reservation, ITEM 4 with its resident adapters and its open requests, and an ITEM above 5 gets ST_REFUSED_FORMAT. A
FENCE replies ST_OK when no command that its span's rings gave earlier is in progress or has its final reply held, and
else its ring waits for it, where a step that has committed or failed is in progress no more. FENCE_COMPLETE ends the
wait of a ring whose earlier commands have all ended with their replies written, and the FENCE replies ST_OK. -/
def Obligations.NopQueryAndFenceReply : Prop :=
  (∀ (p : Pkt) (s : State), s.starts opNop p = true → Ends (.nop p) s fun t => Answered s t p .ok ∧ Moved s t p)
    ∧ (∀ (p : Pkt) (s : State), s.starts opQuery p = true → p.arg 12 1 = 3 →
        Ends (.query p) s fun t => Moved s t p
          ∧ Answered s t p .ok .none (s.work.programsOf p.fn).length (s.work.reservedCores p.fn))
    ∧ (∀ (p : Pkt) (s : State), s.starts opQuery p = true → p.arg 12 1 = 4 →
        Ends (.query p) s fun t => Moved s t p
          ∧ Answered s t p .ok .none (s.dev.deck.adapters.filter fun a => a.span == p.fn && a.loading.isNone).length
              (s.dev.deck.requests.filter fun r => r.span == p.fn).length)
    ∧ (∀ (p : Pkt) (s : State), s.starts opQuery p = true → 5 < p.arg 12 1 →
        Ends (.query p) s fun t => Moved s t p ∧ Answered s t p .refusedFormat)
    ∧ (∀ (p : Pkt) (s : State), s.starts opFence p = true →
        (∀ c ∈ s.dev.cmd.cmds, c.fn = p.fn → s.dev.cmd.nextId ≤ c.id ∨ ∃ x ∈ s.dev.step.steps, x.cmd = c.id ∧ x.phase = .ended) →
        (∀ r < 16, ∀ h ∈ (s.work.ring p.fn r).held, ∀ i, h.2.2 = some i → s.dev.cmd.nextId ≤ i) →
        Ends (.fence p) s fun t => Answered s t p .ok ∧ Moved s t p)
    ∧ (∀ (p : Pkt) (s : State), s.starts opFence p = true →
        ((∃ c ∈ s.dev.cmd.cmds, c.fn = p.fn ∧ c.id < s.dev.cmd.nextId ∧ ∀ x ∈ s.dev.step.steps, x.cmd = c.id → x.phase ≠ .ended)
          ∨ ∃ r < 16, ∃ h ∈ (s.work.ring p.fn r).held, ∃ i < s.dev.cmd.nextId, h.2.2 = some i) →
        Ends (.fence p) s fun t => (t.work.ring p.fn p.ring).fence = some s.dev.cmd.nextId ∧ Moved s t p
          ∧ s.work.cmdOf opFence p ∈ t.dev.cmd.cmds)
    ∧ ∀ (fn r id : Nat) (s : State), (s.work.ring fn r).fence = some id →
        (∀ c ∈ s.dev.cmd.cmds, c.fn = fn → id ≤ c.id ∨ ∃ x ∈ s.dev.step.steps, x.cmd = c.id ∧ x.phase = .ended) →
        (∀ q < 16, ∀ h ∈ (s.work.ring fn q).held, ∀ i, h.2.2 = some i → id ≤ i) →
        Ends (.fenceComplete fn r) s fun t => (t.work.ring fn r).fence = none ∧ Finished s t id .ok

/-- While BAR0 answers: SQ_TAIL with an index below the entry count of an enabled ring sets the tail; CQ_HEAD with such an
index returns the completion entries before it, when no reply is held. A doorbell whose index is not below the entry
count changes the ring in nothing but BADBELL, which counts it and stays at 63. Setting EN of a ring whose EN is
clear, with a SIZE_LOG2 of 6 to 16 and a vector that its span has, sets both and starts the ring: heads, tails and
next sequence 0, PHASE 1, 2^SIZE_LOG2 entries. Clearing EN of an enabled ring makes it STOPPING. A STOPPING ring
without commands in progress or held replies becomes DISABLED. -/
def Obligations.RingsAreEnabledRungAndDisabled : Prop :=
  (∀ (fn r : Nat) (v : Word) (s : State), s.work.busUp = true → fn < 64 → r < 16 → (s.work.ring fn r).en = true →
      v.toNat % 65536 < s.work.entries fn r →
      Ends (.sqTail fn r v) s fun t => t.work.ring fn r = { s.work.ring fn r with sqTail := v.toNat % 65536 })
    ∧ (∀ (fn r : Nat) (v : Word) (s : State), s.work.busUp = true → fn < 64 → r < 16 → (s.work.ring fn r).en = true →
        (s.work.ring fn r).held = [] → v.toNat % 65536 < s.work.entries fn r →
        Ends (.cqHead fn r v) s fun t =>
          t.work.ring fn r =
            { s.work.ring fn r with
                cqHead := v.toNat % 65536,
                cqUsed := (s.work.ring fn r).cqUsed
                  - (v.toNat % 65536 + s.work.entries fn r - (s.work.ring fn r).cqHead) % s.work.entries fn r })
    ∧ (∀ (fn r : Nat) (v : Word) (s : State), s.work.busUp = true → fn < 64 → r < 16 →
        s.work.entries fn r ≤ v.toNat % 65536 →
        Ends (.sqTail fn r v) s (fun t =>
            t.work.ring fn r = { s.work.ring fn r with badBell := min 63 ((s.work.ring fn r).badBell + 1) })
          ∧ Ends (.cqHead fn r v) s (fun t =>
            t.work.ring fn r = { s.work.ring fn r with badBell := min 63 ((s.work.ring fn r).badBell + 1) }))
    ∧ (∀ (fn r : Nat) (v : Word) (s : State), s.work.busUp = true → fn < 64 → r < 16 → (s.work.ring fn r).en = false →
      6 ≤ v.toNat % 32 → v.toNat % 32 ≤ 16 → (s.work.sp fn).mode ≠ .absent →
      bits v.toNat 21 16 < (s.work.sp fn).vectors →
      Ends (.ringEnable fn r v) s fun t => (t.work.ring fn r).en = true ∧ (t.work.ring fn r).sqHead = 0
        ∧ (t.work.ring fn r).sqTail = 0 ∧ (t.work.ring fn r).cqTail = 0 ∧ (t.work.ring fn r).cqHead = 0 ∧ (t.work.ring fn r).nextSeq = 0
        ∧ (t.work.ring fn r).cqPhase = true ∧ t.work.entries fn r = 2 ^ (v.toNat % 32)
        ∧ t.work.ringVector fn r = bits v.toNat 21 16)
    ∧ (∀ (fn r : Nat) (s : State), s.work.busUp = true → (s.work.ring fn r).en = true →
        Ends (.ringDisable fn r) s fun t =>
          t.work.ring fn r = { s.work.ring fn r with en := false, stopping := true })
    ∧ ∀ (fn r : Nat) (s : State), (s.work.ring fn r).stopping = true → (s.work.ring fn r).held = [] →
        (∀ c ∈ s.dev.cmd.cmds, ¬ (c.fn = fn ∧ c.ring = r)) →
        Ends (.ringDisabled fn r) s fun t => t.work.ring fn r = { s.work.ring fn r with stopping := false }

/-- When TIME has passed on a ring with unsignalled replies, whose vector its span has, they are signalled: none is left,
and the vector goes out, or, masked, sets its pending bit. Clearing a vector's mask sends the interrupt that is
pending on it, where the span has the vector, and clears the pending bit; with none pending nothing goes out. -/
def Obligations.InterruptsFollowTimerAndMask : Prop :=
  (∀ (fn r : Nat) (s : State), 0 < (s.work.ring fn r).unsig → 0 < bits (s.work.regv fn (0x2800 + 4 * r)) 31 16 →
      s.work.ringVector fn r < (s.work.sp fn).vectors → s.work.ringVector fn r < 64 →
      Ends (.intModTimer fn r) s fun t => (t.work.ring fn r).unsig = 0
        ∧ (bit (s.work.regv fn (0x2000 + 16 * s.work.ringVector fn r + 12)) 0 = false →
            Sent s t (.irq fn (s.work.ringVector fn r)))
        ∧ (bit (s.work.regv fn (0x2000 + 16 * s.work.ringVector fn r + 12)) 0 = true →
            64 * fn + s.work.ringVector fn r ∈ t.dev.cmd.pba ∧ t.dev.cmd.outbox = s.dev.cmd.outbox))
    ∧ (∀ (fn v : Nat) (s : State), s.work.busUp = true → fn < 64 → v < 64 → 64 * fn + v ∈ s.dev.cmd.pba →
        v < (s.work.sp fn).vectors →
        Ends (.msixVectorUnmask fn v) s fun t => bit (t.work.regv fn (0x2000 + 16 * v + 12)) 0 = false
          ∧ 64 * fn + v ∉ t.dev.cmd.pba ∧ Sent s t (.irq fn v))
    ∧ ∀ (fn v : Nat) (s : State), s.work.busUp = true → fn < 64 → v < 64 → 64 * fn + v ∉ s.dev.cmd.pba →
        Ends (.msixVectorUnmask fn v) s fun t => bit (t.work.regv fn (0x2000 + 16 * v + 12)) 0 = false
          ∧ t.dev.cmd.outbox = s.dev.cmd.outbox

/-- When SPAN_CREATE starts and its record passes the checks of R286, the span is ACTIVE with the record's key slots,
vectors, page quota, slots a core, weights and seed, and a drain budget of 20 ms where DRAIN is 0 (a page quota below
the pages charged to the span waits, and the old one stands); SPAN_RESIZE gives an existing span the same fields and
leaves its state and seeds. A record that a check refuses gets that check's status, and no span changes. When SPAN_QOS
starts for a span that exists, with four weights of at least 1, the span has those weights, its other fields and every
other span stand as before, and the reply is ST_OK; a weight of 0, an absent span or a number above 63 gets
ST_REFUSED_FORMAT (for an absent span: the model's choice, log entry 30) and changes no span. -/
def Obligations.SpansTakeTheirRecordAndWeights : Prop :=
  (∀ (p : Pkt) (s : State), s.starts opSpanCreate p = true →
      s.work.checkRecord (SpanRec.read p.block) p.block true = none →
      Ends (.spanCreate p) s fun t =>
        let x := t.work.sp (SpanRec.read p.block).span
        let r := SpanRec.read p.block
        x.mode = .active ∧ x.keyBase = r.keyBase ∧ x.keyCount = r.keyCount ∧ x.vectors = r.vectors
          ∧ x.hbmPages = (if s.work.charged r.span ≤ r.pages then r.pages else (s.work.sp r.span).hbmPages)
          ∧ x.spadSlots = r.slots ∧ x.drainMs = (if r.drain = 0 then 20 else r.drain) ∧ x.wHbm = r.wHbm ∧ x.wVdt = r.wVdt
          ∧ x.wPcie = r.wPcie ∧ x.wSched = r.wSched ∧ x.seedInit = BitVec.ofNat 64 r.seed ∧ x.seed = BitVec.ofNat 64 r.seed)
    ∧ (∀ (p : Pkt) (s : State), s.starts opSpanResize p = true →
        s.work.checkRecord (SpanRec.read p.block) p.block false = none →
        Ends (.spanResize p) s fun t =>
          let x := t.work.sp (SpanRec.read p.block).span
          let r := SpanRec.read p.block
          x.mode = (s.work.sp r.span).mode ∧ x.keyBase = r.keyBase ∧ x.keyCount = r.keyCount ∧ x.vectors = r.vectors
            ∧ x.hbmPages = (if s.work.charged r.span ≤ r.pages then r.pages else (s.work.sp r.span).hbmPages)
            ∧ x.spadSlots = r.slots ∧ x.drainMs = (if r.drain = 0 then 20 else r.drain)
            ∧ x.wHbm = r.wHbm ∧ x.wVdt = r.wVdt ∧ x.wPcie = r.wPcie ∧ x.wSched = r.wSched
            ∧ x.seed = (s.work.sp r.span).seed ∧ x.seedInit = (s.work.sp r.span).seedInit)
    ∧ (∀ (p : Pkt) (s : State) (st : Status),
        (s.starts opSpanCreate p = true → s.work.checkRecord (SpanRec.read p.block) p.block true = some st →
          Ends (.spanCreate p) s fun t => Answered s t p st ∧ t.dev.span = s.dev.span)
        ∧ (s.starts opSpanResize p = true → s.work.checkRecord (SpanRec.read p.block) p.block false = some st →
          Ends (.spanResize p) s fun t => Answered s t p st ∧ t.dev.span = s.dev.span))
    ∧ (∀ (p : Pkt) (s : State), s.starts opSpanQos p = true → p.arg 12 1 ≤ 63 → (s.work.sp (p.arg 12 1)).mode ≠ .absent →
      (∀ i < 4, p.arg (16 + i) 1 ≠ 0) →
      Ends (.spanQos p) s fun t => Answered s t p .ok ∧ Moved s t p
        ∧ t.work.sp (p.arg 12 1)
            = { s.work.sp (p.arg 12 1) with
                wHbm := p.arg 16 1, wVdt := p.arg 17 1, wPcie := p.arg 18 1, wSched := p.arg 19 1 }
        ∧ (∀ n, n ≠ p.arg 12 1 → t.work.sp n = s.work.sp n))
    ∧ ∀ (p : Pkt) (s : State), s.starts opSpanQos p = true →
        (63 < p.arg 12 1 ∨ (s.work.sp (p.arg 12 1)).mode = .absent ∨ ∃ i, i < 4 ∧ p.arg (16 + i) 1 = 0) →
        Ends (.spanQos p) s fun t => Answered s t p .refusedFormat ∧ t.dev.span = s.dev.span

/-- When SPAN_FREEZE starts for an ACTIVE span that is not being frozen, has no step read and no secure point being taken,
the span is FROZEN and the reply is ST_OK. When no step of a span that is being frozen runs any more, FREEZE_COMPLETE
makes it FROZEN and its command replies ST_OK. When SPAN_THAW starts for a FROZEN span, the span is ACTIVE and the
reply is ST_OK; a SPAN_SAVE of it in progress gets ST_SQUASHED (the model's choice, log entry 147). -/
def Obligations.FreezeThawAndComplete : Prop :=
  (∀ (p : Pkt) (s : State), s.starts opSpanFreeze p = true → p.opflag8 = false → p.arg 12 1 ≤ 63 →
      (s.work.sp (p.arg 12 1)).mode = .active → (s.work.sp (p.arg 12 1)).freezing = none →
      (∀ x ∈ s.dev.step.steps, x.span ≠ p.arg 12 1) → s.work.quiet (p.arg 12 1) = true →
      Ends (.spanFreeze p) s fun t => (t.work.sp (p.arg 12 1)).mode = .frozen ∧ (t.work.sp (p.arg 12 1)).freezing = none
        ∧ Answered s t p .ok)
    ∧ (∀ (n id : Nat) (s : State), (s.work.sp n).freezing = some id → (s.work.sp n).mode = .active → s.work.quiet n = true →
        Ends (.freezeComplete n) s fun t => (t.work.sp n).mode = .frozen ∧ (t.work.sp n).freezing = none
          ∧ Finished s t id .ok)
    ∧ ∀ (p : Pkt) (s : State), s.starts opSpanFreeze { p with flags := p.flags ||| 0x100#16 } = true → p.arg 12 1 ≤ 63 →
        (s.work.sp (p.arg 12 1)).mode = .frozen →
        Ends (.spanThaw p) s fun t => (t.work.sp (p.arg 12 1)).mode = .active ∧ AnsweredOk s t p
          ∧ ((s.work.sp (p.arg 12 1)).save.bind (·.job) = none → Answered s t p .ok)
          ∧ (∀ q, (s.work.sp (p.arg 12 1)).save.bind (·.job) = some q → Finished s t q.1 .squashed)
          ∧ ∀ n, n ≠ p.arg 12 1 → t.work.sp n = s.work.sp n

/-- When SPAN_DESTROY starts for an existing span other than 0 that is not in reset, the reply is ST_ACCEPTED and the span
is DESTROYING, with this command owed its final reply. When a span reset that is draining ends its drain with no key
slot live and nothing else asked of it, the span is ACTIVE and out of reset, holds no program and has no page mapped. -/
def Obligations.DestroyAndResetSequence : Prop :=
  (∀ (p : Pkt) (s : State), s.starts opSpanDestroy p = true → p.arg 12 1 ≠ 0 → p.arg 12 1 ≤ 63 →
      (s.work.sp (p.arg 12 1)).mode ≠ .absent → (s.work.sp (p.arg 12 1)).reset = none →
      Ends (.spanDestroy p) s fun t => (t.work.sp (p.arg 12 1)).mode = .destroying
        ∧ (∃ j, (t.work.sp (p.arg 12 1)).reset = some j ∧ j.destroy = true ∧ j.cmds = [s.dev.cmd.nextId])
        ∧ Answered s t p .accepted)
    ∧ ∀ (n : Nat) (j : ResetJob) (s : State), (s.work.sp n).reset = some j → j.stage = .draining → j.destroy = false →
        j.vfRemoved = false → j.againDestroy = [] → s.work.liveKeys n = [] →
        Ends (.spanResetDrainEnd n) s fun t => (t.work.sp n).mode = .active ∧ (t.work.sp n).reset = none
          ∧ t.work.programsOf n = [] ∧ ∀ vp, vp < 2 ^ 27 → t.work.page n vp = none

/-- CORE_MOVE of a core without tasks that one span's pending change waits for gives the core to the span the change
names. While the function answers configuration writes, VF_ENABLE and VF_REMOVE with NumVFs up to 63 set NumVFs and VF
Enable; the span of every VF that existed and exists no more, other than an absent one or one in reset already, is
DESTROYING. -/
def Obligations.CoresMoveAndFunctionsComeAndGo : Prop :=
  (∀ (n core m : Nat) (r : Resize) (s : State), n < 64 → (s.work.sp n).resize = some r → (core, m) ∈ r.cores →
      (∀ q ∈ r.cores, q.1 = core → q = (core, m)) →
      (∀ k r', k < 64 → k ≠ n → (s.work.sp k).resize = some r' → ∀ q ∈ r'.cores, q.1 ≠ core) → s.work.movable core = true →
      Ends (.coreMove core) s fun t => t.work.owner core = m)
    ∧ (∀ (k : Nat) (en : Bool) (s : State), s.work.busUp = true → k ≤ 63 →
        Ends (.vfEnable k en) s fun t => t.dev.span.numVfs = k ∧ t.dev.span.vfEnable = en)
    ∧ ∀ (k : Nat) (en : Bool) (s : State), s.work.busUp = true → k ≤ 63 →
        Ends (.vfRemove k en) s fun t => t.dev.span.numVfs = k ∧ t.dev.span.vfEnable = en
          ∧ ∀ n, 0 < n → n < 64 → s.dev.span.vfEnable = true → n ≤ s.dev.span.numVfs → ¬ (en = true ∧ n ≤ k) →
              (s.work.sp n).mode ≠ .absent → (s.work.sp n).reset = none → (t.work.sp n).mode = .destroying

/-- When KEY_REVOKE starts for an installed key slot that the span holds, the reply is ST_ACCEPTED, and the slot is being
revoked with this command waiting for it. A slot that the span does not hold gets ST_REFUSED_PERMISSION, with no key
slot changed. KEY_ZEROISE of a slot being revoked leaves it empty, its key all zero. -/
def Obligations.KeyRevokeAndZeroise : Prop :=
  (∀ (p : Pkt) (s : State), s.starts opKeyRevoke p = true → p.arg 12 2 < 4096 → s.work.holdsKey p.fn (p.arg 12 2) = true →
      (s.work.keySlot (p.arg 12 2)).state = .installed →
      Ends (.keyRevoke p) s fun t => (t.work.keySlot (p.arg 12 2)).state = .revoking
        ∧ s.dev.cmd.nextId ∈ (t.work.keySlot (p.arg 12 2)).cmds ∧ Answered s t p .accepted)
    ∧ (∀ (p : Pkt) (s : State), s.starts opKeyRevoke p = true → p.arg 12 2 < 4096 →
        s.work.holdsKey p.fn (p.arg 12 2) = false →
        Ends (.keyRevoke p) s fun t => Answered s t p .refusedPermission ∧ t.dev.fw = s.dev.fw)
    ∧ ∀ (k : Nat) (s : State), (s.work.keySlot k).state = .revoking →
        Ends (.keyZeroise k) s fun t => (t.work.keySlot k).state = .empty ∧ (t.work.keySlot k).key = 0#512

/-- When MAP starts with a placement of R33, an aligned range of unmapped pages within the span's quota and frames are
dealt for it, the reply is ST_OK, each page is mapped to its frame, WRITABLE as ATTR says, and the frame is in use.
With the DECK attribute each page is mapped without a frame. When UNMAP starts for mapped pages and no step of the
span is admitted, no page of the range is mapped and the reply is ST_OK; with a step admitted, the pages stay and the
command waits for the admitted steps. UNMAP_COMPLETE unmaps the pages of a waiting UNMAP once those steps have ended,
and it waits no more. -/
def Obligations.MapGivesPagesTheirFrames : Prop :=
  (∀ (p : Pkt) (s : State) (fs : List Nat) (last : Option Nat), s.starts opMap p = true → p.arg 12 6 % pageBytes = 0 →
      0 < p.arg 20 4 → p.arg 12 6 / pageBytes + p.arg 20 4 ≤ 2 ^ 27 → bits (p.arg 24 1) 3 2 ≤ 2 →
      (bits (p.arg 24 1) 3 2 = 1 → p.arg 25 1 ≤ 3) → (bits (p.arg 24 1) 3 2 = 2 → p.arg 25 1 ≤ 7) → bit (p.arg 24 1) 1 = false →
      s.work.charged p.fn + p.arg 20 4 ≤ s.work.mapLimit p.fn →
      (∀ i < p.arg 20 4, s.work.unmapping p.fn (p.arg 12 6 / pageBytes + i) = false
        ∧ s.work.page p.fn (p.arg 12 6 / pageBytes + i) = none) →
      s.work.deal (placeChans (bits (p.arg 24 1) 3 2) (p.arg 25 1)) (p.arg 20 4) (s.work.sp p.fn).lastChan [] = some (fs, last) →
      Ends (.map p) s fun t => Answered s t p .ok ∧ ∀ i f, i < p.arg 20 4 → fs[i]? = some f →
        t.work.page p.fn (p.arg 12 6 / pageBytes + i)
            = some { frame := some f, writable := bit (p.arg 24 1) 0, deck := false, gone := false }
          ∧ t.work.frame f = .page)
    ∧ (∀ (p : Pkt) (s : State), s.starts opMap p = true → p.arg 12 6 % pageBytes = 0 → 0 < p.arg 20 4 →
        p.arg 12 6 / pageBytes + p.arg 20 4 ≤ 2 ^ 27 → bits (p.arg 24 1) 3 2 ≤ 2 →
        (bits (p.arg 24 1) 3 2 = 1 → p.arg 25 1 ≤ 3) → (bits (p.arg 24 1) 3 2 = 2 → p.arg 25 1 ≤ 7) → bit (p.arg 24 1) 1 = true →
        (∀ i < p.arg 20 4, s.work.unmapping p.fn (p.arg 12 6 / pageBytes + i) = false
          ∧ s.work.page p.fn (p.arg 12 6 / pageBytes + i) = none) →
        Ends (.map p) s fun t => Answered s t p .ok ∧ ∀ i < p.arg 20 4,
          t.work.page p.fn (p.arg 12 6 / pageBytes + i) = some { frame := none, writable := false, deck := true, gone := false })
    ∧ (∀ (p : Pkt) (s : State), s.starts opUnmap p = true → p.arg 12 6 % pageBytes = 0 → 0 < p.arg 20 4 →
        p.arg 12 6 / pageBytes + p.arg 20 4 ≤ 2 ^ 27 →
        (∀ i < p.arg 20 4, s.work.unmapping p.fn (p.arg 12 6 / pageBytes + i) = false) →
        ((s.work.pagesOf p.fn).filter fun q => decide (p.arg 12 6 / pageBytes ≤ q.1)
            && decide (q.1 < p.arg 12 6 / pageBytes + p.arg 20 4)).length = p.arg 20 4 →
        (∀ x ∈ s.dev.step.steps, x.span = p.fn → x.admitted = false) →
        (∀ i < p.arg 20 4, (s.work.page p.fn (p.arg 12 6 / pageBytes + i)).isSome = true) →
        Ends (.unmap p) s fun t => (∀ i < p.arg 20 4, t.work.page p.fn (p.arg 12 6 / pageBytes + i) = none) ∧ AnsweredOk s t p)
    ∧ (∀ (p : Pkt) (s : State), s.starts opUnmap p = true → p.arg 12 6 % pageBytes = 0 → 0 < p.arg 20 4 →
        p.arg 12 6 / pageBytes + p.arg 20 4 ≤ 2 ^ 27 →
        (∀ i < p.arg 20 4, s.work.unmapping p.fn (p.arg 12 6 / pageBytes + i) = false) →
        ((s.work.pagesOf p.fn).filter fun q => decide (p.arg 12 6 / pageBytes ≤ q.1)
            && decide (q.1 < p.arg 12 6 / pageBytes + p.arg 20 4)).length = p.arg 20 4 →
        (∃ x ∈ s.dev.step.steps, x.span = p.fn ∧ x.admitted = true) →
        Ends (.unmap p) s fun t => (∀ i < p.arg 20 4,
            t.work.page p.fn (p.arg 12 6 / pageBytes + i) = s.work.page p.fn (p.arg 12 6 / pageBytes + i))
          ∧ s.work.cmdOf opUnmap p ∈ t.dev.cmd.cmds
          ∧ ∃ u ∈ t.dev.hbm.unmaps, u.cmd = s.dev.cmd.nextId ∧ u.span = p.fn
              ∧ u.steps = (s.dev.step.steps.filter fun x => x.span == p.fn && x.admitted).map (·.id))
    ∧ ∀ (cmd : Nat) (u : UnmapJob) (s : State), s.dev.hbm.unmaps.find? (fun u => u.cmd == cmd) = some u →
        (∀ x ∈ s.dev.step.steps, x.id ∈ u.steps → x.admitted = false) → u.span < 64 →
        Ends (.unmapComplete cmd) s fun t => (∀ q ∈ u.pages, t.work.page u.span q.2 = none)
          ∧ (∀ k ∈ t.dev.hbm.unmaps, k.cmd ≠ cmd)

/-- When PIN of class STAY or HOT starts for tiles of mapped pages of the span's own whose keystones hold and that forward
nothing, on a core of the span that serves, with a free slot for each of them and for that many pins more, none of
them in the core or pinned HOT elsewhere, each stands in the core's tile map with a pin of that class and the reply is
ST_OK with the number of poisoned tiles; with class HOT no other core of the span has a copy. The same holds of one
tile whose keystone does not hold, which counts as poisoned. With class 0, while no other PIN waits for a slot, no
named tile of that core is pinned any more and the reply is ST_OK with the count 0. -/
def Obligations.PinHoldsATileOnItsCore : Prop :=
  (∀ (p : Pkt) (s : State) (ph : Nat) (pa : Nat → Nat) (wr : Nat → Bool) (cls : Pin), s.starts opPin p = true →
      ((p.arg 24 1 = 1 ∧ cls = .stay) ∨ (p.arg 24 1 = 2 ∧ cls = .hot)) → 0 < p.arg 20 4 → p.arg 20 4 ≤ 2 ^ 27 * 481 →
      isTileAddr (p.arg 12 6) = true → p.arg 26 2 < 128 → s.work.owner (p.arg 26 2) = p.fn →
      (∀ i < p.arg 20 4, s.work.locate p.fn (s.work.currentBinds p.fn) (tileAfter (p.arg 12 6) i) = .home (pa i) (wr i)
        ∧ (s.work.tileAt (pa i)).keystoneOk = true ∧ spillAddrs (tileAfter (p.arg 12 6) i) (s.work.tileAt (pa i)) = []
        ∧ s.work.hotAt p.fn (tileAfter (p.arg 12 6) i) = none
        ∧ ∀ e ∈ (s.work.core' (p.arg 26 2)).tiles, e.addr ≠ tileAfter (p.arg 12 6) i) →
      s.work.physOf (p.arg 26 2) = some ph → (s.work.phys ph).state ≠ .quarantined →
      s.work.pinsFit (p.arg 26 2) (p.arg 20 4) = true →
      (s.work.core' (p.arg 26 2)).tiles.length + p.arg 20 4 ≤ s.work.slotsOf (p.arg 26 2) →
      Ends (.pin p) s fun t => (∀ i < p.arg 20 4,
          (∃ e ∈ (t.work.core' (p.arg 26 2)).tiles, e.addr = tileAfter (p.arg 12 6) i ∧ e.pin = cls)
            ∧ (cls = .hot → ∀ l ∈ s.work.coresOf p.fn, l ≠ p.arg 26 2 →
                ∀ e ∈ (t.work.core' l).tiles, e.addr = tileAfter (p.arg 12 6) i → e.gen ≠ none))
        ∧ AnsweredOk s t p (.count ((List.range (p.arg 20 4)).filter fun i => (s.work.tileAt (pa i)).poison).length))
    ∧ (∀ (p : Pkt) (s : State) (ph pa : Nat) (wr : Bool) (cls : Pin), s.starts opPin p = true →
        ((p.arg 24 1 = 1 ∧ cls = .stay) ∨ (p.arg 24 1 = 2 ∧ cls = .hot)) → p.arg 20 4 = 1 →
        isTileAddr (p.arg 12 6) = true → p.arg 26 2 < 128 → s.work.owner (p.arg 26 2) = p.fn →
        s.work.locate p.fn (s.work.currentBinds p.fn) (p.arg 12 6) = .home pa wr → (s.work.tileAt pa).keystoneOk = false →
        s.work.physOf (p.arg 26 2) = some ph → (s.work.phys ph).state ≠ .quarantined → s.work.pinsFit (p.arg 26 2) 1 = true →
        (s.work.core' (p.arg 26 2)).tiles.length < s.work.slotsOf (p.arg 26 2) → s.work.hotAt p.fn (p.arg 12 6) = none →
        (∀ e ∈ (s.work.core' (p.arg 26 2)).tiles, e.addr ≠ p.arg 12 6) →
        Ends (.pin p) s fun t => (∃ e ∈ (t.work.core' (p.arg 26 2)).tiles, e.addr = p.arg 12 6 ∧ e.pin = cls)
          ∧ AnsweredOk s t p (.count 1))
    ∧ ∀ (p : Pkt) (s : State) (ph : Nat), s.starts opPin p = true → p.arg 24 1 = 0 → 0 < p.arg 20 4 → p.arg 20 4 ≤ 2 ^ 27 * 481 →
        isTileAddr (p.arg 12 6) = true → p.arg 26 2 < 128 → s.work.owner (p.arg 26 2) = p.fn →
        s.work.pinnable p.fn (s.work.currentBinds p.fn) ((List.range (p.arg 20 4)).map (tileAfter (p.arg 12 6))) = true →
        s.work.physOf (p.arg 26 2) = some ph → (s.work.phys ph).state ≠ .quarantined → s.dev.core.pinJobs = [] →
        Ends (.pin p) s fun t => (∀ e ∈ (t.work.core' (p.arg 26 2)).tiles, ∀ i < p.arg 20 4,
            e.addr = tileAfter (p.arg 12 6) i → e.pin = .none)
          ∧ AnsweredOk s t p (.count 0)

/-- When MIGRATE starts for a mapped page to a channel in service with a free page, while no page of its channel is
moving, a move to the lowest free page of that channel starts and the reply is ST_OK. A sample window counts the
windows in which a channel is above its high mark, or starts the count again; a page whose channel has been above it
for 8 windows starts to move to the cooler channel. At the flip, with the memory in canonical form, the page stands in
its new frame, whose bytes are those of the old, and the old frame waits for its release, which ends the move; a page
that could not be read while it was evacuated has every tile poisoned there. -/
def Obligations.MigrationMovesAPageWhole : Prop :=
  (∀ (p : Pkt) (s : State) (f g : Nat) (e : PageEnt), s.starts opMigrate p = true → p.arg 12 6 % pageBytes = 0 →
      s.work.page p.fn (p.arg 12 6 / pageBytes) = some e → e.frame = some f → s.work.moving (chanOf f) = false →
      chanOf f ≠ p.arg 18 1 → s.work.chanUsable (p.arg 18 1) = true → s.work.frameIn (p.arg 18 1) .free = some g →
      Ends (.migrate p) s fun t => Answered s t p .ok ∧ t.work.frame g = useOf p.fn
        ∧ t.dev.hbm.moves = s.dev.hbm.moves
            ++ [{ span := p.fn, page := p.arg 12 6 / pageBytes, old := f, new := g, flipped := false, evac := false }])
    ∧ (∀ (c o n vp : Nat) (s : State), s.work.page n vp = none →
        Ends (.migrationSampleWindow [(c, o)] n vp) s fun t =>
          (t.work.chan c).highWindows
              = (if bits (s.work.regv 0 0x5004) 15 8 + 80 < o then (s.work.chan c).highWindows + 1 else 0)
            ∧ t.dev.hbm.moves = s.dev.hbm.moves)
    ∧ (∀ (o k ok n vp f g : Nat) (e : PageEnt) (s : State), s.work.page n vp = some e → e.frame = some f → k ≠ chanOf f →
        bit (s.work.regv 0 0x5004) 0 = true → bits (s.work.regv 0 0x5004) 23 16 = 0 → ok < 50 →
        bits (s.work.regv 0 0x5004) 15 8 + 80 < o → 7 ≤ (s.work.chan (chanOf f)).highWindows →
        s.work.moving (chanOf f) = false → s.work.chanUsable k = true → s.work.frameIn k .free = some g →
        Ends (.migrationSampleWindow [(chanOf f, o), (k, ok)] n vp) s fun t =>
          t.dev.hbm.moves = s.dev.hbm.moves
            ++ [{ span := n, page := vp, old := f, new := g, flipped := false, evac := false }])
    ∧ (∀ (n vp : Nat) (m : PageMove) (e : PageEnt) (s : State), s.MemWf → n < 64 → vp < 2 ^ 27 →
        s.dev.hbm.moves.find? (fun m => m.span == n && m.page == vp && !m.flipped) = some m →
        s.dev.hbm.moves.find? (fun k => chanOf k.old == chanOf m.old && !k.flipped) = some m →
        s.work.page n vp = some e →
        Ends (.pageMigrationFlip n ⟨vp, false⟩) s fun t => t.work.page n vp = some { e with frame := some m.new }
          ∧ t.work.frame m.old = .oldHome
          ∧ ∀ o, o < pageBytes → t.byte (frameAddr m.new + o) = s.byte (frameAddr m.old + o))
    ∧ (∀ (n vp : Nat) (m : PageMove) (s : State), m.evac = true →
        s.dev.hbm.moves.find? (fun m => m.span == n && m.page == vp && !m.flipped) = some m →
        s.dev.hbm.moves.find? (fun k => chanOf k.old == chanOf m.old && !k.flipped) = some m →
        Ends (.pageMigrationFlip n ⟨vp, true⟩) s fun t => ∀ i < 481, (t.work.tileAt (frameAddr m.new + i * tileBytes)).poison = true)
    ∧ ∀ (n vp : Nat) (m : PageMove) (s : State),
        s.dev.hbm.moves.find? (fun m => m.span == n && m.page == vp && m.flipped) = some m →
        Ends (.oldHomeRelease n vp) s fun t => m ∉ t.dev.hbm.moves
          ∧ t.work.frame m.old
              = (if m.evac = true ∨ (s.work.chan (chanOf m.old)).state ≠ .inService then .withdrawn else .scrubWait)

/-- A patrol scrub that corrects a tile adds 1 to the counter at 0x260 of the span the page serves; one that cannot marks
the tile poisoned in memory. A retraining of a channel in service, where it is enabled, records whether its margin is
low and what the stack has corrected. A page that waits for its scrub on a channel in use becomes free, and every byte
of it reads as a scrub leaves it. -/
def Obligations.ScrubsCountPoisonAndClear : Prop :=
  (∀ (c f i : Nat) (s : State), c < 256 → f < 768 → i < 481 →
      Ends (.patrolScrub c f i true) s fun t =>
        Sparse.get (fun _ => 0#64) t.dev.obs.cnt (4096 * s.work.spanOfFrame (768 * c + f) + 0x260)
          = Sparse.get (fun _ => 0#64) s.dev.obs.cnt (4096 * s.work.spanOfFrame (768 * c + f) + 0x260) + 1)
    ∧ (∀ (c f i : Nat) (s : State), c < 256 → f < 768 → i < 481 →
        Ends (.patrolScrub c f i false) s fun t =>
          (t.work.tileAt (frameAddr (768 * c + f) + i * tileBytes)).poison = true)
    ∧ (∀ (c : Nat) (low : Bool) (ends : RetrainEnd) (s : State), c < 256 → bit (s.work.regv 0 0x5008) 0 = true →
        (s.work.chan c).state = .inService →
        Ends (.hbmRetrain c low ends) s fun t => (t.work.chan c).low = low ∧ (t.work.chan c).onDie = (s.work.chan c).onDie + ends.onDie)
    ∧ ∀ (f : Nat) (s : State), f < 196608 → s.work.frame f = .scrubWait → s.work.chanUsable (chanOf f) = true →
        Ends (.pageScrubDone f) s fun t => t.work.frame f = .free
          ∧ (∀ o, o < pageBytes → t.byte (frameAddr f + o) = memBlank (frameAddr f + o))
          ∧ ∀ a, ¬ (frameAddr f ≤ a ∧ a < frameAddr f + pageBytes) → t.byte a = s.byte a

/-- While BAR0 answers: a read through a closed window gives zeros; one within a page of a span that is not in reset,
whose UNMAP has not been read, gives the bytes stored in its frame. A write within such a WRITABLE page of a span that
is not traced stores its bytes, and every byte outside them reads as before; a write to a page that may not be written
changes no byte and counts one dropped write. -/
def Obligations.WindowReadsAndWritesItsPage : Prop :=
  (∀ (fn off len : Nat) (s : State), s.work.busUp = true → s.work.window fn off = none →
      Ends (.bar4Read fn off len) s fun t => Sent s t (.readData fn (List.replicate len 0#8)))
    ∧ (∀ (fn off len n va f : Nat) (e : PageEnt) (s : State), s.work.busUp = true → s.work.window fn off = some (n, va) →
        va % pageBytes + len ≤ pageBytes → s.work.page n (va / pageBytes) = some e → e.deck = false → e.frame = some f →
        s.work.windowGone n (va / pageBytes) = false → va < 2 ^ 48 →
        Ends (.bar4Read fn off len) s fun t =>
          Sent s t (.readData fn ((List.range len).map fun i => s.byte (frameAddr f + va % pageBytes + i))))
    ∧ (∀ (fn off n va f : Nat) (bs : List Byte) (e : PageEnt) (s : State), s.work.busUp = true →
        s.work.window fn off = some (n, va) → va % pageBytes + bs.length ≤ pageBytes →
        s.work.page n (va / pageBytes) = some e → e.deck = false → e.writable = true → e.frame = some f →
        s.work.windowGone n (va / pageBytes) = false → va < 2 ^ 48 → s.work.traceOf n = none →
        Ends (.bar4Write fn off bs) s fun t =>
          (∀ i b, bs[i]? = some b → t.byte (frameAddr f + va % pageBytes + i) = b)
            ∧ ∀ a, ¬ (frameAddr f + va % pageBytes ≤ a ∧ a < frameAddr f + va % pageBytes + bs.length) →
                t.byte a = s.byte a)
    ∧ ∀ (fn off n va : Nat) (bs : List Byte) (e : PageEnt) (s : State), s.work.busUp = true → bs ≠ [] →
        s.work.window fn off = some (n, va) → va % pageBytes + bs.length ≤ pageBytes →
        s.work.page n (va / pageBytes) = some e → e.writable = false →
        Ends (.bar4Write fn off bs) s fun t =>
          (t.work.sp fn).winDrops = min (2 ^ 32 - 1) ((s.work.sp fn).winDrops + 1) ∧ ∀ a, t.byte a = s.byte a

/-- When DECK_LOAD starts with fields in range for a slot with no staged image or load, under a usable key, with a window
that holds the image, and no preserved image has the digest of a CONTRACT: within quota and with free frames the slot
has the window and the load, the image is the span's, in those frames, being loaded, and the command is in progress. A
preserved image with that digest is staged without a load and the digest goes into the block; with SWITCH, when no
switch waits and nothing binds an older generation, it is current. When the stream of a load, once decrypted, is
whole, every keystone holds and it has the expected digest, if any, the image has the digest of its tiles, which goes
into the block, and the load is over; without SWITCH the image is staged and the command replies ST_OK, with SWITCH,
when no switch waits and nothing binds an older generation, it is current. With a failed keystone or another digest
there is no image. -/
def Obligations.DeckLoadStartsAndCompletes : Prop :=
  (∀ (p : Pkt) (s : State) (fs : List Nat) (win : Nat), s.starts opDeckLoad p = true → deckFieldsOk p.block = true →
      win = (s.work.slot p.fn (rd p.block 0 1)).window.getD (rd p.block 24 6) → win % pageBytes = 0 →
      (s.work.slot p.fn (rd p.block 0 1)).staged = none → (s.work.slot p.fn (rd p.block 0 1)).load = none →
      s.work.keyUsable p.fn (rd p.block 2 2) = true →
      0 < s.work.windowSize p.fn (rd p.block 0 1) win → rd p.block 8 4 ≤ s.work.windowSize p.fn (rd p.block 0 1) win * pageTiles →
      (bit (rd p.block 4 1) 3 = true → ∀ i ∈ s.dev.deck.images, i.kept = false ∨ i.digest ≠ BitVec.ofNat 256 (rd p.block 32 32)) →
      s.dev.deck.images.length < 32 → s.work.charged p.fn + ceilDiv (rd p.block 8 4) pageTiles ≤ s.work.mapLimit p.fn →
      s.work.takeFrames (ceilDiv (rd p.block 8 4) pageTiles) = some fs →
      Ends (.deckLoad p) s fun t =>
        t.work.slot p.fn (rd p.block 0 1)
            = { s.work.slot p.fn (rd p.block 0 1) with window := some win, pages := s.work.windowSize p.fn (rd p.block 0 1) win,
                                                            load := some s.dev.deck.nextImage }
          ∧ (∃ im ∈ t.dev.deck.images, im.id = s.dev.deck.nextImage ∧ im.owner = p.fn ∧ im.charge = p.fn
              ∧ im.tiles = rd p.block 8 4 ∧ im.frames = fs ∧ im.source = rd p.block 1 1 ∧ im.loading = true)
          ∧ (∀ f ∈ fs, t.work.frame f = .image) ∧ s.work.cmdOf opDeckLoad p ∈ t.dev.cmd.cmds)
    ∧ (∀ (p : Pkt) (s : State) (im : Image) (win : Nat), s.starts opDeckLoad p = true → deckFieldsOk p.block = true →
        win = (s.work.slot p.fn (rd p.block 0 1)).window.getD (rd p.block 24 6) → win % pageBytes = 0 →
        (s.work.slot p.fn (rd p.block 0 1)).staged = none → (s.work.slot p.fn (rd p.block 0 1)).load = none →
        s.work.keyUsable p.fn (rd p.block 2 2) = true → im.tiles ≤ s.work.windowSize p.fn (rd p.block 0 1) win * pageTiles →
        0 < s.work.windowSize p.fn (rd p.block 0 1) win → rd p.block 8 4 ≤ s.work.windowSize p.fn (rd p.block 0 1) win * pageTiles → bit (rd p.block 4 1) 3 = true →
        s.dev.deck.images.find? (fun i => i.kept && i.digest == BitVec.ofNat 256 (rd p.block 32 32) && (i.owner == p.fn || i.shareable))
          = some im →
        Ends (.deckLoad p) s fun t => (t.work.slot p.fn (rd p.block 0 1)).window = some win
          ∧ Sent s t (.hostWrite p.fn (p.arg 56 8 + 32) (leBytes 32 (BitVec.ofNat 256 (rd p.block 32 32)).toNat))
          ∧ (bit (rd p.block 4 1) 0 = false → (t.work.slot p.fn (rd p.block 0 1)).staged = some im.id)
          ∧ (bit (rd p.block 4 1) 0 = true → (s.work.slot p.fn (rd p.block 0 1)).waiting = none → s.work.olderFree p.fn (rd p.block 0 1) = true →
              (t.work.slot p.fn (rd p.block 0 1)).current = some im.id))
    ∧ (∀ (i : Nat) (tiles ts : List Tile) (under : BitVec 512) (l : DeckLoad) (im : Image) (s : State),
        s.dev.deck.loads.find? (fun l => l.image == i) = some l → s.work.image i = some im → tiles.length = im.tiles →
        ((s.work.sp l.span).stopHost = false ∨ im.source ≠ 0) → ts = decrypted (s.work.keySlot im.key).key under 0 tiles →
        (∀ x ∈ ts, x.keystoneOk = true) → (l.expect = none ∨ l.expect = some (deckDigest ts)) →
        Ends (.deckLoadComplete i ⟨tiles, under⟩) s fun t => (t.work.slot l.span l.slot).load = none ∧ (∀ k ∈ t.dev.deck.loads, k.image ≠ i)
          ∧ Sent s t (.hostWrite l.span (l.block + 32) (leBytes 32 (deckDigest ts).toNat))
          ∧ (l.switch = false → (t.work.slot l.span l.slot).staged = some i
              ∧ (∃ m, t.work.image i = some m ∧ m.digest = deckDigest ts ∧ m.loading = false ∧ m.frames = im.frames)
              ∧ Finished s t l.cmd .ok)
          ∧ (l.switch = true → (s.work.slot l.span l.slot).waiting = none → s.work.olderFree l.span l.slot = true → (t.work.slot l.span l.slot).current = some i
              ∧ (t.work.slot l.span l.slot).gen = nextGen (s.work.slot l.span l.slot).gen))
    ∧ ∀ (i : Nat) (tiles ts : List Tile) (under : BitVec 512) (l : DeckLoad) (im : Image) (s : State),
        s.dev.deck.loads.find? (fun l => l.image == i) = some l → s.work.image i = some im → tiles.length = im.tiles →
        ((s.work.sp l.span).stopHost = false ∨ im.source ≠ 0) → ts = decrypted (s.work.keySlot im.key).key under 0 tiles →
        ((∃ x ∈ ts, x.keystoneOk = false) ∨ ∃ d, l.expect = some d ∧ d ≠ deckDigest ts) →
        Ends (.deckLoadComplete i ⟨tiles, under⟩) s fun t => t.work.image i = none ∧ (t.work.slot l.span l.slot).load = none

/-- DECK_SWITCH starts, without a load or switch in progress, for the staged image or one named by its digest that the
slot may use, and the slot's window, or for a slot without one WINDOW, holds it. When nothing binds an older
generation, the image is current, the generation advances (skipping 0), and what was current is the one older
generation; when only steps bind one, the switch waits, holding its ring, and the current image stays. A switch that
waited takes effect the same way. DECK_RETIRE makes a slot EMPTY, advances its generation and discards the staged
image and a waiting switch; without anything bound no generation is left and the reply is ST_OK; a generation that is
bound stays, and the command is in progress. A release drops every older generation that nothing binds and keeps the
others. -/
def Obligations.DeckSwitchRetireAndRelease : Prop :=
  (∀ (p : Pkt) (s : State) (b : Nat) (im : Image), s.starts opDeckSwitch p = true → p.arg 12 1 ≤ 15 →
      ((BitVec.ofNat 256 (p.arg 16 32) = 0#256 ∧ (s.work.slot p.fn (p.arg 12 1)).staged.bind (fun i => s.work.image i) = some im)
        ∨ (BitVec.ofNat 256 (p.arg 16 32) ≠ 0#256 ∧ s.dev.deck.images.find? (fun i => i.digest == BitVec.ofNat 256 (p.arg 16 32)
            && !i.loading && (i.shareable || i.owner == p.fn)) = some im)) →
      (s.work.slot p.fn (p.arg 12 1)).load = none → (s.work.slot p.fn (p.arg 12 1)).waiting = none →
      ((s.work.slot p.fn (p.arg 12 1)).window = some b
        ∨ ((s.work.slot p.fn (p.arg 12 1)).window = none ∧ p.arg 48 6 ≠ 0 ∧ b = p.arg 48 6)) → b % pageBytes = 0 →
      im.tiles ≤ s.work.windowSize p.fn (p.arg 12 1) b * pageTiles → s.work.olderHeld p.fn (p.arg 12 1) = false →
      Ends (.deckSwitch p) s fun t =>
        let x := s.work.slot p.fn (p.arg 12 1)
        let y := t.work.slot p.fn (p.arg 12 1)
        y.window = some b
          ∧ (s.work.olderFree p.fn (p.arg 12 1) = true →
              y.current = some im.id ∧ y.gen = nextGen x.gen ∧ y.staged = (if x.staged = some im.id then none else x.staged)
                ∧ y.olds = (x.current.map fun i => { gen := x.gen, image := i, window := some b, pages := s.work.windowSize p.fn (p.arg 12 1) b }).toList)
          ∧ (s.work.olderFree p.fn (p.arg 12 1) = false →
              y.waiting = some (s.dev.cmd.nextId, im.id) ∧ y.current = x.current ∧ y.gen = x.gen
                ∧ { s.work.cmdOf opDeckSwitch p with holds := true } ∈ t.dev.cmd.cmds))
    ∧ (∀ (n k c i : Nat) (s : State), (s.work.slot n k).waiting = some (c, i) → s.work.olderFree n k = true →
        Ends (.deckSwitchEffect n k) s fun t => (t.work.slot n k).current = some i
          ∧ (t.work.slot n k).gen = nextGen (s.work.slot n k).gen ∧ (t.work.slot n k).waiting = none
          ∧ (t.work.slot n k).olds = ((s.work.slot n k).current.map fun j =>
              { gen := (s.work.slot n k).gen, image := j, window := (s.work.slot n k).window, pages := (s.work.slot n k).pages }).toList)
    ∧ (∀ (p : Pkt) (s : State), s.starts opDeckRetire p = true → p.arg 12 1 ≤ 15 →
        Ends (.deckRetire p) s fun t =>
          let x := s.work.slot p.fn (p.arg 12 1)
          let y := t.work.slot p.fn (p.arg 12 1)
          y.current = none ∧ y.gen = nextGen x.gen ∧ y.staged = none ∧ y.waiting = none ∧ (x.load = none → y.window = none)
            ∧ ((∀ g, s.work.genBound p.fn (p.arg 12 1) g = false) → y.olds = [] ∧ AnsweredOk s t p)
            ∧ (∀ i, x.current = some i → s.work.genBound p.fn (p.arg 12 1) x.gen = true →
                { gen := x.gen, image := i, window := x.window, pages := x.pages } ∈ y.olds ∧ s.work.cmdOf opDeckRetire p ∈ t.dev.cmd.cmds))
    ∧ ∀ (n k : Nat) (s : State),
        Ends (.generationRelease n k) s fun t => (t.work.slot n k).current = (s.work.slot n k).current
          ∧ ∀ o, o ∈ (t.work.slot n k).olds ↔ (o ∈ (s.work.slot n k).olds ∧ s.work.genBound n k o.gen = true)

/-- When a tile of an image for which slots wait arrives again, decrypts to a tile with a good keystone, and may be
refetched, for the first time, under the key of the load: the image records that tile as refetched, the counter at
0x1E8 of its owner goes up by 1, and no context waits for the tile any more. When the tile cannot be had, the image is
DAMAGED and records it as bad. -/
def Obligations.RefetchedDeckTileIsKept : Prop :=
  (∀ (i k : Nat) (x y : Tile) (under : BitVec 512) (im : Image) (s : State), s.work.image i = some im → s.work.entsDeck i k ≠ [] →
      ((s.work.sp im.owner).stopHost = false ∨ im.source ≠ 0) →
      (decrypted (s.work.keySlot im.key).key under k [x]).head? = some y → y.keystoneOk = true → im.norefetch = false →
      k ∉ im.bad → k ∉ im.refetched → s.work.imageKeyHeld im = true →
      Ends (.deckTileRefetchDone i k (some (x, under))) s fun t =>
        (∃ m, t.work.image i = some m ∧ k ∈ m.refetched ∧ m.damaged = im.damaged)
          ∧ Sparse.get (fun _ => 0#64) t.dev.obs.cnt (4096 * im.owner + 0x1E8)
              = Sparse.get (fun _ => 0#64) s.dev.obs.cnt (4096 * im.owner + 0x1E8) + 1
          ∧ ∀ z ∈ t.dev.step.steps, ∀ q ∈ z.tasks, ∀ c ∈ q.ctxs, t.work.waitsDeck i k z c = false)
    ∧ ∀ (i k : Nat) (im : Image) (s : State), s.work.image i = some im → s.work.entsDeck i k ≠ [] →
        ((s.work.sp im.owner).stopHost = false ∨ im.source ≠ 0) → k ∉ im.bad →
        Ends (.deckTileRefetchDone i k none) s fun t => ∃ m, t.work.image i = some m ∧ m.damaged = true ∧ k ∈ m.bad

/-- When ADAPTER_LOAD starts with fields in range, its site table reads well, its sites rise within one deck slot, its
factors lie on tiles that the span may write, and a handle is free: with SOURCE NONE, each factor tile whole and not
poisoned, the adapter is resident under the lowest free handle with its sites and the digest of its factor tiles; with
another SOURCE, under a usable key, it is being loaded under that handle and the command is in progress. When the
stream of an adapter being loaded, once decrypted, is whole, the adapter is resident with the digest of the stream,
digest and handle go into its block, and the command replies ST_OK with the handle. ADAPTER_CONTRACT by the PF or the
owner gives a resident adapter the class and, where it is not 0 and no request or step holds the adapter, the deck
digest. A reload under the key of the load makes a COLD adapter valid and no step waits for it any more. -/
def Obligations.AdapterLoadAndContract : Prop :=
  (∀ (p : Pkt) (s : State) (sites : List Site) (h k : Nat), s.starts opAdapterLoad p = true →
      adapterFieldsOk p.block = true → (rd p.block 74 1 = 0 ∨ s.work.keyUsable p.fn (rd p.block 72 2) = true) →
      s.work.readSites p.fn (rd p.block 88 6) (rd p.block 68 2) = .ok sites → sites ≠ [] → sitesRise sites = true →
      (∀ x ∈ sites, isTileAddr x.wAddr = true ∧ isTileAddr x.addrA = true ∧ isTileAddr x.addrB = true
        ∧ (s.work.slotAt p.fn (x.wAddr / pageBytes)).map (·.1) = some k) →
      (∀ x ∈ sites, ∀ va ∈ x.factors (rd p.block 64 1) (rd p.block 66 2), s.work.writeFault p.fn va = none) →
      s.dev.deck.adapters.length < 16384 →
      (List.range 16384).find? (fun h => !(s.dev.deck.adapters.any fun a => a.handle == h)) = some h →
      Ends (.adapterLoad p) s fun t =>
        (rd p.block 74 1 = 0 →
            (∀ x ∈ sites, ∀ va ∈ x.factors (rd p.block 64 1) (rd p.block 66 2),
              ∀ y, s.work.stored p.fn va = some y → y.keystoneOk = true ∧ y.poison = false) →
            ∃ a, t.work.adapter h = some a ∧ a.span = p.fn ∧ a.sites = sites ∧ a.loading = none
              ∧ a.rank = rd p.block 66 2 ∧ a.cls = rd p.block 65 1
              ∧ a.digest = deckDigest ((sites.flatMap fun x => x.factors (rd p.block 64 1) (rd p.block 66 2)).filterMap
                  fun va => s.work.stored p.fn va))
          ∧ (rd p.block 74 1 ≠ 0 → (∃ a, t.work.adapter h = some a ∧ a.span = p.fn ∧ a.sites = sites
              ∧ a.loading = some s.dev.cmd.nextId ∧ a.source = rd p.block 74 1) ∧ s.work.cmdOf opAdapterLoad p ∈ t.dev.cmd.cmds))
    ∧ (∀ (h id : Nat) (tiles ts : List Tile) (under : BitVec 512) (a : Adapter) (s : State), s.work.adapter h = some a →
        a.loading = some id → a.source ≠ 0 → tiles.length = a.factors.length →
        ((s.work.sp a.span).stopHost = false ∨ a.source ≠ 1) → ts = decrypted (s.work.keySlot a.key).key under 0 tiles →
        (∀ x ∈ ts, x.keystoneOk = true) →
        Ends (.adapterLoadComplete h ⟨tiles, under⟩) s fun t =>
          t.work.adapter h = some { a with digest := deckDigest ts, loading := none, valid := a.cls != 2 }
            ∧ Sent s t (.hostWrite a.span (a.block + 32) (leBytes 32 (deckDigest ts).toNat))
            ∧ Sent s t (.hostWrite a.span (a.block + 94) (leBytes 2 h)) ∧ Finished s t id .ok (.count h))
    ∧ (∀ (p : Pkt) (s : State) (a : Adapter), s.starts opAdapterContract p = true → s.work.adapter (p.arg 12 2) = some a →
        a.loading = none → (p.fn = 0 ∨ p.fn = a.span) → p.arg 14 1 ≤ 2 → ¬ (p.arg 14 1 = 2 ∧ a.source = 0) →
        (BitVec.ofNat 256 (p.arg 16 32) = 0#256 ∨ s.work.adapterCount (p.arg 12 2) = 0) →
        Ends (.adapterContract p) s fun t => Answered s t p .ok ∧ ∃ a', t.work.adapter (p.arg 12 2) = some a'
          ∧ a'.cls = p.arg 14 1 ∧ a'.sites = a.sites ∧ a'.digest = a.digest
          ∧ a'.deckDigest = (if BitVec.ofNat 256 (p.arg 16 32) = 0#256 then a.deckDigest else BitVec.ofNat 256 (p.arg 16 32)))
    ∧ ∀ (h : Nat) (tiles ts : List Tile) (under : BitVec 512) (a : Adapter) (s : State), s.work.adapter h = some a → a.loading = none →
        (∃ x ∈ s.dev.step.steps, x.phase ≠ .ended ∧ h ∈ x.reloads) → tiles.length = a.factors.length →
        ((s.work.sp a.span).stopHost = false ∨ a.source ≠ 1) → s.work.keyUsable a.span a.key = true →
        s.work.keyHandle a.key = a.keyed → ts = decrypted (s.work.keySlot a.key).key under 0 tiles →
        (∀ x ∈ ts, x.keystoneOk = true) → deckDigest ts = a.digest →
        Ends (.adapterReloadDone h ⟨tiles, under⟩) s fun t => t.work.adapter h = some { a with valid := true }
          ∧ ∀ x ∈ t.dev.step.steps, x.phase ≠ .ended → h ∉ x.reloads

/-- ADAPTER_EVICT by the PF or the owner starts for a resident adapter. When it is not PINNED, nothing binds it, it is not
being evicted and no step of its span is admitted, it is gone and the reply is ST_OK; when a step is admitted, it is
being evicted and the command waits; one of class PINNED gets ST_REFUSED_CONTRACT and stays. An adapter being evicted
is gone once the steps admitted before have ended and nothing binds it or the eviction is by force. A request in grace
is closed when its time expires. -/
def Obligations.AdaptersLeaveAndGraceExpires : Prop :=
  (∀ (p : Pkt) (s : State) (a : Adapter), s.starts opAdapterEvict p = true → s.work.adapter (p.arg 12 2) = some a →
      a.loading = none → (p.fn = 0 ∨ p.fn = a.span) → a.cls ≠ 0 → s.work.adapterCount (p.arg 12 2) = 0 → a.evicting = false →
      (∀ x ∈ s.dev.step.steps, x.span = a.span → x.admitted = false) →
      Ends (.adapterEvict p) s fun t => t.work.adapter (p.arg 12 2) = none ∧ AnsweredOk s t p)
    ∧ (∀ (p : Pkt) (s : State) (a : Adapter), s.starts opAdapterEvict p = true → s.work.adapter (p.arg 12 2) = some a →
        a.loading = none → (p.fn = 0 ∨ p.fn = a.span) → a.cls ≠ 0 → (∃ x ∈ s.dev.step.steps, x.span = a.span ∧ x.admitted = true) →
        Ends (.adapterEvict p) s fun t => (∃ b, t.work.adapter (p.arg 12 2) = some b ∧ b.evicting = true ∧ s.dev.cmd.nextId ∈ b.evict)
          ∧ { s.work.cmdOf opAdapterEvict p with holds := p.force || (s.work.adapterCount (p.arg 12 2) == 0 && !a.evicting) }
            ∈ t.dev.cmd.cmds)
    ∧ (∀ (p : Pkt) (s : State) (a : Adapter), s.starts opAdapterEvict p = true → s.work.adapter (p.arg 12 2) = some a →
        a.loading = none → (p.fn = 0 ∨ p.fn = a.span) → a.cls = 0 →
        Ends (.adapterEvict p) s fun t => t.dev.deck = s.dev.deck ∧ Answered s t p .refusedContract)
    ∧ (∀ (h : Nat) (a : Adapter) (s : State), s.work.adapter h = some a → a.loading = none → a.evicting = true →
        (∀ x ∈ s.dev.step.steps, x.id ∈ a.boundary → x.admitted = false) → (s.work.adapterCount h = 0 ∨ a.force = true) →
        Ends (.adapterRemove h) s fun t => t.work.adapter h = none)
    ∧ ∀ (n id : Nat) (r : OpenReq) (s : State), s.work.request n id = some r → r.grace = true →
        Ends (.graceExpiry n id) s fun t => t.work.request n id = none

/-- When PROGRAM_LOAD starts with an image that reads as a program and passes the load checks, the program is loaded under
the span's lowest free handle and the reply is ST_OK with that handle; an image that a check refuses gets that check's
status and loads nothing. PREFETCH_PLAN with a schedule that reads well replaces the program's. PROGRAM_UNLOAD of a
program that no admitted step runs removes it. -/
def Obligations.ProgramsLoadPlanAndUnload : Prop :=
  (∀ (p : Pkt) (s : State) (q : Program), s.starts opProgramLoad p = true →
      parseProgram p.fn (s.work.freeHandle p.fn) (padTo (p.arg 24 4) p.block) = some q →
      s.work.loadFault p.fn (padTo (p.arg 24 4) p.block) (p.arg 24 4) (some q) = none →
      Ends (.programLoad p) s fun t => t.dev.step.programs = s.dev.step.programs ++ [q]
        ∧ Answered s t p .ok (.count q.handle))
    ∧ (∀ (p : Pkt) (s : State) (st : Status), s.starts opProgramLoad p = true →
        s.work.loadFault p.fn (padTo (p.arg 24 4) p.block) (p.arg 24 4)
          (parseProgram p.fn (s.work.freeHandle p.fn) (padTo (p.arg 24 4) p.block)) = some st →
        Ends (.programLoad p) s fun t => t.dev.step = s.dev.step ∧ Answered s t p st)
    ∧ (∀ (p : Pkt) (s : State) (q : Program) (sc : List (List SchedRange)), s.starts opPrefetchPlan p = true →
        p.arg 24 4 ≤ 2 ^ 24 → s.work.program p.fn (p.arg 12 1) = some q →
        parseSched (padTo (p.arg 24 4) p.block) 0 (p.arg 24 4) q.tasks.length (q.tasks.map (·.layer0)) true = some sc →
        Ends (.prefetchPlan p) s fun t => t.work.program p.fn (p.arg 12 1) = some { q with sched := sc } ∧ Answered s t p .ok)
    ∧ ∀ (p : Pkt) (s : State) (q : Program), s.starts opProgramUnload p = true →
        s.work.program p.fn (p.arg 12 1) = some q →
        (∀ x ∈ s.dev.step.steps, x.span = p.fn → x.handle = p.arg 12 1 → x.admitted = false) →
        Ends (.programUnload p) s fun t => t.work.program p.fn (p.arg 12 1) = none

/-- When STEP_SUBMIT starts outside a firmware activation, the step is the last one read, with the packet's fields, and
its command is in progress; during an activation the packet waits in its ring. When STEP_CANCEL starts and a step of
that ring with that sequence is not admitted, the reply is ST_OK with count 1 and no step with its number runs on;
with no such step the reply is ST_OK with count 0 and the steps stand as before; a ring above 15 gives
ST_REFUSED_FORMAT. -/
def Obligations.StepsAreReadAndCancelled : Prop :=
  (∀ (p : Pkt) (s : State), s.starts opStepSubmit p = true → s.work.activating = false →
      Ends (.stepSubmit p) s fun t =>
        t.dev.step.steps = s.dev.step.steps ++ [Step.ofPkt p (s.work.cmdOf opStepSubmit p)]
          ∧ t.dev.cmd.cmds = s.dev.cmd.cmds ++ [s.work.cmdOf opStepSubmit p] ∧ Moved s t p)
    ∧ (∀ (p : Pkt) (s : State), s.work.activating = true → Ends (.stepSubmit p) s fun t => t.dev = s.dev)
    ∧ (∀ (p : Pkt) (s : State), s.starts opStepCancel p = true → 15 < p.arg 12 1 →
        Ends (.stepCancel p) s fun t => Answered s t p .refusedFormat ∧ t.dev.step = s.dev.step)
    ∧ (∀ (p : Pkt) (s : State) (x : Step), s.starts opStepCancel p = true → p.arg 12 1 ≤ 15 →
        (s.work.ringSteps p.fn (p.arg 12 1)).find? (fun x => x.seq == p.arg 16 3 && (x.phase == .read || x.phase == .staged))
          = some x → s.work.stepOf x.id = some x →
        Ends (.stepCancel p) s fun t => Answered s t p .ok (.count 1)
          ∧ ∀ y ∈ t.dev.step.steps, y.id = x.id → y.phase = .ended)
    ∧ ∀ (p : Pkt) (s : State), s.starts opStepCancel p = true → p.arg 12 1 ≤ 15 →
        (∀ x ∈ s.dev.step.steps, x.span = p.fn → x.ring = p.arg 12 1 → x.seq = p.arg 16 3 →
          x.phase ≠ .read ∧ x.phase ≠ .staged) →
        Ends (.stepCancel p) s fun t => Answered s t p .ok (.count 0) ∧ t.dev.step = s.dev.step

/-- When STEP_ADMIT comes for the ring that admission picks, no evaluation is due on it, its head step passes the checks
of admission and no COLD adapter has to be fetched: the step is in its compute phase, with the bindings found, its
request entries and its seed; the counter at 0x200 of the span goes up by 1, and a step without a seed of its own
takes the span's seed, which goes up by 1. A head step that a check refuses runs on no more. -/
def Obligations.AdmissionStartsComputePhase : Prop :=
  (∀ (n r : Nat) (x : Step) (a : Admission) (s : State), s.work.admitPick n = some r → (s.work.sched n r).evalDue = none →
      s.work.ringHead n r = some x → s.work.admitCheck x = .ok a → s.work.coldOnes a = [] →
      Ends (.stepAdmit n r) s fun t =>
        (∃ y ∈ t.dev.step.steps, y.id = x.id ∧ y.phase = .compute ∧ y.binds = a.bind.binds ∧ y.requests = a.bind.requests
          ∧ y.seed = (if x.seedValid = true then x.seedIn else (s.work.sp n).seed))
        ∧ Sparse.get (fun _ => 0#64) t.dev.obs.cnt (4096 * n + 0x200)
            = Sparse.get (fun _ => 0#64) s.dev.obs.cnt (4096 * n + 0x200) + 1
        ∧ (t.work.sp n).seed = (if x.seedValid = true then (s.work.sp n).seed else (s.work.sp n).seed + 1#64))
    ∧ ∀ (n r : Nat) (x : Step) (st : Status) (d : Detail) (rs : List ReqEntry) (s : State), s.work.admitPick n = some r →
        (s.work.sched n r).evalDue = none → s.work.ringHead n r = some x → s.work.stepOf x.id = some x →
        s.work.admitCheck x = .error (st, d, rs) →
        Ends (.stepAdmit n r) s fun t => ∀ y ∈ t.dev.step.steps, y.id = x.id → y.phase = .ended

/-- At a core boundary the first task of a running step that has no core gets the core that placement chooses, unless no
task of the step has started and a securing step of its span is due. While a step of a ring runs and its span is
ACTIVE, not stopped and not being frozen, run-ahead stages the ring's next step, whose program is loaded, under the
current generations of the deck slots that its program names. For a running step with one task, which has a core:
PREFETCH of a layer, at or past the task's first, whose one scheduled tile is in a page of the span's own, not hidden
by an UNMAP, not pinned HOT anywhere and not in the core, starts that fetch as a prefetch on the core, where the
prefetch depth there is above 0, the core has a slot to spare and nothing is being fetched. -/
def Obligations.PlacementStagingAndPrefetch : Prop :=
  (∀ (id i l : Nat) (x : Step) (p : Program) (d : TaskDef) (s : State), s.work.stepOf id = some x → x.phase = .compute →
      s.work.afterSecuring x = false → (x.tasks.find? fun t => t.core.isNone && !t.ended).map (·.idx) = some i → s.work.program x.span x.handle = some p →
      p.tasks[i]? = some d →
      s.work.chooseCore x.span p x.sched x.binds
        ((x.homes.find? fun h => h.1 == i).map (·.2)) i d [] = some l →
      Ends (.taskPlaceDeferred id i) s fun t =>
        ∃ y, t.work.stepOf id = some y ∧ ∃ k ∈ y.tasks, k.idx = i ∧ k.core = some l)
    ∧ (∀ (n r : Nat) (x : Step) (p : Program) (s : State), s.work.ringHead n r = some x → s.work.program n x.handle = some p →
        s.work.serving = true → x.phase = .read → (∃ y ∈ s.work.ringSteps n r, y.phase = .compute) →
        (s.work.sp n).mode = .active → (s.work.sp n).stopped = false → (s.work.sp n).freezing = none →
        Ends (.runAheadStage n r) s fun t => ∃ y ∈ t.dev.step.steps, y.id = x.id ∧ y.phase = .staged
          ∧ y.stagedBinds = (s.work.currentBinds x.span).filter fun b => bit p.deckMask b.slot)
    ∧ ∀ (id k l va pa : Nat) (wr : Bool) (x : Step) (p : Program) (q : Task) (s : State), s.work.stepOf id = some x →
        s.work.program x.span x.handle = some p → x.phase = .compute → x.tasks = [q] → q.core = some l → q.ended = false →
        ((p.tasks[q.idx]?).map (·.layer0)).getD 0 ≤ k → 0 < s.work.depth p l →
        runTiles (schedRuns x.sched k 1 q.idx) = [va] → s.work.hidden x (va / pageBytes) = false → isTileAddr va = true →
        s.work.locate x.span x.binds va = .home pa wr → s.work.hotAt x.span va = none →
        (∀ e ∈ (s.work.core' l).tiles, e.addr ≠ va ∧ e.state ≠ .fetching) →
        (s.work.core' l).tiles.length < s.work.slotsOf l →
        Ends (.prefetch id k) s fun t => ∃ e ∈ (t.work.core' l).tiles, e.addr = va ∧ e.state = .fetching ∧ e.prefetch = true

/-- In these clauses no PIN waits for tiles. When a descriptor with nothing outstanding, of a step that is not being
aborted, completes with one whole output tile, for which its core has room and which is pinned HOT nowhere, the core
holds that tile DIRTY and the descriptor is in flight no more. When one without output tiles completes and signals a
token below 65,535, the token goes up by 1. A matrix or attention descriptor of a step that is being aborted is in
flight no more either. When a fetch that the mover has outstanding brings a good tile, not one that names spill tiles,
from a page of the span's own or from the image of a deck page under a generation that the span keeps, with a good
keystone and not marked bad, its core holds the stored tile CLEAN in the slot that the fetch had. -/
def Obligations.DescriptorAndFetchComplete : Prop :=
  (∀ (r : CtxRef) (q va : Nat) (y : Tile) (f : InFlight) (x : Step) (s : State),
      s.dev.step.inflight.find? (fun f => f.step == r.step && f.task == r.task && f.ctx == r.ctx && f.dseq == q) = some f →
      s.work.stepOf r.step = some x → x.aborting = none → f.fail = none → f.look = none → f.remote = 0 → f.gets = [] → f.coll = none →
      f.sig = none → f.writes = [(va, y)] → f.parts = [] → s.work.hotAt x.span va = none → s.work.roomFor f.core [va] = true →
      s.dev.core.pinJobs = [] →
      Ends (.descriptorComplete r q) s fun t =>
        (∃ e, t.work.ent f.core va none = some e ∧ e.data = y ∧ e.state = .dirty)
          ∧ ∀ g ∈ t.dev.step.inflight, ¬ (g.step = f.step ∧ g.task = f.task ∧ g.ctx = f.ctx ∧ g.dseq = f.dseq))
    ∧ (∀ (r : CtxRef) (q k v : Nat) (f : InFlight) (x : Step) (d : Task) (s : State),
        s.dev.step.inflight.find? (fun f => f.step == r.step && f.task == r.task && f.ctx == r.ctx && f.dseq == q) = some f →
        s.work.stepOf r.step = some x → x.aborting = none → f.fail = none → f.look = none → f.remote = 0 → f.gets = [] →
        f.coll = none → f.sig = some k → f.writes = [] →
        (x.tasks.find? fun t => t.idx == r.task) = some d → d.tokens[k]? = some v → v < 65535 → s.dev.core.pinJobs = [] →
        Ends (.descriptorComplete r q) s fun t =>
          ∃ y, t.work.stepOf r.step = some y ∧ ∃ e ∈ y.tasks, e.idx = r.task ∧ e.tokens[k]? = some (v + 1))
    ∧ (∀ (r : CtxRef) (q : Nat) (f : InFlight) (x : Step) (s : State),
        s.dev.step.inflight.find? (fun f => f.step == r.step && f.task == r.task && f.ctx == r.ctx && f.dseq == q) = some f →
        s.work.stepOf r.step = some x → x.aborting.isSome = true → f.fail = none → (f.attn = true ∨ f.engine = .matrix) →
        s.dev.core.pinJobs = [] →
        Ends (.descriptorComplete r q) s fun t =>
          ∀ g ∈ t.dev.step.inflight, ¬ (g.step = f.step ∧ g.task = f.task ∧ g.ctx = f.ctx ∧ g.dseq = f.dseq))
    ∧ ∀ (l va pa : Nat) (gen : Option Nat) (e : TileEnt) (s : State), s.work.ent l va gen = some e → e.state = .fetching →
        (s.work.core' l).outstanding e = true → s.work.fetchSource (s.work.owner l) va gen = some pa →
        (s.work.tileAt pa).keystoneOk = true → spillAddrs va (s.work.tileAt pa) = [] →
        (∀ g, gen = some g → (s.work.tileAt pa).poison = false ∧ ∀ i k im, s.work.deckTile (s.work.owner l) va g = some (i, k) →
          s.work.image i = some im → k ∉ im.bad) → s.dev.core.pinJobs = [] →
        Ends (.tileFetchComplete l va gen .good) s fun t =>
          ∃ e', t.work.ent l va gen = some e' ∧ e'.state = .clean ∧ e'.data = s.work.tileAt pa ∧ e'.slot = e.slot

/-- When every task of a running step has ended with nothing in flight, none of its tickets is an update's, and no other
step is in its commit phase, it enters its commit phase. When a step in its commit phase has no put open and holds
every ACCEPT that it needs, it ends at its commit. Where it heads its ring, no tile it wrote is DIRTY, it holds no
ticket, learning-rate entry, adapter, request or KV chunk, and its command's ring is enabled, the command replies
ST_OK with the step's seed and the summary of its counts. A running step with nothing in flight all of whose open
tasks have cores and whose contexts with descriptors left all wait on tokens or, as the operand says, at pier
barriers, at least one of them, runs on no more when the deadlock time passes. When a pier barrier of one task of a
step that has no other releases, no PIN waits for tiles, and the keystones of the tiles that the task wrote hold, none
of them is DIRTY on its core, unless it is pinned HOT. -/
def Obligations.ComputePhaseEndsAndCommits : Prop :=
  (∀ (id : Nat) (x : Step) (s : State), s.work.stepOf id = some x → x.phase = .compute → (∀ q ∈ x.tasks, q.ended = true) →
      (∀ f ∈ s.dev.step.inflight, f.step ≠ id) → (∀ k ∈ x.tickets, k.update = false) →
      (∀ y ∈ s.dev.step.steps, y.phase ≠ .commit ∧ (y.id = id → y = x)) →
      Ends (.computePhaseEnd id) s fun t => (t.work.stepOf id).map (·.phase) = some .commit)
    ∧ (∀ (id : Nat) (x : Step) (s : State), s.work.stepOf id = some x → x.phase = .commit → x.putsOpen = 0 →
        s.work.acceptsHeld x = true →
        Ends (.stepCommit id) s fun t => ∀ y ∈ t.dev.step.steps, y.id = id → y.phase = .ended)
    ∧ (∀ (id : Nat) (x : Step) (c : Cmd) (s : State), s.work.stepOf id = some x → x.phase = .commit → x.putsOpen = 0 →
        x.tickets = [] → x.lr = [] → x.adapters = [] → x.requests = [] → x.taken = [] →
        (s.work.ringSteps x.span x.ring).head? = some x →
        (∀ l e, e ∈ (s.work.core' l).tiles → e.addr ∈ x.written → e.state ≠ .dirty) →
        s.dev.cmd.cmds.find? (fun c => c.id == x.cmd) = some c → (s.work.ring c.fn c.ring).en = true →
        Ends (.stepCommit id) s fun t => (∀ y ∈ t.dev.step.steps, y.id ≠ id)
          ∧ Given s t c.fn c.ring { tag := c.tag, seq := c.seq, status := .ok, result0 := x.seed.toNat,
                                    result1 := summary x.counts x.genChanged })
    ∧ (∀ (id : Nat) (piers : List (Nat × Nat × Nat)) (x : Step) (p : Program) (s : State), s.work.stepOf id = some x →
        s.work.program x.span x.handle = some p → x.phase = .compute →
        (∀ q ∈ x.tasks, q.ended = false → q.core.isSome = true ∧ ∀ v ∈ q.waits p piers, v.2.isSome = true) →
        (∃ q ∈ x.tasks, q.ended = false ∧ q.waits p piers ≠ []) → (∀ f ∈ s.dev.step.inflight, f.step ≠ id) →
        Ends (.stepDeadlockTimeout ⟨id, piers⟩) s fun t => ∀ y ∈ t.dev.step.steps, y.id = id → y.phase = .ended)
    ∧ ∀ (id pier l : Nat) (x : Step) (p : Program) (q : Task) (s : State), s.work.stepOf id = some x →
        s.work.program x.span x.handle = some p → x.phase = .compute → pier < p.piers → x.tasks = [q] → q.core = some l →
        (∀ e ∈ (s.work.core' l).tiles, e.addr ∈ q.written → e.data.keystoneOk = true) → s.dev.core.pinJobs = [] →
        Ends (.pierBarrierRelease id pier [q.idx]) s fun t =>
          ∀ e ∈ (t.work.core' l).tiles, e.addr ∈ q.written → e.gen = none → e.pin ≠ .hot → e.state ≠ .dirty

/-- A cluster in service that hosts no work, holds no HOT pin and has no core under test sleeps. A sleeping cluster that
is waking runs again, its voltage between 600 and 900 mV (which value is free), with its die awake. A die whose four
clusters sleep goes to sleep where DIE_SLEEP_EN is set. Nothing but cores, clusters and dies changes. -/
def Obligations.ClustersAndDiesSleepAndWake : Prop :=
  (∀ (c : Nat) (s : State), c < 16 → s.work.serving = true → (s.work.cluster c).asleep = false →
      (∀ l ∈ s.work.coresIn c, s.work.hostsWork l = false ∧ ∀ e ∈ (s.work.core' l).tiles, e.pin ≠ .hot) →
      (∀ j ∈ s.dev.core.tests, ∀ k ∈ j.cores, k / 9 ≠ c) →
      Ends (.clusterSleep c) s fun t => t.work.cluster c = { s.work.cluster c with asleep := true, waking := false }
        ∧ ∀ p, p ≠ Part.core → p.same s t)
    ∧ (∀ (c : Nat) (s : State), c < 16 → (s.work.cluster c).asleep = true → (s.work.cluster c).waking = true →
        (s.work.cluster c).dead = false →
        Ends (.clusterWakeDone c) s fun t => (t.work.cluster c).asleep = false ∧ (t.work.cluster c).waking = false
          ∧ 600 ≤ (t.work.cluster c).millivolts ∧ (t.work.cluster c).millivolts ≤ 900 ∧ (t.work.die (c / 4)).asleep = false
          ∧ ∀ p, p ≠ Part.core → p.same s t)
    ∧ ∀ (d : Nat) (s : State), d < 4 → bit (s.work.regv 0 0x550C) 1 = true → (s.work.die d).resetting = false →
        (∀ k < 4, (s.work.cluster (4 * d + k)).asleep = true ∧ (s.work.cluster (4 * d + k)).waking = false) →
        Ends (.dieSleep d) s fun t => t.work.die d = { s.work.die d with asleep := true } ∧ ∀ p, p ≠ Part.core → p.same s t

/-- For every descriptor kind: when the context is READY, its next descriptor is of that kind, its tokens have come, the
context and the engines have room, no other context has waited longer, the step is not being aborted, and the engine's
run on the operands as they stand ends with its results, the descriptor is in flight with those results, and its
context stands at the next descriptor. -/
def Obligations.DescriptorsIssueWithTheirResults : Prop :=
  (∀ (r : CtxRef) (upsets : List Upset) (e₀ e : Eng) (s : State), s.work.engStart r [0x10] .matrix = some e₀ →
        (Act.matmul upsets).exec e₀ = (.ok (), e) → Ends (.matmul r upsets) s fun t => Issued r e t)
    ∧ (∀ (r : CtxRef) (upsets : List Upset) (e₀ e : Eng) (s : State), s.work.engStart r [0x11] .matrix = some e₀ →
        (Act.adapter upsets).exec e₀ = (.ok (), e) → Ends (.adapter r upsets) s fun t => Issued r e t)
    ∧ (∀ (r : CtxRef) (e₀ e : Eng) (s : State), s.work.engStart r [0x20] .vector = some e₀ →
        Act.vector.exec e₀ = (.ok (), e) → Ends (.vector r) s fun t => Issued r e t)
    ∧ (∀ (r : CtxRef) (e₀ e : Eng) (s : State), s.work.engStart r [0x21] .vector = some e₀ →
        Act.gemv.exec e₀ = (.ok (), e) → Ends (.gatherGemv r) s fun t => Issued r e t)
    ∧ (∀ (r : CtxRef) (e₀ e : Eng) (s : State), s.work.engStart r [0x22] .vector = some e₀ →
        Act.update.exec e₀ = (.ok (), e) → Ends (.update r) s fun t => Issued r e t)
    ∧ (∀ (r : CtxRef) (upsets : List Upset) (e₀ e : Eng) (s : State), s.work.engStart r [0x30] .matrix = some e₀ →
        (Act.attnFwd upsets).exec e₀ = (.ok (), e) → Ends (.attnFwd r upsets) s fun t => Issued r e t)
    ∧ (∀ (r : CtxRef) (upsets : List Upset) (e₀ e : Eng) (s : State), s.work.engStart r [0x31] .matrix = some e₀ →
        (Act.attnBwd upsets).exec e₀ = (.ok (), e) → Ends (.attnBwd r upsets) s fun t => Issued r e t)
    ∧ (∀ (r : CtxRef) (e₀ e : Eng) (s : State), s.work.engStart r [0x32] .vector = some e₀ →
        Act.kvAppend.exec e₀ = (.ok (), e) → Ends (.kvAppend r) s fun t => Issued r e t)
    ∧ (∀ (r : CtxRef) (bad : List Nat) (e₀ e : Eng) (s : State), s.work.engStart r [0x40] .gather = some e₀ →
        (Act.embLookup bad).exec e₀ = (.ok (), e) → Ends (.embLookup ⟨r, bad⟩) s fun t => Issued r e t)
    ∧ (∀ (r : CtxRef) (e₀ e : Eng) (s : State), s.work.engStart r [0x41] .gather = some e₀ →
        Act.embGrad.exec e₀ = (.ok (), e) → Ends (.embGrad r) s fun t => Issued r e t)
    ∧ (∀ (r : CtxRef) (e₀ e : Eng) (s : State), s.work.engStart r [0x50] .mover = some e₀ →
        Act.putTiles.exec e₀ = (.ok (), e) → Ends (.put r) s fun t => Issued r e t)
    ∧ (∀ (r : CtxRef) (e₀ e : Eng) (s : State), s.work.engStart r [0x51] .mover = some e₀ →
        Act.getTiles.exec e₀ = (.ok (), e) → Ends (.get r) s fun t => Issued r e t)
    ∧ (∀ (r : CtxRef) (e₀ e : Eng) (s : State), s.work.engStart r [0x52] .mover = some e₀ →
        (Act.collective false).exec e₀ = (.ok (), e) → Ends (.rscat r) s fun t => Issued r e t)
    ∧ ∀ (r : CtxRef) (e₀ e : Eng) (s : State), s.work.engStart r [0x53] .mover = some e₀ →
        (Act.collective true).exec e₀ = (.ok (), e) → Ends (.agath r) s fun t => Issued r e t

/-- For MATMUL, VECTOR and KV_APPEND: when the engine's run meets a tile that is not resident, nothing of the descriptor
is in flight, the span's counter at 0x288 goes up by 1, and the context waits for that tile. For Viaduct descriptors
in plaintext or under a key that the span may use: a GET whose destination tiles may all be written is in flight and
waits for exactly the tiles of its remote range, and a PUT whose tiles are all resident with good keystones is in
flight with nothing to write. An RSCAT or AGATH whose list of ranks is readable and names this rank, for which no
packet has come early, is in flight as a collective with nothing written yet: an RSCAT whose tiles stand as operands
of its format and whose own chunk may be written, an AGATH whose own chunk is resident and whose tiles may all be
written. -/
def Obligations.MissingTilesAndFabricTransfersWait : Prop :=
  (∀ (r : CtxRef) (upsets : List Upset) (e₀ e : Eng) (va : Nat) (gen : Option Nat) (s : State), s.work.engStart r [0x10] .matrix = some e₀ →
        (Act.matmul upsets).exec e₀ = (.error (.wait va gen), e) →
        Ends (.matmul r upsets) s fun t => t.dev.step.inflight = s.dev.step.inflight
          ∧ (t.work.ctxAt r).map (·.state) = some (.waitFetch va gen)
          ∧ Sparse.get (fun _ => 0#64) t.dev.obs.cnt (4096 * e₀.x.span + 0x288)
              = Sparse.get (fun _ => 0#64) s.dev.obs.cnt (4096 * e₀.x.span + 0x288) + 1)
    ∧ (∀ (r : CtxRef) (e₀ e : Eng) (va : Nat) (gen : Option Nat) (s : State), s.work.engStart r [0x20] .vector = some e₀ →
        Act.vector.exec e₀ = (.error (.wait va gen), e) →
        Ends (.vector r) s fun t => t.dev.step.inflight = s.dev.step.inflight
          ∧ (t.work.ctxAt r).map (·.state) = some (.waitFetch va gen)
          ∧ Sparse.get (fun _ => 0#64) t.dev.obs.cnt (4096 * e₀.x.span + 0x288)
              = Sparse.get (fun _ => 0#64) s.dev.obs.cnt (4096 * e₀.x.span + 0x288) + 1)
    ∧ (∀ (r : CtxRef) (e₀ e : Eng) (va : Nat) (gen : Option Nat) (s : State), s.work.engStart r [0x32] .vector = some e₀ →
        Act.kvAppend.exec e₀ = (.error (.wait va gen), e) →
        Ends (.kvAppend r) s fun t => t.dev.step.inflight = s.dev.step.inflight
          ∧ (t.work.ctxAt r).map (·.state) = some (.waitFetch va gen)
          ∧ Sparse.get (fun _ => 0#64) t.dev.obs.cnt (4096 * e₀.x.span + 0x288)
              = Sparse.get (fun _ => 0#64) s.dev.obs.cnt (4096 * e₀.x.span + 0x288) + 1)
    ∧ (∀ (r : CtxRef) (e : Eng) (s : State), s.work.engStart r [0x51] .mover = some e → e.keyOk →
        (∀ j < rd e.desc 28 4, e.writable (tileAfter (rd e.desc 16 6) j) = true) →
        Ends (.get r) s (e.runs r fun f => f.writes = [] ∧ f.gets = (List.range (rd e.desc 28 4)).map fun j =>
          (rd e.desc 4 2, tileAfter (rd e.desc 22 6) j, tileAfter (rd e.desc 16 6) j)))
    ∧ (∀ (r : CtxRef) (e : Eng) (s : State), s.work.engStart r [0x50] .mover = some e → e.keyOk →
        (∀ j < rd e.desc 28 4, (e.sees (tileAfter (rd e.desc 16 6) j)).isSome = true) →
        Ends (.put r) s (e.runs r fun f => f.writes = [] ∧ f.gets = []))
    ∧ (∀ (r : CtxRef) (own : Nat) (e : Eng) (s : State), s.work.engStart r [0x52] .mover = some e → e.keyOk →
        (∀ j < ceilDiv (2 * rd e.desc 32 2) 4096, e.readable (tileAfter (rd e.desc 22 6) j) = true) →
        s.work.rank = some own → own ∈ e.ranks → (∀ f ∈ s.dev.vdt.colls, f.dstSpan ≠ e.x.span) →
        (∀ j < rd e.desc 28 4, e.readable (tileAfter (rd e.desc 16 6) j) = true
          ∧ (e.operand (tileAfter (rd e.desc 16 6) j)).format = ((Fmt.ofCode (rd e.desc 2 1)).getD .fp32).code) →
        (∀ j < rd e.desc 28 4 / e.ranks.length,
          e.writable (tileAfter (tileAfter (rd e.desc 16 6) (e.ranks.idxOf own * (rd e.desc 28 4 / e.ranks.length))) j) = true) →
        Ends (.rscat r) s (e.runs r fun f => f.writes = [] ∧ f.coll.isSome = true))
    ∧ ∀ (r : CtxRef) (own : Nat) (e : Eng) (s : State), s.work.engStart r [0x53] .mover = some e → e.keyOk →
        (∀ j < ceilDiv (2 * rd e.desc 32 2) 4096, e.readable (tileAfter (rd e.desc 22 6) j) = true) →
        s.work.rank = some own → own ∈ e.ranks → (∀ f ∈ s.dev.vdt.colls, f.dstSpan ≠ e.x.span) →
        (∀ j < rd e.desc 28 4 / e.ranks.length,
          (e.sees (tileAfter (rd e.desc 16 6) (e.ranks.idxOf own * (rd e.desc 28 4 / e.ranks.length) + j))).isSome = true) →
        (∀ j < rd e.desc 28 4, e.writable (tileAfter (rd e.desc 16 6) j) = true) →
        Ends (.agath r) s (e.runs r fun f => f.writes = [] ∧ f.coll.isSome = true)

/-- A context issues its next descriptor, and the descriptor is in flight with exactly its output tiles, in each of these
cases. MATMUL without an upset: every operand tile is resident with a good keystone, not poisoned, of its operand's
format, not malformed and not forwarding, every output tile may be written, and the compute check of every block
agrees or the integer path serves it. ADAPTER without an upset and without a deferral list: the same, its segment
table is readable, in order, apart from the output, and every segment is BASE_ONLY. VECTOR without rotary, without
measuring or applying, and with REDUCE at most 5: its streams stand, and its outputs may be written, with the tiles
that they cover in part resident. GATHER_GEMV of an ADAPTER descriptor of its program: the deferral list ends in its
first tile, which is readable, its segments are in order and all BASE_ONLY; it writes nothing. UPDATE: its records are
readable with reserved bytes of zero, its streams stand, and its outputs may be written, with the tiles that they
cover in part resident. -/
def Obligations.ComputeDescriptorsCompleteOnOperandsThatStand : Prop :=
  (∀ (r : CtxRef) (d : MatDesc) (e : Eng) (s : State), s.work.engStart r [0x10] .matrix = some e → MatDesc.of e.desc = some d →
      e.multiplies d → Ends (.matmul r []) s (e.runs r fun f => f.writes.map (·.1) = d.tilesC))
    ∧ (∀ (r : CtxRef) (d : MatDesc) (e : Eng) (s : State), s.work.engStart r [0x11] .matrix = some e → MatDesc.of e.desc = some d →
        e.multiplies d → d.addrDefer = 0 →
        (∀ j < ceilDiv d.segs 256, e.readable (tileAfter d.addrSeg j) = true ∧ tileAfter d.addrSeg j ∉ d.tilesC) →
        segFault d.m 0 0 (e.segments d) = none → (∀ x ∈ e.segments d, x.baseOnly = true) →
        Ends (.adapter r []) s (e.runs r fun f => f.writes.map (·.1) = d.tilesC))
    ∧ (∀ (r : CtxRef) (d : VecDesc) (n rows : Nat) (fr : Fmt) (e : Eng) (s : State), s.work.engStart r [0x20] .vector = some e →
        d = VecDesc.of e.desc → n = (if d.vlLoad = true then d.vlen else e.vlen) → fr = (if d.fp64 = true then .fp64 else .fp32) →
        rows = ceilDiv n d.rowLen * (if d.reduce = 5 then 2 else 1) → bit d.stages 5 = false → d.mode = 0 → d.reduce ≤ 5 →
        e.streams d.fx d.x (bcastLen (d.bcast % 4) n d.rowLen) → e.streams d.fy d.y (bcastLen (d.bcast / 4 % 4) n d.rowLen) →
        e.streams d.fz d.z (bcastLen (d.bcast / 16 % 4) n d.rowLen) →
        (bit d.stages 4 = true → e.takesStream fr d.r rows) →
        (∀ fo, d.fo = some fo → (bit d.stages 4 && d.noStore) = false → e.takesStream fo d.o n) →
        Ends (.vector r) s (e.runs r fun f => f.writes.map (·.1)
          = (if bit d.stages 4 = true then streamTiles fr d.r rows else [])
            ++ match d.fo with
               | some fo => if (bit d.stages 4 && d.noStore) = true then [] else streamTiles fo d.o n
               | none => []))
    ∧ (∀ (r : CtxRef) (p : Program) (d : MatDesc) (l : List Segment') (e : Eng) (s : State),
        s.work.engStart r [0x21] .vector = some e → s.work.program e.x.span e.x.handle = some p →
        p.deferrer e.task e.desc = some d → e.readable (tileAfter (rd e.desc 46 6) 0) = true →
        e.deferrals (rd e.desc 46 6) = some l → segFault d.m 0 0 l = none → (∀ x ∈ l, x.baseOnly = true) →
        Ends (.gatherGemv r) s (e.runs r fun f => f.writes = []))
    ∧ ∀ (r : CtxRef) (d : VecDesc) (n per : Nat) (e : Eng) (s : State), s.work.engStart r [0x22] .vector = some e →
        d = VecDesc.of e.desc → n = (if d.vlLoad = true then d.vlen else e.vlen) → per = [0, 1, 1, 2].getD (d.arith % 4) 0 →
        e.readable d.p = true → e.readable d.r = true → resvZero [(0, 24), (28, 12)] ((e.operand d.r).slice 0 64) = true →
        e.streams d.fx d.x n → e.streams d.fy d.y n → (per ≠ 0 → e.streams d.fz d.z (per * n)) →
        e.takesStream .fp32 d.y n → (per ≠ 0 → e.takesStream .fp32 d.z (per * n)) →
        (∀ fo, d.fo = some fo → d.o ≠ 0 → e.takesStream fo d.o n) →
        Ends (.update r) s (e.runs r fun f => f.writes.map (·.1)
          = streamTiles .fp32 d.y n ++ (if per = 0 then [] else streamTiles .fp32 d.z (per * n))
            ++ match d.fo with
               | some fo => if d.o = 0 then [] else streamTiles fo d.o n
               | none => [])

/-- A context issues its next descriptor, and the descriptor is in flight, in each of these cases. Attention with one
shared list and without ROPE: the parameter record, query positions and queries stand, O and statistics may be written
(ATTN_BWD: O, dO, statistics and dQ stand, dQ may be written, FMT_DKV is FP32, BF16 or FP16, and the gradient's list
stands), the list's entries are in order, and the masks of position skip every page visited: its output tiles are
those of O and the statistics, or of dQ. KV_APPEND of one token without ROPE to an empty list, its cache format not a
Girder one: record, keys, values and list stand, and the list and the tail's tiles are readable and may be written: it
writes the list. Without POOL, on a table that is not stalled: EMB_LOOKUP without an uncorrectable read, of rows that
this owner can read at once with their verification keys, its 512 requests not all in use and its output free to be
written: its output tiles are those of its rows. EMB_GRAD: its gradients stand, and every row has an owner, with its
map tiles readable and its local index in range where this rank owns it. -/
def Obligations.AttentionAndEmbeddingDescriptorsCompleteOnOperandsThatStand : Prop :=
  (∀ (r : CtxRef) (d : AttnDesc) (e : Eng) (s : State), s.work.engStart r [0x30] .matrix = some e → AttnDesc.of e.desc = some d →
      d.shared = true → d.rope = false → e.attends d → e.skipsPages d d.list true →
      (∀ va ∈ matTiles (d.fo.getD .fp32) d.o (ceilDiv d.dim (d.fo.getD .fp32).rowElems) (d.heads * d.m) d.dim, e.writable va = true) →
      e.takesStream .fp32 d.stats (2 * (d.heads * d.m)) →
      Ends (.attnFwd r []) s (e.runs r fun f => f.writes.map (·.1)
        = matTiles (d.fo.getD .fp32) d.o (ceilDiv d.dim (d.fo.getD .fp32).rowElems) (d.heads * d.m) d.dim
          ++ streamTiles .fp32 d.stats (2 * (d.heads * d.m))))
    ∧ (∀ (r : CtxRef) (d : AttnDesc) (fo : Fmt) (rows : Nat) (qs : List Nat) (e : Eng) (s : State),
        s.work.engStart r [0x31] .matrix = some e → AttnDesc.of e.desc = some d → fo = d.fo.getD .fp32 → rows = d.heads * d.m →
        qs = matTiles .fp32 ((e.operand d.p).num 24 6) (ceilDiv d.dim 16) rows d.dim →
        d.shared = true → d.rope = false → e.attends d → Fmt.ofCode ((e.operand d.p).num 36 1) ∈ [some .fp32, some .bf16, some .fp16] →
        (∀ va ∈ matTiles fo d.o (ceilDiv d.dim fo.rowElems) rows d.dim, e.presents fo va = true) →
        (∀ va ∈ matTiles fo ((e.operand d.p).num 18 6) (ceilDiv d.dim fo.rowElems) rows d.dim, e.presents fo va = true) →
        e.streams (some .fp32) d.stats (2 * rows) → (∀ va ∈ qs, e.presents .fp32 va = true ∧ e.writable va = true) →
        e.skipsPages d d.list true → e.skipsPages d ((e.operand d.p).num 30 6) false →
        Ends (.attnBwd r []) s (e.runs r fun f => f.writes.map (·.1) = qs))
    ∧ (∀ (r : CtxRef) (d : AttnDesc) (l tail : Nat) (tails : List Nat) (e : Eng) (s : State),
        s.work.engStart r [0x32] .vector = some e → AttnDesc.of e.desc = some d → l = tileAfter d.list 0 → tail = (e.operand l).num 8 8 →
        tails = (List.range (keyTiles .bf16 d.dim)).map (tileAfter tail)
          ++ (List.range (ceilDiv d.dim 64)).map (fun b => tileAfter tail (keyTiles .bf16 d.dim + 2 * b)) →
        d.m = 1 → d.rope = false → d.fkv.girder = false → e.readable d.p = true → resvZero [(0, 44)] ((e.operand d.p).slice 0 64) = true →
        (∀ va ∈ matTiles d.fq d.q (ceilDiv d.dim d.fq.rowElems) 1 d.dim, e.presents d.fq va = true) →
        (∀ va ∈ matTiles d.fq d.o (ceilDiv d.dim d.fq.rowElems) 1 d.dim, e.presents d.fq va = true) →
        e.readable l = true → e.writable l = true → (e.operand l).num 0 8 = 0 → tail < 2 ^ 48 → (e.operand l).num 16 8 < 2 ^ 48 →
        (e.operand l).num 24 8 < 2 ^ 16 → (∀ va ∈ tails, e.readable va = true ∧ e.writable va = true) →
        Ends (.kvAppend r) s (e.runs r fun f => ∃ y, (l, y) ∈ f.writes))
    ∧ (∀ (r : CtxRef) (t : Table) (e : Eng) (s : State), s.work.engStart r [0x40] .gather = some e → e.embeds →
        s.work.table e.x.span (rd e.desc 4 2) = some t → t.id = rd e.desc 4 2 → t.stalled = false →
        s.work.gatherBusy e.core (fun _ => false) < 512 →
        (∀ q ∈ e.rowIds, ∃ b g, s.work.lookUp e.x.span t (e.epochOf t).1 (e.epochOf t).2 q.1 = .row b false g ∧ t.vkeyOk b = true) →
        e.takesStream ((Fmt.ofCode (rd e.desc 2 1)).getD .fp32) (rd e.desc 34 6) (rd e.desc 40 4 * t.dim) →
        Ends (.embLookup ⟨r, []⟩) s (e.runs r fun f => f.writes.map (·.1)
          = streamTiles ((Fmt.ofCode (rd e.desc 2 1)).getD .fp32) (rd e.desc 34 6) (rd e.desc 40 4 * t.dim)))
    ∧ ∀ (r : CtxRef) (t : Table) (e : Eng) (s : State), s.work.engStart r [0x41] .gather = some e → e.embeds →
        s.work.table e.x.span (rd e.desc 4 2) = some t → t.stalled = false →
        e.streams (Fmt.ofCode (rd e.desc 2 1)) (rd e.desc 34 6) (rd e.desc 40 4 * t.dim) →
        (∀ q ∈ e.rowIds, s.work.carrierFault e.x.span (t.mapTiles q.1) = none
          ∧ ∃ k j, s.work.ownerOf e.x.span t q.1 = some (k, j) ∧ (s.work.isSelf t k = true → j < s.work.rowsHere e.x.span t)) →
        Ends (.embGrad r) s (e.runs r fun f => f.writes = [])

/-- When TABLE_CREATE starts with a descriptor in range whose id is not in use and whose regions lie in WRITABLE pages,
the span has that table, every epoch at 0, and the reply is ST_OK. When HOTSET_REFRESH starts for a table that applies
no epoch, with a list and a map that read well, none of whose rows this rank holds, the table has no hot tile and the
reply is ST_OK with the number of rows skipped. Where the rows that it holds lie in one tile of a page of the span's
own, pinned HOT nowhere, the table has no hot tile yet and no PIN waits, and the first core of the span that takes
tasks has room for the pin and a slot to spare, that core holds the tile pinned HOT, the table's hot set is that tile
there, and the reply is the same. -/
def Obligations.TablesAreCreatedAndTheirHotSetReplaced : Prop :=
  (∀ (p : Pkt) (s : State), s.starts opTableCreate p = true → descriptorOk p.block = true →
      s.work.table p.fn (Table.ofDesc p.block).id = none →
      (∀ q ∈ (Table.ofDesc p.block).regions, s.work.regionFault p.fn q.1 q.2 = none) →
      Ends (.tableCreate p) s fun t => t.work.table p.fn (Table.ofDesc p.block).id = some (Table.ofDesc p.block) ∧ Answered s t p .ok)
    ∧ (∀ (p : Pkt) (s : State) (b : Table) (sk : Nat), s.starts opHotsetRefresh p = true → p.arg 12 2 < 1024 →
        s.work.table p.fn (p.arg 12 2) = some b → b.id = p.arg 12 2 → p.arg 24 4 ≤ 65536 → isTileAddr (p.arg 16 6) = true →
        s.work.listBad p.fn (p.arg 16 6) (ceilDiv (p.arg 24 4) 512) = none → b.applying = none →
        s.work.carrierFault p.fn (((List.range (p.arg 24 4)).map fun i => s.work.streamNum p.fn (p.arg 16 6) (8 * i) 8).flatMap b.mapTiles).dedup = none →
        s.work.hotTiles p.fn b ((List.range (p.arg 24 4)).map fun i => s.work.streamNum p.fn (p.arg 16 6) (8 * i) 8) = some ([], sk) →
        Ends (.hotsetRefresh p) s fun t => t.work.table p.fn (p.arg 12 2) = some { b with hot := [] } ∧ AnsweredOk s t p (.count sk))
    ∧ ∀ (p : Pkt) (s : State) (b : Table) (sk va l pa : Nat) (wr : Bool), s.starts opHotsetRefresh p = true → p.arg 12 2 < 1024 →
        s.work.table p.fn (p.arg 12 2) = some b → b.id = p.arg 12 2 → p.arg 24 4 ≤ 65536 → isTileAddr (p.arg 16 6) = true →
        s.work.listBad p.fn (p.arg 16 6) (ceilDiv (p.arg 24 4) 512) = none → b.applying = none →
        s.work.carrierFault p.fn (((List.range (p.arg 24 4)).map fun i => s.work.streamNum p.fn (p.arg 16 6) (8 * i) 8).flatMap b.mapTiles).dedup = none →
        s.work.hotTiles p.fn b ((List.range (p.arg 24 4)).map fun i => s.work.streamNum p.fn (p.arg 16 6) (8 * i) 8) = some ([va], sk) →
        b.hot = [] → s.dev.core.pinJobs = [] → ((s.work.coresOf p.fn).filter s.work.placeable).head? = some l →
        s.work.locate p.fn (s.work.currentBinds p.fn) va = .home pa wr → s.work.hotAt p.fn va = none → s.work.pinsFit l 1 = true →
        (∀ e ∈ (s.work.core' l).tiles, e.addr ≠ va) → (s.work.core' l).tiles.length < s.work.slotsOf l →
        Ends (.hotsetRefresh p) s fun t => (∃ e ∈ (t.work.core' l).tiles, e.addr = va ∧ e.pin = .hot)
          ∧ t.work.table p.fn (p.arg 12 2) = some { b with hot := [(l, va)] } ∧ AnsweredOk s t p (.count sk)

/-- When ROW_MIGRATE starts for one row that this rank owns, not a folded one that waits for its flip, to a rank of the
group, in a table with a directory that has no entry yet, the move is pending with the row's old home, the directory
has its MOVING entry, and the command is in progress. The copy step of the first move that is not copied and may be,
in a table that does not stall and whose records read well, marks it copied. The release of the first flipped move
with no held look-up of its rows ends it, and its command replies ST_OK. -/
def Obligations.RowsMoveCopyAndRelease : Prop :=
  (∀ (p : Pkt) (s : State) (b : Table) (e : DirEnt) (r j : Nat), s.starts opRowMigrate p = true → p.arg 12 2 < 1024 →
      s.work.table p.fn (p.arg 12 2) = some b → b.id = p.arg 12 2 → p.arg 24 2 = 1 → isTileAddr (p.arg 16 6) = true →
      s.work.listBad p.fn (p.arg 16 6) 1 = none → s.work.carrierFault p.fn b.listTiles = none →
      (DirEnt.read ((List.range 32).map fun i => BitVec.ofNat 8 (s.work.streamNum p.fn (p.arg 16 6) i 1))).1 = e →
      s.work.ownerOf p.fn b e.row = some (r, j) → s.work.isSelf b r = true → b.folding j = false → e.newRank ∈ s.work.groupRanks p.fn b →
      (s.work.isSelf b e.newRank = true → e.newLocal < b.localRows) → b.dir = [] → b.dirLog2 ≠ 0 →
      Ends (.rowMigrate p) s fun t => s.work.cmdOf opRowMigrate p ∈ t.dev.cmd.cmds ∧ ∃ b', t.work.table p.fn (p.arg 12 2) = some b'
        ∧ b'.dir = [{ e with state := .moving, oldRank := r, oldLocal := j }]
        ∧ b'.moves = b.moves ++ [{ cmd := s.dev.cmd.nextId, rows := [{ e with state := .moving, oldRank := r, oldLocal := j }],
                                   epoch := (b.applying.getD b.applied) + 1, copied := false, acked := false, flipped := false }])
    ∧ (∀ (n i : Nat) (b : Table) (m : RowMove) (s : State), s.work.table n i = some b → b.id = i → b.stalled = false →
        b.moves.find? (fun m => !m.copied && decide (m.epoch ≤ b.applied + 1)) = some m →
        (∀ e ∈ m.rows, ∃ y, s.work.readRow n b e.oldLocal = some (y, false) ∧ b.checksOk y = true) →
        Ends (.rowMigrateCopy n i) s fun t => ∃ b', t.work.table n i = some b' ∧ ∀ q ∈ b'.moves, q.cmd = m.cmd → q.copied = true)
    ∧ ∀ (n i : Nat) (b : Table) (m : RowMove) (s : State), s.work.table n i = some b →
        b.moves.find? (fun m => m.flipped && !(b.held.any fun h => m.rows.any fun e => e.row == h.row)) = some m →
        Ends (.rowMigrateRelease n i) s fun t => t.work.table n i = some { b with moves := b.moves.filter fun q => q.cmd != m.cmd }
          ∧ Finished s t m.cmd .ok

/-- When the owner may close the epoch after APPLIED and its map reads well, that epoch is being applied and none of its
records is left in the table. When its application is done and no epoch is void, APPLIED is that epoch and none is
being applied. A held look-up of another rank whose row can be read now is held no more, whether the read is
uncorrectable or not. When a rank is silent in a table that holds no look-up, while no step is in its commit phase,
the table stalls. -/
def Obligations.EpochsCloseApplyServeAndStall : Prop :=
  (∀ (n i : Nat) (b : Table) (s : State), s.work.table n i = some b → b.id = i → s.work.mayClose n b = true →
      s.work.carrierFault n b.listTiles = none →
      Ends (.epochClose n i) s fun t => ∃ b', t.work.table n i = some b' ∧ b'.applying = some (b.applied + 1)
        ∧ b'.applied = b.applied ∧ ∀ q ∈ b'.records, q.epoch ≠ b.applied + 1)
    ∧ (∀ (n i e : Nat) (b : Table) (s : State), s.work.table n i = some b → b.applying = some e → b.voids = [] →
        Ends (.epochApplyDone n i) s fun t => ∃ b', t.work.table n i = some b' ∧ b'.applied = e ∧ b'.applying = none
          ∧ b'.ticket = b.ticket ∧ b'.records = b.records)
    ∧ (∀ (n i k : Nat) (b : Table) (h : HeldLook) (y : List Byte) (pz g bad : Bool) (s : State), s.work.table n i = some b →
        b.held[k]? = some h → s.work.isSelf b h.src = false → s.work.lookUp n b h.epoch h.update h.row = .row y pz g →
        Ends (.lookupServe n i ⟨k, bad⟩) s fun t => t.work.table n i = some { b with held := b.held.eraseIdx k })
    ∧ ∀ (n i r : Nat) (b : Table) (s : State), s.work.table n i = some b → b.stalled = false → b.held = [] →
        s.work.silentRank n b = some r → (∀ x ∈ s.dev.step.steps, x.phase ≠ .commit) →
        Ends (.embBarrierTimeout n i) s fun t => t.work.table n i = some { b with stalled := true }

/-- When the next frame of a flow arrives for this rank and a span that takes it: a PUT of one tile to a tile that may be
written, pinned HOT nowhere and not traced, stores its payload there; a GET_REQ for a stored tile with a good keystone
puts its response on the open flow back; a GET_RESP with a good tile that a GET awaits becomes that descriptor's
output; a record for a row of this owner, whose map reads well, in an open epoch with a free entry and, unless the
table is deterministic, with no entry for that row yet, is kept and counted at 0x1B8; a COLL frame, not one of a
reconstruction, waits while no descriptor runs a collective. A packet of 4,096 bytes of a message in parts is kept for
the next one. A frame for another rank changes nothing that data frames act on, and one that fails its checks nothing
either: it is counted in the bucket of its port. -/
def Obligations.DataFramesTakeEffectInTurn : Prop :=
  (∀ (f : Arrival) (pa : Nat) (s : State), s.due f = true → f.ty = tyPut → isDelta f.toFrame = false →
      isCopy f.ty f.arg = false → f.payload.length = tileBytes →
      s.work.writeFault f.dstSpan f.arg = none → (Tile.ofBytes f.payload).keystoneOk = true →
      s.work.hotAt f.dstSpan f.arg = none → s.work.traceOf f.dstSpan = none →
      s.work.locate f.dstSpan [] f.arg = .home pa true →
      Ends (.putFrame f) s fun t => ∀ i y, i < 4096 → f.payload[i]? = some y → t.byte (pa + i) = y)
    ∧ (∀ (f : Arrival) (pa : Nat) (wr : Bool) (x : Tile) (g : Flow) (s : State), s.due f = true → f.ty = tyGetReq → f.payload = [] →
        isTileAddr f.arg = true → s.work.locate f.dstSpan (s.work.currentBinds f.dstSpan) f.arg = .home pa wr →
        s.work.rowTile f.dstSpan f.arg = some x → x.keystoneOk = true →
        s.dev.vdt.flows.find? (fun g => g.span == f.dstSpan && g.rank == f.srcRank && g.dstSpan == f.srcSpan && g.key == f.key
          && g.ctrl == false) = some g →
        Ends (.getReq ⟨f, false⟩) s fun t => ∃ h ∈ t.dev.vdt.flows, ∃ q ∈ h.sent, q.frame.ty = tyGetResp ∧ q.frame.dstRank = f.srcRank
          ∧ q.frame.arg = f.arg ∧ q.frame.payload = x.bytes ∧ q.frame.psn = g.psn)
    ∧ (∀ (f : Arrival) (g : InFlight) (q : Nat × Nat × Nat) (x : Step) (s : State), s.due f = true → f.ty = tyGetResp →
        f.payload.length = tileBytes → f.arg ≠ lookArg →
        s.dev.step.inflight.find? (fun g => g.gets.any fun q => q.1 == f.srcRank && q.2.1 == f.arg) = some g →
        g.gets.find? (fun q => q.1 == f.srcRank && q.2.1 == f.arg) = some q → s.work.stepOf g.step = some x →
        (Tile.ofBytes f.payload).keystoneOk = true →
        Ends (.getResp f) s fun t =>
          { g with gets := g.gets.erase q, writes := g.writes ++ [(q.2.2, Tile.ofBytes f.payload)] } ∈ t.dev.step.inflight)
    ∧ (∀ (f : Arrival) (r : RowRecord) (b : Table) (rk j : Nat) (s : State), s.due f = true → f.ty = tyRowRec → f.payload.length ≠ 4096 →
        RowRecord.ofBody (f.arg % 2 ^ 32) (s.message f) = r → r.table < 1024 → s.work.table f.dstSpan r.table = some b →
        s.work.ownerOf f.dstSpan b r.row = some (rk, j) → s.work.isSelf b rk = true → j < s.work.rowsHere f.dstSpan b →
        r.sums.length = b.dim → b.applied < r.epoch → r.epoch ∉ b.voids → b.applying ≠ some r.epoch →
        s.work.carrierFault f.dstSpan (b.mapTiles r.row) = none →
        (b.determ = true ∨ ∀ q ∈ b.records, ¬ (q.epoch = r.epoch ∧ q.row = r.row)) → b.records.length < b.coalEntries →
        Ends (.rowRec f) s fun t => t.work.table f.dstSpan r.table = some { b with records := b.records ++ [r] }
          ∧ Sparse.get (fun _ => 0#64) t.dev.obs.cnt (4096 * f.dstSpan + 0x1B8)
              = Sparse.get (fun _ => 0#64) s.dev.obs.cnt (4096 * f.dstSpan + 0x1B8) + 1)
    ∧ (∀ (f : Arrival) (s : State), s.due f = true → f.ty = tyColl → isPart f.ty f.arg = false → f.payload.length ≠ 4096 →
        (∀ g ∈ s.dev.step.inflight, g.coll = none) →
        Ends (.coll f) s fun t => t.dev.vdt.colls = s.dev.vdt.colls ++ [{ f.toFrame with payload := s.message f }])
    ∧ (∀ (f : Arrival) (s : State), s.due f = true → f.payload.length = 4096 → f.ty = tyRowRec ∨ (f.ty = tyColl ∧ isPart f.ty f.arg = false) →
        Ends (if f.ty = tyRowRec then .rowRec f else .coll f) s fun t => (t.work.rx f.toFrame).part = s.message f
          ∧ (t.work.rx f.toFrame).next = (f.psn + 1) % 2 ^ 24 ∧ t.dev.tables = s.dev.tables ∧ t.dev.vdt.colls = s.dev.vdt.colls)
    ∧ (∀ (f : Arrival) (c : Instr) (s : State), c = .putFrame f ∨ c = .getResp f ∨ c = .rowRec f ∨ c = .coll f ∨ c = .getReq ⟨f, false⟩ →
        f.port < 9 → (s.work.port f.port).state = .up → (s.dev.pwr.standby = false ∨ f.ctrl = true) → f.check = .good →
        s.work.rank ≠ some f.dstRank →
        Ends c s fun t => t.dev.vdt.rxs = s.dev.vdt.rxs ∧ t.dev.vdt.colls = s.dev.vdt.colls ∧ t.dev.tables = s.dev.tables
          ∧ t.dev.step = s.dev.step ∧ t.dev.hbm = s.dev.hbm)
    ∧ ∀ (f : Arrival) (s : State), f.ty = tyRowRec → f.port < 9 → (s.work.port f.port).state = .up →
        (s.dev.pwr.standby = false ∨ f.ctrl = true) → f.check = .failed →
        Ends (.rowRec f) s fun t => t.dev.vdt.rxs = s.dev.vdt.rxs ∧ t.dev.tables = s.dev.tables
          ∧ (t.work.bucket 4 f.port).events = min 65535 ((s.work.bucket 4 f.port).events + 1)

/-- When the next control frame of a flow arrives for this rank and a span that takes it: a CLOSE with the table's own
descriptor for an epoch not applied notes its rank; a VOID for an open epoch that is not being applied nor void yet,
while no step is in its commit phase, makes it void, discards its records and is counted at 0x1D8; an ACCEPT is noted
in each step that holds an update ticket of that epoch; a DIR_UPDATE changes the directory; a REDIRECT asks the new
rank for the row on the open flow there. -/
def Obligations.BarrierMessagesTakeEffectInTurn : Prop :=
  (∀ (f : Arrival) (b : Table) (s : State), s.due f = true → f.ty = tyClose → s.work.table f.dstSpan (rd f.payload 0 2) = some b →
      f.payload.drop 5 = b.canon → b.applied < f.arg → (f.arg, f.srcRank) ∉ b.closes →
      Ends (.close f) s fun t =>
        t.work.table f.dstSpan (rd f.payload 0 2) = some { b with closes := b.closes ++ [(f.arg, f.srcRank)] })
    ∧ (∀ (f : Arrival) (b : Table) (s : State), s.due f = true → f.ty = tyVoid → s.work.table f.dstSpan (rd f.payload 0 2) = some b →
        b.applied < f.arg → b.applying ≠ some f.arg → (∀ v ∈ b.voidBy, v.1 ≠ f.arg) → (∀ x ∈ s.dev.step.steps, x.phase ≠ .commit) →
        Ends (.void f) s fun t => (∃ b', t.work.table f.dstSpan (rd f.payload 0 2) = some b' ∧ f.arg ∈ b'.voids
            ∧ ∀ q ∈ b'.records, q.epoch ≠ f.arg)
          ∧ Sparse.get (fun _ => 0#64) t.dev.obs.cnt (4096 * f.dstSpan + 0x1D8)
              = Sparse.get (fun _ => 0#64) s.dev.obs.cnt (4096 * f.dstSpan + 0x1D8) + 1)
    ∧ (∀ (f : Arrival) (x : Step) (k : Ticket) (s : State), s.due f = true → f.ty = tyAccept → x ∈ s.dev.step.steps → x.span = f.dstSpan →
        k ∈ x.tickets → k.table = rd f.payload 0 2 → k.epoch = f.arg → k.update = true →
        Ends (.accept f) s fun t => ∃ y ∈ t.dev.step.steps, y.id = x.id ∧ y.phase = x.phase
          ∧ (rd f.payload 0 2, f.arg, f.srcRank) ∈ y.accepts)
    ∧ (∀ (f : Arrival) (b : Table) (s : State), s.due f = true → f.ty = tyDir → s.work.table f.dstSpan (rd f.payload 0 2) = some b →
        Ends (.dirUpdate f) s fun t => t.work.table f.dstSpan (rd f.payload 0 2)
          = some (b.setDir (DirEnt.read (f.payload.drop 2)).1 ((DirEnt.read (f.payload.drop 2)).2 == 0)))
    ∧ ∀ (f : Arrival) (i : Nat) (again : Bool) (d : InFlight) (k : Look) (b : Table) (x : Step) (g : Flow) (s : State), s.due f = true →
        f.ty = tyRedirect → s.work.lookOf (rd f.payload 0 8) = some d → d.look = some k →
        k.pend.find? (fun q => q.1 == rd f.payload 0 8) = some (rd f.payload 0 8, i, again) → s.work.stepOf d.step = some x →
        s.work.table x.span k.table = some b → s.work.isSelf b (rd f.payload 8 2) = false →
        s.dev.vdt.flows.find? (fun g => g.span == x.span && g.rank == rd f.payload 8 2 && g.dstSpan == x.span && g.key == 0
          && g.ctrl == false) = some g →
        Ends (.redirect f) s fun t => ∃ h ∈ t.dev.vdt.flows, ∃ q ∈ h.sent, q.frame.ty = tyGetReq ∧ q.frame.dstRank = rd f.payload 8 2
          ∧ q.frame.payload = lookBody (rd f.payload 0 8) k.table k.epoch k.update (k.ids.getD i 0)

/-- An ACK for a flow of this module, of a span without tables, leaves on it exactly the packets that it does not cover
and keeps the least RTT seen. A NACK of a packet of a step ends that step. Where frames for its rank may go out, the
retransmission timer of a packet counts one try more, adds 1 to the counter at 0x230 and sends the frame; elsewhere it
does nothing. Where the egress of its span is not stopped and frames for its rank can go out, the acknowledgement
timer leaves nothing unacknowledged on its flow. An increase adds 0.5 GB/s to a flow's rate within its bounds. -/
def Obligations.FlowsAcknowledgeAndRetransmit : Prop :=
  (∀ (f : Arrival) (a : AckInfo) (g : Flow) (s : State), s.takes f = true → s.work.flow f.flow = some g → f.ty = tyAck →
      g.rank = f.srcRank → s.dev.tables = [] → s.dev.vdt.waiting = [] →
      Ends (.ack f a) s fun t => ∃ h, t.work.flow f.flow = some h
        ∧ h.sent.map (·.frame) = (g.sent.filter fun p => !a.covers p.frame.psn).map (·.frame)
        ∧ h.minRtt = (if g.minRtt = 0 then a.rtt else min g.minRtt a.rtt))
    ∧ (∀ (f : Arrival) (reason id : Nat) (g : Flow) (p : SentPkt) (x : Step) (s : State), s.takes f = true → s.work.flow f.flow = some g →
        f.ty = tyNack → g.rank = f.srcRank → g.sent.find? (fun p => p.frame.psn == f.arg) = some p → p.step = some id →
        s.work.stepOf id = some x → x.phase ≠ .ended →
        Ends (.nack f reason) s fun t => ∀ y ∈ t.dev.step.steps, y.id = id → y.phase = .ended)
    ∧ (∀ (i psn : Nat) (g : Flow) (p : SentPkt) (s : State), s.work.flow i = some g →
        g.sent.find? (fun p => p.frame.psn == psn) = some p →
        Ends (.retxTimer i psn) s fun t => if s.work.mayEmit g.span g.rank g.key = false then t.dev = s.dev else (∃ h, t.work.flow i = some h ∧ ∃ q ∈ h.sent, q.frame = p.frame ∧ q.tries = p.tries + 1)
          ∧ Sparse.get (fun _ => 0#64) t.dev.obs.cnt (4096 * g.span + 0x230)
              = Sparse.get (fun _ => 0#64) s.dev.obs.cnt (4096 * g.span + 0x230) + 1
          ∧ ∃ q, Sent s t (.frame p.frame (s.work.wire p.frame.dstRank q p.frame.ctrl)))
    ∧ (∀ (rank i : Nat) (r : RxFlow) (s : State), r ∈ s.dev.vdt.rxs → r.rank = rank → r.flow = i → r.unacked ≠ 0 →
        (∀ q ∈ s.dev.vdt.rxs, q.rank = rank → q.flow = i → (s.work.sp q.span).stopVdt = false) → s.work.reaches rank = true →
        Ends (.ackTimer rank i) s fun t => (∀ q ∈ t.dev.vdt.rxs, q.rank = rank → q.flow = i → q.unacked = 0)
          ∧ ∃ p g a, Sent s t (.ackFrame g a (s.work.wire rank p true)) ∧ g.ty = tyAck ∧ g.ctrl = true ∧ g.dstRank = rank
            ∧ g.dstSpan = r.srcSpan ∧ g.flow = i ∧ a.cum = r.cum ∧ a.ranges = r.ranges)
    ∧ ∀ (i : Nat) (g : Flow) (s : State), s.work.flow i = some g →
        Ends (.ccIncrease i) s fun t => t.work.flow i = some { g with rate := s.work.clampRate (g.rate + 5000) }

/-- When the next frame of a control flow is a FLOW_RESET, nothing is held of the data flow it names; when it is a
RANK_MOVED, the rank's entry is the one sent, and every flow to that rank numbers its packets from 0. An unreachable
flow ends every step that has a packet on it. An idle flow with nothing waiting closes. A port that loses its link
counts one retraining and is training, or retired by its bucket, and retired after three failed attempts; a status
update records the margin and error ratio of every port that it names. -/
def Obligations.FlowsAndPortsComeAndGo : Prop :=
  (∀ (f : Arrival) (s : State), s.due f = true → f.ty = tyFlowReset → f.ctrl = true →
      Ends (.flowReset f) s fun t => ∀ r ∈ t.dev.vdt.rxs, r.rank = f.srcRank → r.flow = f.arg → r.ctrl = true)
    ∧ (∀ (f : Arrival) (s : State), s.due f = true → f.ty = tyRankMoved →
        Ends (.rankMoved f) s fun t => t.work.rankAddr f.arg = BitVec.ofNat 128 (rd f.payload 0 16)
          ∧ ∀ g ∈ t.dev.vdt.flows, g.rank = f.arg → g.psn % 2 ^ 24 = g.sent.length % 2 ^ 24)
    ∧ (∀ (i id : Nat) (g : Flow) (p : SentPkt) (x : Step) (s : State), s.work.flow i = some g → p ∈ g.sent → p.step = some id →
        s.work.stepOf id = some x → x.phase ≠ .ended →
        Ends (.flowUnreachable i) s fun t => ∀ y ∈ t.dev.step.steps, y.id = id → y.phase = .ended)
    ∧ (∀ (i : Nat) (g : Flow) (s : State), s.work.flow i = some g → g.sent = [] → s.dev.vdt.waiting = [] →
        Ends (.flowIdleClose i) s fun t => ∀ h ∈ t.dev.vdt.flows, h.id ≠ i)
    ∧ (∀ (p k : Nat) (s : State), p < 9 → (s.work.port p).state ≠ .retired →
        Ends (.portLinkLoss p k) s fun t => (t.work.port p).retrain = min 15 ((s.work.port p).retrain + 1)
          ∧ ((t.work.port p).state = .training ∨ (t.work.port p).state = .retired)
          ∧ (3 ≤ k → (t.work.port p).state = .retired))
    ∧ ∀ (l : List (Nat × Nat)) (s : State),
        Ends (.portStatusUpdate l) s fun t => ∀ p < 9, ∀ q, l[p]? = some q →
          (t.work.port p).margin = min 1023 q.1 ∧ (t.work.port p).ber = min 255 q.2

/-- When SPAN_SAVE starts under a migration key on an ACTIVE span, or with or without FINAL on a FROZEN one, and no other
command of the save runs, the save goes on under it, a new one with every page dirty. Unless host traffic is stopped:
the completion of one without FINAL sends the pages that fit as page records, takes them off the dirty ones, and the
reply names their bytes and the pages left; a FINAL one of a FROZEN span with no page left and room for the longest
state record that the model knows (log entry 28) writes the state record and the end record, with check values that
hold, and ends the save. SPAN_RESTORE on an empty ACTIVE span makes it RESTORING, and one on a span whose restore
waits for its next records goes on with it; records without an end record are kept for the next command; a bad
checksum ends the restore with ST_KEYSTONE_MISMATCH and resets the span; an end record whose checks all pass leaves
the span FROZEN with the seed that the state record carries. -/
def Obligations.SavesAndRestoresRun : Prop :=
  (∀ (p : Pkt) (s : State), s.starts opSpanSave p = true → p.arg 12 1 ≤ 63 → s.work.migrationKey (p.arg 14 2) = true →
      (((s.work.sp (p.arg 12 1)).mode = .active ∧ p.opflag8 = false) ∨ (s.work.sp (p.arg 12 1)).mode = .frozen) →
      (s.work.sp (p.arg 12 1)).save.bind (·.job) = none →
      Ends (.spanSave p) s fun t => Moved s t p ∧ s.work.cmdOf opSpanSave p ∈ t.dev.cmd.cmds
        ∧ (t.work.sp (p.arg 12 1)).save = some
            { (s.work.sp (p.arg 12 1)).save.getD { pass := 0, unit := 0, records := 0, dirty := s.work.allPages (p.arg 12 1), job := none } with
              job := some (s.dev.cmd.nextId, p.arg 16 8, p.arg 24 8, p.arg 14 2, p.opflag8) })
    ∧ (∀ (n cmd host len key : Nat) (v : Save) (s : State), (s.work.sp n).save = some v → v.job = some (cmd, host, len, key, false) →
        (s.work.sp n).stopHost = false → (s.work.sp 0).stopHost = false → s.work.ending n = false →
        Ends (.spanSaveDone n) s fun t =>
          (∃ u, (t.work.sp n).save = some u ∧ u.job = none ∧ u.dirty = v.dirty.drop (min v.dirty.length (len / pageRecBytes))
            ∧ u.records = v.records + min v.dirty.length (len / pageRecBytes))
          ∧ Sent s t (.saveStream 0 host key v.unit
              ((v.dirty.take (min v.dirty.length (len / pageRecBytes))).map fun vp => s.work.pageRecord n (v.pass + 1) vp))
          ∧ Finished s t cmd .ok (.count (min v.dirty.length (len / pageRecBytes) * pageRecBytes))
              (v.dirty.length - min v.dirty.length (len / pageRecBytes)))
    ∧ (∀ (n cmd host len key : Nat) (v : Save) (s : State), (s.work.sp n).save = some v → v.job = some (cmd, host, len, key, true) →
        (s.work.sp n).mode = .frozen → v.dirty = [] → (s.work.sp n).stopHost = false → (s.work.sp 0).stopHost = false →
        4096 * 65538 + 4 * (s.dev.deck.adapters.filter fun a => a.span == n).length + 4096 ≤ len →
        Ends (.spanSaveDone n) s fun t => (t.work.sp n).save = none
          ∧ (∃ a b, Sent s t (.saveStream 0 host key v.unit [a, b]) ∧ a.ty = 1 ∧ a.state = some (s.work.stateRecord n)
              ∧ a.holds = true ∧ b.ty = 3 ∧ b.records = v.records + 2 ∧ b.holds = true)
          ∧ ∃ d, Finished s t cmd .ok d)
    ∧ (∀ (p : Pkt) (s : State), s.starts opSpanRestore p = true → p.arg 12 1 ≤ 63 → s.work.migrationKey (p.arg 14 2) = true →
        (s.work.sp (p.arg 12 1)).mode = .active → (s.work.sp (p.arg 12 1)).restore = none → s.work.emptySpan (p.arg 12 1) = true →
        Ends (.spanRestore p) s fun t => Moved s t p ∧ s.work.cmdOf opSpanRestore p ∈ t.dev.cmd.cmds
          ∧ (t.work.sp (p.arg 12 1)).mode = .restoring
          ∧ (t.work.sp (p.arg 12 1)).restore.bind (·.cmd) = some s.dev.cmd.nextId)
    ∧ (∀ (p : Pkt) (r : RestoreJob) (s : State), s.starts opSpanRestore p = true → p.arg 12 1 ≤ 63 →
        s.work.migrationKey (p.arg 14 2) = true → (s.work.sp (p.arg 12 1)).mode ≠ .absent →
        (s.work.sp (p.arg 12 1)).restore = some r → r.cmd = none →
        Ends (.spanRestore p) s fun t => Moved s t p ∧ s.work.cmdOf opSpanRestore p ∈ t.dev.cmd.cmds
          ∧ (t.work.sp (p.arg 12 1)).restore
            = some { r with cmd := some s.dev.cmd.nextId, hostAddr := p.arg 16 8, key := p.arg 14 2 })
    ∧ (∀ (n cmd : Nat) (q : List SaveRec) (r r' : RestoreJob) (s : State), (s.work.sp n).restore = some r → r.cmd = some cmd →
        (s.work.sp n).stopHost = false → (s.work.sp 0).stopHost = false → (s.work.sp n).mode = .restoring →
        takeRecords r q = .ok (r', none) →
        Ends (.spanRestoreDone n q) s fun t => (t.work.sp n).restore = some { r' with cmd := none } ∧ Finished s t cmd .ok)
    ∧ (∀ (n cmd : Nat) (x : SaveRec) (q : List SaveRec) (r : RestoreJob) (s : State), (s.work.sp n).restore = some r →
        r.cmd = some cmd → (s.work.sp n).stopHost = false → (s.work.sp 0).stopHost = false → (s.work.sp n).mode = .restoring →
        (s.work.sp n).reset = none → x.holds = false →
        Ends (.spanRestoreDone n (x :: q)) s fun t => (t.work.sp n).restore = none ∧ (t.work.sp n).mode = .resetting
          ∧ Finished s t cmd .keystone)
    ∧ ∀ (n cmd : Nat) (q : List SaveRec) (r r' : RestoreJob) (e : SaveRec) (st : StateRec) (s : State),
        (s.work.sp n).restore = some r → r.cmd = some cmd → (s.work.sp n).stopHost = false → (s.work.sp 0).stopHost = false →
        (s.work.sp n).mode = .restoring → takeRecords r q = .ok (r', some e) → r'.stateRec = some st →
        (s.work.modSp n fun x => { x with restore := none }).restoreFault n st e r' = none →
        Ends (.spanRestoreDone n q) s fun t => (t.work.sp n).restore = none ∧ (t.work.sp n).mode = .frozen
          ∧ (t.work.sp n).seed = st.seed ∧ Finished s t cmd .ok

/-- When SECURE_POLICY starts, a malformed record gets ST_REFUSED_FORMAT and leaves every policy; a good one without
secured ranges, whose bearing region and BN1 tiles are writable and whose key is the span's own, in a span without a
policy, takes effect with N at 0. SECURE_NOW makes a point due and waits for it, and is refused without a policy. A
capture whose keystones hold and whose segments fit puts the point's entries into the log and clears what had changed;
a keystone that does not hold abandons the point with ST_KEYSTONE_MISMATCH. A seal of the oldest point whose segments
are acknowledged replies to what waited for it and moves N_seal to its count where that is higher. While host traffic
is not stopped and the key installed, a drain of the oldest segment, sealed and acknowledged, for which the host's
buffer has room, sends its record and the new produced count and takes it off the log. -/
def Obligations.PoliciesAndSecurePointsRun : Prop :=
  (∀ (p : Pkt) (s : State), s.starts opSecurePolicy p = true → policyOk p.block (s.work.regv 0 0x7000 % 65536) = false →
      Ends (.securePolicy p) s fun t => Moved s t p ∧ Answered s t p .refusedFormat ∧ t.dev.sec = s.dev.sec)
    ∧ (∀ (p : Pkt) (s : State), s.starts opSecurePolicy p = true → policyOk p.block (s.work.regv 0 0x7000 % 65536) = true →
        rd p.block 30 2 = 0 → s.work.secOf p.fn = none →
        s.work.tilesWritable p.fn (rd p.block 16 6) (rd p.block 12 4 * pageTiles) = true →
        (bit (rd p.block 2 1) 1 = true → s.work.tilesWritable p.fn (rd p.block 80 6) (rd p.block 86 2) = true) →
        s.work.ownKey p.fn (rd p.block 22 2) = true →
        Ends (.securePolicy p) s fun t => Moved s t p ∧ Answered s t p .ok
          ∧ ∃ x, t.work.secOf p.fn = some x ∧ x.policy = Policy.ofBlock p.block [] ∧ x.n = 0 ∧ x.point = 0 ∧ x.segs = [])
    ∧ (∀ (p : Pkt) (x : SecState) (s : State), s.starts opSecureNow p = true → s.work.secOf p.fn = some x →
        Ends (.secureNow p) s fun t => Moved s t p ∧ Accepted s t opSecureNow p
          ∧ t.work.secOf p.fn = some { x with due := true, nowCmds := x.nowCmds ++ [s.dev.cmd.nextId] })
    ∧ (∀ (p : Pkt) (s : State), s.starts opSecureNow p = true → s.work.secOf p.fn = none →
        Ends (.secureNow p) s fun t => Moved s t p ∧ Answered s t p .refusedFormat)
    ∧ (∀ (n us : Nat) (x : SecState) (s : State), s.work.secOf n = some x → x.due = true → s.work.mayCapture n = true →
        (s.work.pointEntries n x).2 = [] → (cutSegments (s.work.pointEntries n x).1).length ≤ x.policy.dataRows.length →
        (∀ g ∈ x.segs, ∀ i < (cutSegments (s.work.pointEntries n x).1).length, g.row ≠ x.policy.rowOf (x.nextSeg + i)) →
        Ends (.secureCapture n us) s fun t => ∃ y, t.work.secOf n = some y ∧ y.point = x.point + 1 ∧ y.nSec = x.n ∧ y.due = false
          ∧ y.nowCmds = [] ∧ y.sealCmds = x.sealCmds ++ x.nowCmds.map (fun c => (x.point + 1, c)) ∧ y.touched = []
          ∧ y.rowsTouched = []
          ∧ y.segs.map (·.entries) = x.segs.map (·.entries) ++ cutSegments (s.work.pointEntries n x).1)
    ∧ (∀ (n us : Nat) (x : SecState) (s : State), s.work.secOf n = some x → x.due = true → s.work.mayCapture n = true →
        (s.work.pointEntries n x).2 ≠ [] →
        Ends (.secureCapture n us) s fun t =>
          (∃ y, t.work.secOf n = some y ∧ y.due = false ∧ y.nowCmds = [] ∧ y.point = x.point ∧ y.segs = x.segs)
            ∧ ∀ c ∈ x.nowCmds, Finished s t c .keystone)
    ∧ (∀ (n p k : Nat) (l : List (Nat × Nat)) (x : SecState) (s : State), s.work.secOf n = some x → x.pointN = (p, k) :: l →
        x.pointAcked p = true →
        Ends (.secureSeal n) s fun t =>
          t.work.secOf n = some { x with nSeal := max x.nSeal k, pointN := l, sealCmds := x.sealCmds.filter fun q => q.1 != p }
            ∧ ∀ q ∈ x.sealCmds, q.1 = p → Finished s t q.2 .ok (.count p))
    ∧ ∀ (n k : Nat) (g : Segment) (l : List Segment) (x : SecState) (s : State), s.work.secOf n = some x → x.segs = g :: l →
        x.policy.drainAddr ≠ 0 → s.work.ending n = false → x.isSealed g = true → g.acked = true → (s.work.sp n).stopHost = false →
        (s.work.keySlot x.policy.secKey).state = .installed → k ≤ x.produced →
        x.produced + drainRecBytes ≤ k + (x.policy.drainBytes - 4096) →
        Ends (.drainWrite n k) s fun t =>
          t.work.secOf n = some { x with produced := x.produced + drainRecBytes, segs := l }
            ∧ Sent s t (.hostWrite n x.policy.drainAddr (leBytes 8 (x.produced + drainRecBytes)))
            ∧ ∃ h : RecHead, Sent s t (.drainStream n x.policy.secKey (x.produced / 4096) (drainPieces x.policy x.produced) h g.entries)
                ∧ h.magic = 0x56533242 ∧ h.ty = 4 ∧ h.va = g.seq ∧ h.dlen = pageBytes ∧ h.pass = lastMark g.entries ∧ h.records = 0
                ∧ h.dcrc = crc32c (segBytes g.entries) ∧ h.hcrc = crc32c h.bytes

/-- When RESTORE starts with a good image record, under a key that the span may use, on an ACTIVE span without programs,
requests and restore, the reply is ST_ACCEPTED and the span is RESTORING. RANK_ADOPT does so on the span it names and
takes the rank, where this module has none or the same. RESHARD of a rank of a table's group that is not this one,
which the region has room for, folds it and clears STALLED. A restore whose members are out of reach ends with
ST_SQUASHED, naming the first, and resets the span; an image restore whose log holds its point and can be applied ends
with ST_OK naming the point, the span FROZEN. A parity delta changes a row that this module holds by XOR; a partial
segment goes on to the next member on the open flow there. -/
def Obligations.RestoresAdoptionsAndParityRun : Prop :=
  (∀ (p : Pkt) (s : State), s.starts opRestore p = true → rd p.block 0 1 = 0 →
      restoreRecOk p.block = true → rd p.block 4 2 ≤ 16383 → s.work.programsOf p.fn = [] →
      (∀ r ∈ s.dev.deck.requests, r.span ≠ p.fn) → (s.work.sp p.fn).mode = .active → (s.work.sp p.fn).run = none →
      s.work.keyUsable p.fn (rd p.block 6 2) = true →
      Ends (.restore p) s fun t => Moved s t p ∧ Accepted s t opRestore p ∧ (t.work.sp p.fn).mode = .restoring
        ∧ ∃ r, (t.work.sp p.fn).run = some r ∧ r.cmd = s.dev.cmd.nextId ∧ r.srcRank = rd p.block 4 2 ∧ r.point = rd p.block 8 4)
    ∧ (∀ (p : Pkt) (s : State), s.starts opRankAdopt p = true → p.arg 14 1 ≤ 63 → p.arg 12 2 ≤ 16383 →
        (16383 < s.work.regv 0 0x7000 % 65536 ∨ s.work.regv 0 0x7000 % 65536 = p.arg 12 2) → rd p.block 0 1 = 0 →
        rd p.block 4 2 = p.arg 12 2 → restoreRecOk p.block = true →
        s.work.programsOf (p.arg 14 1) = [] → (∀ r ∈ s.dev.deck.requests, r.span ≠ p.arg 14 1) →
        (s.work.sp (p.arg 14 1)).mode = .active → (s.work.sp (p.arg 14 1)).run = none →
        s.work.keyUsable (p.arg 14 1) (rd p.block 6 2) = true →
        Ends (.rankAdopt p) s fun t => Moved s t p ∧ Accepted s t opRankAdopt p ∧ t.work.rank = some (p.arg 12 2)
          ∧ (t.work.sp (p.arg 14 1)).mode = .restoring ∧ (t.work.sp (p.arg 14 1)).run.map (·.cmd) = some s.dev.cmd.nextId)
    ∧ (∀ (p : Pkt) (b : Table) (s : State), s.starts opReshard p = true → p.arg 12 2 < 1024 → s.work.table p.fn (p.arg 12 2) = some b →
        b.id = p.arg 12 2 → p.arg 14 2 ∈ s.work.rankList p.fn b → s.work.isSelf b (p.arg 14 2) = false → b.fold = none →
        s.work.regionFault p.fn b.addrRows
          ({ b with localRows := s.work.rowsHere p.fn { b with fold := some (p.arg 14 2, false) } } : Table).rowTiles = none →
        Ends (.reshard p) s fun t => Moved s t p ∧ AnsweredOk s t p
          ∧ ∃ b', t.work.table p.fn (p.arg 12 2) = some b' ∧ b'.fold = some (p.arg 14 2, false) ∧ b'.stalled = false)
    ∧ (∀ (n a b : Nat) (l un : List Nat) (rs : List DrainRec) (r : RestoreRun) (s : State), (s.work.sp n).run = some r →
        (s.work.sp n).reset = none → (s.work.sp n).mode ≠ .absent → s.work.ending n = false →
        un.filter (chainOf r.ranks r.srcRank).contains = a :: b :: l →
        Ends (.restoreDone n rs un) s fun t => (t.work.sp n).run = none ∧ (t.work.sp n).mode = .resetting
          ∧ Finished s t r.cmd .squashed (.rank a))
    ∧ (∀ (n p : Nat) (records drained rs : List DrainRec) (un : List Nat) (es : List LogEntry) (r : RestoreRun) (s : State),
        (s.work.sp n).run = some r → r.image = true → s.work.ending n = false →
        (un.filter (chainOf r.ranks r.srcRank).contains).length < 2 →
        drained = (records.filter fun q => q.row.isNone).take (if r.hostAddr = 0 then 0 else r.length / drainRecBytes) →
        rs = (drained ++ records.filter fun q => q.row.isSome).foldr insertDrain [] → (∀ q ∈ rs, q.holds = true) →
        (∀ q ∈ drained, q.magic = 0x56533242 ∧ q.ty = 4) → upToMark r.point rs = some (es, p) →
        (∀ e ∈ es, s.work.entryFault n true r.table e = none) →
        Ends (.restoreDone n records un) s fun t => (t.work.sp n).run = none ∧ (t.work.sp n).mode = .frozen
          ∧ Finished s t r.cmd .ok (.count p))
    ∧ (∀ (f : Arrival) (pa : Nat) (x : SecState) (s : State), s.due f = true → isDelta f.toFrame = true → s.work.secOf f.dstSpan = some x →
        x.policy.group ≠ 1 → f.arg / 512 % x.policy.group = x.policy.index → f.arg / 512 < x.policy.bearPages →
        f.srcRank ∈ x.policy.ranks → f.arg / 512 ∈ x.used → s.work.bearAt f.dstSpan x.policy (f.arg / 512) = some pa →
        f.arg % 512 * 4096 + f.payload.length ≤ pageBytes →
        Ends (.parityDelta f (f.arg / 512)) s fun t => ∀ i y, f.payload[i]? = some y →
          t.byte (pa + f.arg % 512 * 4096 + i) = s.byte (pa + f.arg % 512 * 4096 + i) ^^^ y)
    ∧ ∀ (f : Arrival) (x : SecState) (g : Flow) (order : List Nat) (here dest nxt : Nat) (s : State), s.due f = true →
        isPart f.ty f.arg = true → f.payload ≠ [] → s.work.secOf f.dstSpan = some x →
        order = chainOf x.policy.ranks (f.arg / 2 ^ 46 % 2 ^ 14) → here = x.policy.ranks.getD x.policy.index 0 →
        dest = f.arg / 2 ^ 32 % 2 ^ 14 → (order.drop (order.idxOf here + 1)).headD dest = nxt → nxt ≠ here →
        ¬ (s.work.rank = some dest ∧ order.getLast? = some f.srcRank) →
        s.dev.vdt.flows.find? (fun g => g.span == f.dstSpan && g.rank == nxt && g.dstSpan == f.dstSpan && g.key == f.key
          && g.ctrl == false) = some g →
        Ends (.segmentReconstruct f (f.arg % 2 ^ 32 / 512)) s fun t => ∃ h ∈ t.dev.vdt.flows, ∃ q ∈ h.sent, q.frame.ty = tyColl
          ∧ q.frame.dstRank = nxt ∧ q.frame.arg = f.arg
          ∧ q.frame.payload = f.payload.zipWith (· ^^^ ·)
              (((s.work.bearRow f.dstSpan x (f.arg % 2 ^ 32 / 512)).drop (f.arg % 512 * 4096)).take f.payload.length)

/-- A LOADTEST_PACK that starts gets the status of its first failing check of size, header, signature and version, and
else its version is loaded. LOADTEST_RUN takes a serving core without HOT pins out of service; KAT_RUN tests one of
the PF's cores; LOADTEST_AUTO takes an idle core. A run whose core passed brings the core back and replies its result;
one whose core failed retires it. A KAT_RUN whose last core passed ends with nothing else changed; one whose last core
failed retires it and names it. A quarantined core without tasks starts its test, and the spare of its cluster takes
the number of a retired core without tasks. -/
def Obligations.TestsStartAndEnd : Prop :=
  (∀ (p : Pkt) (s : State), s.starts opLoadtestPack p = true →
      Ends (.loadtestPack p) s fun t => Moved s t p ∧
        let b := padTo (p.arg 24 4) (p.block.take (p.arg 24 4))
        if 67108864 < p.arg 24 4 then Answered s t p .refusedFit ∧ t.dev.integ = s.dev.integ
        else if packOk b = false then Answered s t p .refusedFormat ∧ t.dev.integ = s.dev.integ
        else if Config.wealoletSigOk (packParts b).1 (packParts b).2 = false then
          Answered s t p .refusedPermission ∧ t.dev.integ = s.dev.integ
        else if rd b 4 4 ≤ s.dev.integ.pack then Answered s t p .refusedContract ∧ t.dev.integ = s.dev.integ
        else Answered s t p .ok (.count (rd b 4 4)) ∧ t.dev.integ = { s.dev.integ with pack := rd b 4 4, packBytes := b })
    ∧ (∀ (p : Pkt) (s : State), s.starts opLoadtestRun p = true → p.arg 12 1 = 0 → p.arg 14 2 ≤ 143 →
        ((s.work.phys (p.arg 14 2)).state = .active ∨ (s.work.phys (p.arg 14 2)).state = .spare) →
        (∀ l, s.work.logOf (p.arg 14 2) = some l → ∀ e ∈ (s.work.core' l).tiles, e.pin ≠ .hot) →
        Ends (.loadtestRun p) s fun t => Moved s t p ∧ s.work.cmdOf opLoadtestRun p ∈ t.dev.cmd.cmds
          ∧ (t.work.phys (p.arg 14 2)).state = .testing
          ∧ t.dev.core.tests = s.dev.core.tests ++
              [{ cmd := some s.dev.cmd.nextId, kind := 0, cores := [p.arg 14 2], pack := s.dev.integ.pack, cluster := none,
                 slept := (s.work.cluster (p.arg 14 2 / 9)).asleep && !(s.work.cluster (p.arg 14 2 / 9)).dead }])
    ∧ (∀ (p : Pkt) (cs : List Nat) (s : State), s.starts opLoadtestRun p = true → p.arg 12 1 = 1 →
        s.work.testTarget 1 (p.arg 14 2) = .ok cs →
        Ends (.loadtestRun p) s fun t => Moved s t p ∧ s.work.cmdOf opLoadtestRun p ∈ t.dev.cmd.cmds
          ∧ t.dev.core.tests = s.dev.core.tests ++
              [{ cmd := some s.dev.cmd.nextId, kind := 1, cores := cs, pack := s.dev.integ.pack, cluster := some (p.arg 14 2),
                 slept := (s.work.cluster (p.arg 14 2)).asleep && !(s.work.cluster (p.arg 14 2)).dead }])
    ∧ (∀ (p : Pkt) (k : Nat) (s : State), s.starts opKatRun p = true → p.arg 14 2 ≤ 127 → s.work.owner (p.arg 14 2) = 0 →
        s.work.physOf (p.arg 14 2) = some k →
        Ends (.katRun p) s fun t => Moved s t p ∧ s.work.cmdOf opKatRun p ∈ t.dev.cmd.cmds
          ∧ t.dev.core.tests = s.dev.core.tests ++
              [{ cmd := some s.dev.cmd.nextId, kind := 2, cores := [k], pack := 0, cluster := none }])
    ∧ (∀ (c : Nat) (s : State), bit (s.work.regv 0 0x5444) 0 = true → s.dev.pwr.alive = true → 3 ≤ s.dev.pwr.phase →
        s.dev.pwr.standby = false → c < 144 → ((s.work.phys c).state = .active ∨ (s.work.phys c).state = .spare) →
        (∀ l, s.work.logOf c = some l → (s.work.cluster (c / 9)).asleep = false ∧ s.work.hostsWork l = false ∧ ∀ e ∈ (s.work.core' l).tiles, e.pin = .none) →
        Ends (.loadtestAuto false c) s fun t => (t.work.phys c).state = .testing
          ∧ t.dev.core.tests = s.dev.core.tests ++
              [{ cmd := none, kind := 3, cores := [c], pack := s.dev.integ.pack, cluster := none,
                 slept := (s.work.cluster (c / 9)).asleep && !(s.work.cluster (c / 9)).dead }])
    ∧ (∀ (c cmd : Nat) (j : TestJob) (s : State), s.dev.core.tests.find? (fun j => s.work.testEnds j [(c, none)]) = some j →
        j.kind = 0 → j.cmd = some cmd → (s.work.phys c).state = .testing →
        (∀ k ∈ s.dev.core.tests, k ≠ j → c ∉ k.cores) →
        Ends (.loadtestRunDone [(c, none)] false) s fun t => (∀ k ∈ t.dev.core.tests, k ≠ j)
          ∧ ((t.work.phys c).state = .active ∨ (s.work.logOf c = none ∧ (t.work.phys c).state = .spare))
          ∧ Finished s t cmd .ok (.count ((if j.pack = 0 then 3 else 0) + c * 2 ^ 32)))
    ∧ (∀ (c cmd f : Nat) (j : TestJob) (s : State), s.dev.core.tests.find? (fun j => s.work.testEnds j [(c, some f)]) = some j →
        j.kind = 0 → j.cmd = some cmd → (s.work.phys c).state = .testing → (∀ x ∈ s.dev.step.steps, x.phase ≠ .staged) →
        Ends (.loadtestRunDone [(c, some f)] false) s fun t => (t.work.phys c).state = .retired ∧ ∃ d, Finished s t cmd .ok d)
    ∧ (∀ (c cmd : Nat) (j : TestJob) (b : Bool) (s : State), s.dev.core.tests.find? (fun j => s.work.testEnds j [(c, none)]) = some j →
        j.kind = 2 → j.cmd = some cmd → j.bad = none → (j.cores.filter fun k => (s.work.phys k).state != .retired) = [c] →
        Ends (.loadtestRunDone [(c, none)] b) s fun t => Finished s t cmd .ok ∧ ∀ k, t.work.phys k = s.work.phys k)
    ∧ (∀ (c l cmd f : Nat) (j : TestJob) (b : Bool) (s : State),
        s.dev.core.tests.find? (fun j => s.work.testEnds j [(c, some f)]) = some j →
        j.kind = 2 → j.cmd = some cmd → j.bad = none → (j.cores.filter fun k => (s.work.phys k).state != .retired) = [c] →
        s.work.logOf c = some l → (∀ x ∈ s.dev.step.steps, x.phase ≠ .staged) →
        Ends (.loadtestRunDone [(c, some f)] b) s fun t => Finished s t cmd .ok (.token l 0 0 false) ∧ (t.work.phys c).state = .retired)
    ∧ (∀ (c : Nat) (s : State), (s.work.phys c).state = .quarantined → (∀ l, s.work.logOf c = some l → s.work.busyCore l = false) →
        (∀ j ∈ s.dev.core.tests, ¬ (j.kind = 5 ∧ j.cores = [c])) →
        Ends (.quarantineTest c) s fun t => t.dev.core.tests
          = s.dev.core.tests ++
              [{ cmd := none, kind := 5, cores := [c], pack := s.dev.integ.pack, cluster := none }])
    ∧ ∀ (c l k : Nat) (s : State), c < 144 → s.work.logOf c = some l → (s.work.phys c).state = .retired →
        s.work.busyCore l = false → (s.work.cluster (c / 9)).dead = false → (∀ j ∈ s.dev.core.tests, j.kind ≠ 3) → s.work.spareOf (c / 9) = some k →
        Ends (.coreRetire c) s fun t => t.work.physOf l = some k ∧ (t.work.phys k).state = .active ∧ (t.work.core' l).tiles = []

/-- A leak takes one from a bucket above 0, and a save keeps the levels. A parity error of a slot is counted at 0x250, and
a CLEAN copy there is fetched again; one of control state is counted at 0x258, takes the core out of service and ends
its steps. A shared-state error resets its die: the die is in reset, the mask and the count say so, and the counters
start a new epoch; one of the I/O die is a module reset. The end of a die reset clears it. A failed crypto self-test
retires its engine, a lost lock fills its bucket and switches the PLL, one of the PLL in standby fills its bucket
alone, a shorted phase is shed, a droop is counted, and a rail excursion resets its die, or the module where the die
is the I/O die. -/
def Obligations.FaultsAreCountedAndActedOn : Prop :=
  (∀ (k : BktClass) (i : Nat) (s : State), s.dev.pwr.alive = true → 0 < (s.work.bucket k.num i).level → i < k.instances →
      Ends (.bucketLeak k i) s fun t =>
        t.work.bucket k.num i = { s.work.bucket k.num i with level := (s.work.bucket k.num i).level - 1 })
    ∧ (∀ s : State, s.dev.pwr.alive = true → Ends .bucketLevelSave s fun t => t.dev.integ.saved = s.dev.integ.buckets)
    ∧ (∀ (c l k b r : Nat) (o : List Nat) (e : TileEnt) (s : State), c < 144 → b < 16 → r < 384 → s.work.logOf c = some l →
        (s.work.core' l).tiles.find? (fun e => e.slot == k) = some e → e.state = .clean →
        Ends (.scratchpadParityError c ⟨some k, o⟩ b r) s fun t =>
          (∀ x ∈ (t.work.core' l).tiles, x.addr = e.addr → x.gen = e.gen → x.state = .fetching)
            ∧ Sparse.get (fun _ => 0#64) t.dev.obs.cnt (4096 * s.work.owner l + 0x250)
                = Sparse.get (fun _ => 0#64) s.dev.obs.cnt (4096 * s.work.owner l + 0x250) + 1)
    ∧ (∀ (c l : Nat) (s : State), c < 144 → s.work.logOf c = some l → (s.work.phys c).state = .active →
        Ends (.controlParityError c) s fun t =>
          ((t.work.phys c).state = .quarantined ∨ (t.work.phys c).state = .retired)
            ∧ (∀ x ∈ s.dev.step.steps, s.work.stepOf x.id = some x → x.admitted = true → x.usesCore l = true →
                ∀ y ∈ t.dev.step.steps, y.id = x.id → y.phase = .ended)
            ∧ Sparse.get (fun _ => 0#64) t.dev.obs.cnt (4096 * s.work.owner l + 0x258)
                = Sparse.get (fun _ => 0#64) s.dev.obs.cnt (4096 * s.work.owner l + 0x258) + 1)
    ∧ (∀ (d : Nat) (s : State), s.dev.pwr.alive = true → 2 ≤ s.dev.pwr.phase → d < 4 → (s.work.die d).resetting = false →
        s.dev.pwr.standby = false →
        Ends (.sharedStateError d false) s fun t => (t.work.die d).resetting = true ∧ bit t.dev.pwr.dieMask d = true
          ∧ t.dev.pwr.dieResets = min 255 (s.dev.pwr.dieResets + 1) ∧ t.dev.obs.epoch = (s.dev.obs.epoch + 1) % 65536)
    ∧ (∀ (d : Nat) (s : State), s.dev.pwr.alive = true → 2 ≤ s.dev.pwr.phase →
        Ends (.sharedStateError d true) s fun t => t.dev.pwr.phase = 2 ∧ t.dev.pwr.source = 7
          ∧ t.dev.pwr.kind = (if s.dev.pwr.auxOk then 1 else 2))
    ∧ (∀ (d : Nat) (s : State), (s.work.die d).resetting = true →
        Ends (.dieResetDone d) s fun t => (t.work.die d).resetting = false ∧ (t.work.die d).pins = [])
    ∧ (∀ (e : Nat) (s : State), e < 36 →
        Ends (.cryptoSelfTest e false) s (fun t => e ∈ t.dev.integ.crypto ∧ (t.work.bucket 5 e).level = 255)
          ∧ Ends (.cryptoSelfTest e true) s fun t => t.dev = s.dev)
    ∧ (∀ (c : Nat) (b : Bool) (s : State), c < 16 → (s.work.cluster c).dead = false →
        2 * c + (s.work.cluster c).pll ∉ s.dev.integ.plls → 2 * c + (1 - (s.work.cluster c).pll) ∉ s.dev.integ.plls →
        Ends (.pllLockLoss c ⟨false, b⟩) s fun t => (t.work.cluster c).pll = 1 - (s.work.cluster c).pll
          ∧ (t.work.bucket 6 (2 * c + (s.work.cluster c).pll)).level
              = min 255 ((s.work.bucket 6 (2 * c + (s.work.cluster c).pll)).level + if b then 8 else 4))
    ∧ (∀ (c : Nat) (b : Bool) (s : State), c < 16 → (s.work.cluster c).dead = false → (s.work.cluster c).pll ≤ 1 →
        2 * c + (s.work.cluster c).pll ∉ s.dev.integ.plls → 2 * c + (1 - (s.work.cluster c).pll) ∉ s.dev.integ.plls →
        Ends (.pllLockLoss c ⟨true, b⟩) s fun t => (t.work.cluster c).pll = (s.work.cluster c).pll
          ∧ (t.work.bucket 6 (2 * c + (1 - (s.work.cluster c).pll))).level
              = min 255 ((s.work.bucket 6 (2 * c + (1 - (s.work.cluster c).pll))).level + if b then 8 else 4))
    ∧ (∀ (k : Nat) (s : State), k < 56 → k ∉ s.dev.integ.phases →
        Ends (.powerPhaseTrip k true) s (fun t => k ∈ t.dev.integ.phases)
          ∧ Ends (.powerPhaseTrip k false) s fun t => (t.work.bucket 7 k).level = min 255 ((s.work.bucket 7 k).level + 8))
    ∧ (∀ (c : Nat) (s : State), c < 16 →
        Ends (.droopDetect c) s fun t =>
          Sparse.get (fun _ => 0#64) t.dev.obs.cnt (4096 * ((s.work.coresIn c).head?.map s.work.owner).getD 0 + 0x298)
            = Sparse.get (fun _ => 0#64) s.dev.obs.cnt (4096 * ((s.work.coresIn c).head?.map s.work.owner).getD 0 + 0x298) + 1)
    ∧ (∀ (r d : Nat) (s : State), s.dev.pwr.alive = true → 2 ≤ s.dev.pwr.phase → d < 4 → (s.work.die d).resetting = false →
        s.dev.pwr.standby = false → Ends (.railExcursion r d) s fun t => (t.work.die d).resetting = true)
    ∧ ∀ (r : Nat) (s : State), s.dev.pwr.alive = true → 2 ≤ s.dev.pwr.phase →
        Ends (.railExcursion r 4) s fun t => t.dev.pwr.phase = 2 ∧ t.dev.pwr.source = 7

/-- A supply that becomes valid is recorded and powers the Abutment; losing the auxiliary is recorded. A main failure or
over-voltage trip leaves the main input lost, everything unflushed flushed and the bucket levels saved, the link down,
and bring-up in B1 at most; the return of the main clears it, and the end of hold-up without any input takes power
away. A governor tick with no die hot or over its allowance shows power and voltage; above the cap it lowers the
busiest clusters by a step and shows CAPPED, below 97 % of the cap it raises every cluster by one. Within the cap, the
clusters of a die above 95 °C are lowered, and THERMAL shows. Voltage of clusters awake steps by 5 mV within 600 to
900 mV. A thermal trip with the auxiliary valid enters thermal standby, else it is a module reset that waits for the
diodes; cooling ends the wait, and below 85 °C the standby ends, with no parapet command waiting. ABT_LP_CTL asks for
standby, which is entered with empty scratchpads when its conditions hold, and left, with no parapet command waiting. -/
def Obligations.SuppliesGovernorAndStandbyActOnPower : Prop :=
  (∀ s : State, Ends (.supplyValid true) s (fun t => t.dev.pwr.mainOk = true ∧ t.dev.pwr.alive = true ∧ t.dev.pwr.auxOk = s.dev.pwr.auxOk)
      ∧ Ends (.supplyValid false) s fun t => t.dev.pwr.auxOk = true ∧ t.dev.pwr.alive = true ∧ t.dev.pwr.mainOk = s.dev.pwr.mainOk)
    ∧ (∀ s : State, s.dev.pwr.alive = true → s.dev.pwr.auxOk = true → Ends .auxLoss s fun t => t.dev.pwr.auxOk = false)
    ∧ (∀ s : State, s.dev.pwr.alive = true → s.dev.pwr.mainLost = false → (s.dev.pwr.mainOk = true ∨ 2 ≤ s.dev.pwr.phase) →
        Ends .mainPowerFail s (fun t => t.dev.pwr.mainLost = true ∧ t.dev.pwr.mainOk = false ∧ t.dev.obs.unflushed = 0
            ∧ t.dev.integ.saved = t.dev.integ.buckets ∧ t.dev.pwr.phase = min 1 s.dev.pwr.phase ∧ t.dev.pwr.source = 5 ∧ t.dev.pwr.linkUp = false)
          ∧ Ends .overVoltageTrip s fun t => t.dev.pwr.mainLost = true ∧ t.dev.pwr.mainOk = false ∧ t.dev.obs.unflushed = 0
            ∧ t.dev.integ.saved = t.dev.integ.buckets ∧ t.dev.pwr.phase = min 1 s.dev.pwr.phase ∧ t.dev.pwr.source = 6 ∧ t.dev.pwr.linkUp = false)
    ∧ (∀ s : State, s.dev.pwr.alive = true → s.dev.pwr.mainLost = true →
        Ends .mainReturn s fun t => t.dev.pwr.mainLost = false ∧ t.dev.pwr.mainOk = true)
    ∧ (∀ s : State, s.dev.pwr.alive = true → s.dev.pwr.auxOk = false → s.dev.pwr.mainOk = false →
        (s.dev.pwr.mainLost = true ∨ s.dev.pwr.phase ≤ 1) →
        Ends .holdUpExpiry s fun t => t.dev.pwr.alive = false ∧ t.dev.integ.buckets = s.dev.integ.saved)
    ∧ (∀ (watts volts : Nat) (bs : List Nat) (hs : List (Nat × Int)) (os : List (Nat × Nat)) (s : State), s.dev.pwr.alive = true →
        2 ≤ s.dev.pwr.phase → bs.Nodup → (∀ q ∈ hs, q.2 < 92) → (∀ q ∈ os, q.2 ≤ s.work.allowance q.1) →
        Ends (.powerGovernorTick watts volts bs hs os) s fun t => t.dev.pwr.pIn = min 4095 watts ∧ t.dev.pwr.vIn = min 511 volts
          ∧ t.dev.pwr.thermal = false ∧ (s.work.capNow volts < watts → t.dev.pwr.capped = true)
          ∧ ∀ c, c < 16 → (t.work.cluster c).lowered =
              if s.work.capNow volts < watts then
                (if c ∈ bs then min 31 ((s.work.cluster c).lowered + 1) else (s.work.cluster c).lowered)
              else if watts * 100 < s.work.capNow volts * 97 then (s.work.cluster c).lowered - 1
              else (s.work.cluster c).lowered)
    ∧ (∀ (watts volts d : Nat) (temp : Int) (bs : List Nat) (hs : List (Nat × Int)) (os : List (Nat × Nat)) (s : State),
        s.dev.pwr.alive = true → 2 ≤ s.dev.pwr.phase → d < 4 → (d, temp) ∈ hs → 95 < temp → watts ≤ s.work.capNow volts →
        Ends (.powerGovernorTick watts volts bs hs os) s fun t => t.dev.pwr.thermal = true
          ∧ ∀ k, k < 4 → (t.work.cluster (4 * d + k)).lowered = min 31 ((s.work.cluster (4 * d + k)).lowered + 1))
    ∧ (∀ (c : Nat) (up down : List Nat) (s : State), s.dev.pwr.alive = true → 3 ≤ s.dev.pwr.phase → c < 16 →
        (s.work.cluster c).asleep = false →
        Ends (.adaptiveVoltageStep up down) s fun t => (t.work.cluster c).millivolts =
          if c ∈ up then min 900 ((s.work.cluster c).millivolts + 5)
          else if c ∈ down then max 600 ((s.work.cluster c).millivolts - 5)
          else (s.work.cluster c).millivolts)
    ∧ (∀ s : State, s.dev.pwr.alive = true → 2 ≤ s.dev.pwr.phase → s.dev.pwr.standby = false →
        Ends .thermalTrip s fun t =>
          if s.dev.pwr.auxOk = true then t.dev.pwr.standby = true ∧ t.dev.pwr.tripped = true
          else t.dev.pwr.hot = true ∧ t.dev.pwr.phase = 2)
    ∧ (∀ (h : Int) (s : State), s.dev.pwr.hot = true → h < 85 → Ends (.thermalCooldown h) s fun t => t.dev.pwr.hot = false)
    ∧ (∀ (h : Int) (s : State), s.work.busUp = true → s.dev.pwr.standby = true → s.dev.pwr.tripped = true → h < 85 →
        (∀ j ∈ s.dev.cmd.parJobs, j.later = []) →
        Ends (.thermalStandbyExit h) s fun t => t.dev.pwr.standby = false ∧ t.dev.pwr.tripped = false ∧ t.dev.pwr.standbyReq = false)
    ∧ (∀ (v : Word) (s : State), s.work.busUp = true →
        Ends (.standbyRequest 0 v) s fun t => (bit v.toNat 0 = true → t.dev.pwr.standbyReq = true)
          ∧ (bit v.toNat 0 = false → s.dev.pwr.tripped = false →
              t.dev.pwr.standbyReq = false ∧ (s.dev.pwr.standby = true → t.dev.pwr.exiting = true)))
    ∧ (∀ s : State, s.work.mayStandBy = true →
        Ends .standbyEntry s fun t => t.dev.pwr.standby = true ∧ t.dev.pwr.exiting = false
          ∧ ∀ l, l < 128 → (t.work.core' l).tiles = [])
    ∧ ∀ s : State, s.dev.pwr.standby = true → s.dev.pwr.tripped = false → s.dev.pwr.exiting = true →
        (∀ j ∈ s.dev.cmd.parJobs, j.later = []) →
        Ends .standbyExit s fun t => t.dev.pwr.standby = false ∧ t.dev.pwr.standbyReq = false ∧ t.dev.pwr.exiting = false
          ∧ t.dev.pwr.pins = []

/-- The boot ROM runs the slot marked active if it verifies, else the other, else the module stays in recovery. Dies power
up into B2 and assert WAKE# while the link is down; the link comes up and releases it; B3 starts in trestle mode. A
stack joins and its trained values are kept, it is tried once more, or is lost with its channels; a port joins; with
every stack settled full service ends trestle mode, raises the clocks of clusters that hold no task and blows fuses up
to the SVN of an image marked COMMIT. PERST# in B3 or later, a hot reset, a link loss and the management's reset are
module resets: B2 again, with their source, with no step, no mapped page and no key left. -/
def Obligations.BringUpRunsItsPhases : Prop :=
  (∀ s : State, s.dev.pwr.alive = true → s.dev.pwr.phase = 0 →
      Ends .bootRomVerify s fun t => t.dev.pwr.phase = 1 ∧
        if s.work.slotVerifies s.dev.fw.runB = true then t.dev.fw.runB = s.dev.fw.runB ∧ t.dev.pwr.bootFailed = false
        else if s.work.slotVerifies (!s.dev.fw.runB) = true then t.dev.fw.runB = (!s.dev.fw.runB) ∧ t.dev.pwr.bootFailed = false
        else t.dev.fw.runB = s.dev.fw.runB ∧ t.dev.pwr.bootFailed = true)
    ∧ (∀ s : State, s.dev.pwr.alive = true → s.dev.pwr.bootFailed = false → s.dev.pwr.hot = false → s.dev.pwr.mainLost = false →
        s.dev.pwr.phase = 1 → s.dev.pwr.mainOk = true → s.dev.pwr.standby = false →
        Ends .diePowerUp s fun t => t.dev.pwr.phase = 2 ∧ t.dev.pwr.b2Done = true
          ∧ (s.dev.pwr.linkUp = false → t.dev.pwr.wake = true ∧ Sent s t (.wakePin true)))
    ∧ (∀ s : State, s.dev.pwr.alive = true → s.dev.pwr.perst = false → s.dev.pwr.mainLost = false → s.dev.pwr.bootFailed = false →
        2 ≤ s.dev.pwr.phase → s.dev.pwr.linkUp = false →
        Ends .pcieLinkUp s fun t => t.dev.pwr.linkUp = true ∧ t.dev.pwr.wake = false ∧ Sent s t (.linkState true))
    ∧ (∀ s : State, s.dev.pwr.alive = true → s.dev.pwr.phase = 2 → s.dev.pwr.b2Done = true → s.dev.pwr.perst = false →
        s.dev.pwr.standby = false →
        Ends .trestleStart s fun t => t.dev.pwr.phase = 3 ∧ t.dev.pwr.trestle = true ∧ t.dev.pwr.linkUp = true)
    ∧ (∀ (k : Nat) (s : State), s.dev.pwr.alive = true → 3 ≤ s.dev.pwr.phase → k < 8 →
        (s.work.stackState k = .training ∨ s.work.stackState k = .retry) →
        Ends (.stackTrainDone k true) s (fun t => t.work.stackState k = .joined ∧ (∃ v, (k, v) ∈ t.dev.pwr.trained) ∧ t.dev.pwr.phase = max 4 s.dev.pwr.phase)
          ∧ Ends (.stackTrainDone k false) s fun t =>
              (s.work.stackState k = .training → t.work.stackState k = .retry)
                ∧ (s.work.stackState k = .retry → t.work.stackState k = .lost
                    ∧ ∀ i, i < 32 → (t.work.chan (32 * k + i)).state = .lost))
    ∧ (∀ (k : Nat) (s : State), s.dev.pwr.alive = true → 3 ≤ s.dev.pwr.phase → k < 9 →
        ((s.work.port k).state = .training ∨ (s.work.port k).state = .down) →
        Ends (.portJoin k) s fun t => (t.work.port k).state = .up ∧ t.dev.pwr.phase = max 5 s.dev.pwr.phase)
    ∧ (∀ s : State, s.dev.pwr.alive = true → 3 ≤ s.dev.pwr.phase → s.dev.pwr.phase < 6 → s.dev.pwr.standby = false →
        (∀ k, k < 8 → s.work.stackState k = .joined ∨ s.work.stackState k = .lost) →
        Ends .fullService s fun t => t.dev.pwr.phase = 6 ∧ t.dev.pwr.trestle = false
          ∧ (∀ c, c < 16 → s.work.busyCluster c = false → (t.work.cluster c).fast = true)
          ∧ ∀ i, s.work.runImage = some i →
              t.fuses = (if i.commit then max s.fuses (min 63 i.svn) else s.fuses))
    ∧ (∀ s : State, Ends .perstAssert s fun t => t.dev.pwr.perst = true ∧ t.dev.pwr.linkUp = false
        ∧ (s.work.busUp = true → t.dev.pwr.phase = 2 ∧ t.dev.pwr.source = 1))
    ∧ (∀ s : State, Ends .perstRelease s fun t => t.dev = { s.dev with pwr := { s.dev.pwr with perst := false } })
    ∧ (∀ s : State, s.dev.pwr.alive = true → s.dev.pwr.linkUp = true → s.dev.pwr.perst = false →
        Ends .pcieHotReset s (fun t => t.dev.pwr.phase = 2 ∧ t.dev.pwr.source = 2 ∧ t.dev.pwr.trestle = true
            ∧ t.dev.pwr.kind = (if s.dev.pwr.auxOk then 1 else 2) ∧ t.dev.step.steps = [] ∧ t.dev.hbm.pages = []
            ∧ ∀ k, (t.work.keySlot k).state = .empty)
          ∧ Ends .dataLinkDown s fun t => t.dev.pwr.phase = 2 ∧ t.dev.pwr.source = 3 ∧ t.dev.pwr.trestle = true
            ∧ t.dev.pwr.kind = (if s.dev.pwr.auxOk then 1 else 2) ∧ t.dev.step.steps = [] ∧ t.dev.hbm.pages = []
            ∧ ∀ k, (t.work.keySlot k).state = .empty)
    ∧ ∀ (c : Nat) (s : State), s.allows c .operator = true → 2 ≤ s.dev.pwr.phase →
        Ends (.mgmtModuleReset c) s fun t => t.dev.pwr.phase = 2 ∧ t.dev.pwr.source = 4 ∧ t.dev.step.steps = []
          ∧ Sent s t (.redfish 200 [])

/-- FW_STAGE of an image that fits, with none being staged or activated, empties the slot that does not run; the running
image stays. At its end the image stands there if it passes every check, and the command replies ST_OK or the first
failing check's status. FW_ACTIVATE of the slot that does not run starts an activation if its image verifies, and else
gets ST_REFUSED_FORMAT. The window opens when no compute phase runs, the switch then runs the other slot and replies
ST_OK (with no parapet command waiting for it), and a drain that lasts too long ends with ST_RETRY_LATER. A staging of
the PF ends only while its host path is not stopped. An Administrator stages and activates likewise, and commits the
running image's SVN to the fuses. -/
def Obligations.FirmwareIsStagedAndActivated : Prop :=
  (∀ (p : Pkt) (s : State), s.starts opFwStage p = true → s.dev.fw.stageCmd = none → s.work.activating = false →
      p.arg 24 4 ≤ 50331648 →
      Ends (.fwStage p) s fun t => Moved s t p ∧ s.work.cmdOf opFwStage p ∈ t.dev.cmd.cmds ∧ t.dev.fw.stage = 1
        ∧ t.dev.fw.stageCmd = some (some s.dev.cmd.nextId) ∧ t.work.otherImage = none ∧ t.work.runImage = s.work.runImage)
    ∧ (∀ (c : Nat) (s : State), s.dev.fw.stageCmd = some (some c) → (s.work.sp 0).stopHost = false →
        Ends .fwStageDone s fun t => t.dev.fw.stageCmd = none ∧ t.work.runImage = s.work.runImage
          ∧ Finished s t c ((s.work.stageFault s.dev.fw.stageImage).getD .ok)
          ∧ (s.work.stageFault s.dev.fw.stageImage = none →
              t.dev.fw.stage = 2 ∧ t.work.otherImage = some (FwImage.ofBytes s.dev.fw.stageImage))
          ∧ (s.work.stageFault s.dev.fw.stageImage ≠ none → t.dev.fw.stage = 0))
    ∧ (∀ (p : Pkt) (s : State), s.starts opFwActivate p = true → s.work.activating = false → p.arg 12 1 ≤ 1 →
        (p.arg 12 1 == 1) ≠ s.dev.fw.runB →
        Ends (.fwActivate p) s fun t => Moved s t p ∧
          if s.work.slotVerifies (p.arg 12 1 == 1) = true then
            t.dev.fw.act = 1 ∧ t.dev.fw.actCmd = some (some s.dev.cmd.nextId) ∧ s.work.cmdOf opFwActivate p ∈ t.dev.cmd.cmds
          else Answered s t p .refusedFormat ∧ t.dev.fw = s.dev.fw)
    ∧ (∀ (p : Pkt) (s : State), s.starts opFwActivate p = true → s.work.activating = true →
        Ends (.fwActivate p) s fun t => Moved s t p ∧ Answered s t p .retryLater ∧ t.dev.fw = s.dev.fw)
    ∧ (∀ s : State, s.dev.fw.act = 1 → (∀ x ∈ s.dev.step.steps, x.phase ≠ .compute) →
        Ends .fwActivateWindow s fun t => t.dev.fw = { s.dev.fw with act := 2 })
    ∧ (∀ (c : Nat) (s : State), s.dev.fw.act = 2 → s.dev.fw.actCmd = some (some c) → (∀ j ∈ s.dev.cmd.parJobs, j.later = []) →
        Ends .fwSwitch s fun t => t.dev.fw.act = 0 ∧ t.dev.fw.runB = (!s.dev.fw.runB) ∧ t.dev.fw.stage = 0 ∧ Finished s t c .ok)
    ∧ (∀ (c : Nat) (s : State), s.dev.fw.act = 1 → s.dev.fw.actCmd = some (some c) →
        Ends .fwActivateTimeout s fun t => t.dev.fw.act = 3 ∧ t.dev.fw.runB = s.dev.fw.runB ∧ Finished s t c .retryLater)
    ∧ (∀ (c : Nat) (b : List Byte) (s : State), s.allows c .administrator = true → s.dev.fw.stageCmd = none →
        s.work.activating = false →
        Ends (.mgmtFwUpload c b) s fun t => t.dev.fw.stage = 1 ∧ t.dev.fw.stageCmd = some none ∧ t.dev.fw.stageImage = b
          ∧ t.work.otherImage = none ∧ Sent s t (.redfish 202 []))
    ∧ (∀ (c : Nat) (s : State), s.allows c .administrator = true → s.work.activating = false →
        Ends (.mgmtFwActivate c) s fun t =>
          if s.work.slotVerifies (!s.dev.fw.runB) = true then t.dev.fw.act = 1 ∧ Sent s t (.redfish 202 [])
          else t.dev.fw = s.dev.fw ∧ Sent s t (.redfish 400 []))
    ∧ ∀ (c : Nat) (i : FwImage) (s : State), s.allows c .administrator = true → s.work.runImage = some i →
        Ends (.mgmtSvnCommit c) s fun t => t.fuses = max s.fuses (min 63 i.svn) ∧ Sent s t (.redfish 200 [])

/-- KEY_INSTALL of a well-formed block into an empty slot of the span gets ST_REFUSED_PERMISSION when the block does not
unwrap, ST_REFUSED_FORMAT when its halves are equal, and else installs the key, counts its handle up and replies
ST_OK; a slot that is not empty gets ST_RETRY_LATER. ATTEST writes the answer to its request into the buffer and
replies its length, or is refused when it does not fit. Each SPDM request over an open path gets its response, signed
measurements with the values of R396 and unsigned ones an error; in an activation window measurements are not ready.
(The response codes and the refusal for want of room are the model's: the log entries on SPDM.) -/
def Obligations.KeysAreInstalledAndSpdmAnswers : Prop :=
  (∀ (p : Pkt) (s : State), s.starts opKeyInstall p = true → s.work.ownKey p.fn (p.arg 12 2) = true →
      (s.work.keySlot (p.arg 12 2)).state = .empty → keyBlockOk (padTo 256 (p.block.take 256)) (p.arg 12 2) p.fn = true →
      Ends (.keyInstall p) s fun t => Moved s t p ∧
        match Config.unwrapKey (padTo 256 (p.block.take 256)) with
        | none => Answered s t p .refusedPermission ∧ t.dev.fw = s.dev.fw
        | some k =>
          if k.toNat % 2 ^ 256 = k.toNat / 2 ^ 256 then Answered s t p .refusedFormat ∧ t.dev.fw = s.dev.fw
          else Answered s t p .ok ∧ t.work.keySlot (p.arg 12 2) = { s.work.keySlot (p.arg 12 2) with
                  state := .installed, count := ((s.work.keySlot (p.arg 12 2)).count + 1) % 2 ^ 20, key := k })
    ∧ (∀ (p : Pkt) (s : State), s.starts opKeyInstall p = true → s.work.ownKey p.fn (p.arg 12 2) = true →
        (s.work.keySlot (p.arg 12 2)).state ≠ .empty →
        Ends (.keyInstall p) s fun t => Moved s t p ∧ Answered s t p .retryLater ∧ t.dev.fw = s.dev.fw)
    ∧ (∀ (p : Pkt) (req : List Byte) (a : Nat × List (Nat × List Byte) × List Byte) (s : State), s.starts opAttest p = true →
        req = padTo (p.arg 32 4) (p.block.take (p.arg 32 4)) →
        (s.work.spdmAnswer (rd req 1 1) req (if rd req 3 1 = 0xFF then List.range 26 else [rd req 3 1])).1 = a →
        Ends (.attest p) s fun t => Moved s t p ∧
          let body := leBytes 1 0x13 ++ leBytes 1 a.1 ++ (a.2.1.flatMap fun m => leBytes 1 m.1 ++ m.2) ++ a.2.2
          if p.arg 36 4 < body.length then Answered s t p .refusedFit
          else Answered s t p .ok (.count body.length) ∧ Sent s t (.hostWrite p.fn (p.arg 24 8) body))
    ∧ (∀ (path : SpdmPath) (req : List Byte) (s : State), s.work.pathOpen path = true →
        Ends (.getVersion path req) s (fun t => Sent s t (.spdm path 0x04 [] (Config.spdmBytes s.dev.fw.spdmCount req)))
          ∧ Ends (.getCapabilities path req) s (fun t => Sent s t (.spdm path 0x61 [] (Config.spdmBytes s.dev.fw.spdmCount req)))
          ∧ Ends (.negotiateAlgorithms path req) s (fun t => Sent s t (.spdm path 0x63 [] (Config.spdmBytes s.dev.fw.spdmCount req)))
          ∧ Ends (.getDigests path req) s (fun t => Sent s t (.spdm path 0x01 [] (Config.spdmBytes s.dev.fw.spdmCount req)))
          ∧ Ends (.getCertificate path req) s (fun t => Sent s t (.spdm path 0x02 [] (Config.spdmBytes s.dev.fw.spdmCount req)))
          ∧ Ends (.challenge path req) s fun t => Sent s t (.spdm path 0x03 [] (Config.spdmBytes s.dev.fw.spdmCount req)))
    ∧ (∀ (path : SpdmPath) (req : List Byte) (ix : List Nat) (s : State), s.work.pathOpen path = true → s.dev.fw.act ≠ 2 →
        bit (rd req 2 1) 0 = true →
        Ends (.getMeasurements path req ix) s fun t =>
          Sent s t (.spdm path 0x60 (s.work.measures.filter fun m => ix.contains m.1) (Config.spdmBytes s.dev.fw.spdmCount req)))
    ∧ (∀ (path : SpdmPath) (req : List Byte) (ix : List Nat) (s : State), s.work.pathOpen path = true → s.dev.fw.act ≠ 2 →
        bit (rd req 2 1) 0 = false →
        Ends (.getMeasurements path req ix) s fun t => Sent s t (.spdm path 0x7F [] (Config.spdmBytes s.dev.fw.spdmCount req)))
    ∧ ∀ (path : SpdmPath) (req : List Byte) (ix : List Nat) (s : State), s.work.pathOpen path = true → s.dev.fw.act = 2 →
        Ends (.getMeasurements path req ix) s fun t => Sent s t (.spdmNotReady path 17) ∧ t.dev.fw = s.dev.fw

/-- In a free slot, with neither standby nor an activation window on and no command waiting: HALT_SPAN halts its span and
its resume clears halt and stops; STOP_TRAFFIC halts it and stops the paths it names, and its resume clears them; each
notes its TAG and leaves its slot free. ABORT_STEP ends every step it names of which no engine runs an operation; one
of which some engine does is marked, keeps those operations and loses the queued ones. RESET_SPAN, and a function-
level reset with no parapet command waiting, make a span that is in no reset RESETTING. A write to a free slot that
does not cover its last four bytes is stored and nothing more, and so is, for spans and steps, one that ends the
packet but makes no command: malformed, or for a span that its function may not name or that is absent. A write to a
busy slot is dropped and counted. -/
def Obligations.TheParapetLaneActsAtOnce : Prop :=
  (∀ (m : MboxCmd) (s : State), s.parapet m (m.packet 0x0F00 (some 0)) = true →
      Ends (.haltSpan m) s fun t => (t.work.sp m.span.toNat).halted = true ∧ (t.work.par m.fn).lastTag = m.tag
        ∧ (t.work.mbox m.fn m.slot).busy = none)
    ∧ (∀ (m : MboxCmd) (s : State), s.parapet m (m.packet 0x0F00 (some 1)) = true →
        Ends (.haltSpanResume m) s fun t => (t.work.sp m.span.toNat).halted = false ∧ (t.work.sp m.span.toNat).stopHost = false
          ∧ (t.work.sp m.span.toNat).stopVdt = false ∧ (t.work.par m.fn).lastTag = m.tag
          ∧ (t.work.mbox m.fn m.slot).busy = none)
    ∧ (∀ (m : MboxCmd) (s : State), s.parapet m (m.packet 0x0F01 none) = true →
        Ends (.abortStep m) s fun t => ∀ x ∈ s.dev.step.steps, s.work.stepOf x.id = some x →
          x.abortedBy m.span.toNat (rd (m.packet 0x0F01 none) 13 1) (rd (m.packet 0x0F01 none) 12 1)
            (rd (m.packet 0x0F01 none) 16 3) = true →
          ((∀ g ∈ s.dev.step.inflight, g.step = x.id → x.admitted = true → s.work.running g = false) →
              ∀ y ∈ t.dev.step.steps, y.id = x.id → y.phase = .ended)
            ∧ ∀ f ∈ s.dev.step.inflight, f.step = x.id → x.admitted = true → x.phase = .compute → s.work.running f = true →
                (∀ y ∈ t.dev.step.steps, y.id = x.id → y.phase = .compute ∧ y.aborting = some s.dev.cmd.nextId)
                  ∧ f ∈ t.dev.step.inflight ∧ ∀ g ∈ t.dev.step.inflight, g.step = x.id → s.work.running g = true)
    ∧ (∀ (m : MboxCmd) (s : State), s.parapet m (m.packet 0x0F02 (some 0)) = true →
        Ends (.stopTraffic m) s fun t => (t.work.sp m.span.toNat).halted = true
          ∧ (bit (rd (m.packet 0x0F02 (some 0)) 13 1) 0 = true → (t.work.sp m.span.toNat).stopHost = true)
          ∧ (bit (rd (m.packet 0x0F02 (some 0)) 13 1) 1 = true → (t.work.sp m.span.toNat).stopVdt = true)
          ∧ (t.work.par m.fn).lastTag = m.tag ∧ (t.work.mbox m.fn m.slot).busy = none)
    ∧ (∀ (m : MboxCmd) (s : State), s.parapet m (m.packet 0x0F02 (some 1)) = true →
        Ends (.stopTrafficResume m) s fun t => (t.work.sp m.span.toNat).halted = false ∧ (t.work.sp m.span.toNat).stopHost = false
          ∧ (t.work.sp m.span.toNat).stopVdt = false ∧ (t.work.par m.fn).lastTag = m.tag
          ∧ (t.work.mbox m.fn m.slot).busy = none)
    ∧ (∀ (m : MboxCmd) (s : State), s.parapet m (m.packet 0x0F03 none) = true → (s.work.sp m.span.toNat).reset = none →
        Ends (.resetSpan m) s fun t => (t.work.sp m.span.toNat).mode = .resetting
          ∧ ∃ j, (t.work.sp m.span.toNat).reset = some j ∧ j.stage = .draining ∧ j.pars = [s.dev.cmd.nextId])
    ∧ (∀ (fn : Nat) (s : State), s.work.busUp = true → fn < 64 → (s.work.sp fn).mode ≠ .absent → (s.work.sp fn).reset = none →
        (∀ j ∈ s.dev.cmd.parJobs, j.later = []) →
        Ends (.functionLevelReset fn) s fun t => (t.work.sp fn).mode = .resetting
          ∧ ∃ j, (t.work.sp fn).reset = some j ∧ j.stage = .draining ∧ j.flr = true)
    ∧ (∀ (fn k o : Nat) (d : List Byte) (s : State), s.slotOpen fn k = true → d ≠ [] → o + d.length ≤ 64 →
        ¬ (o ≤ 60 ∧ o + d.length = 64) → (s.work.mbox fn k).busy = none →
        Ends (.mailboxWrite fn k o d) s fun t =>
          t.work.mbox fn k = { busy := none, bytes := (s.work.mbox fn k).bytes.take o ++ d ++ (s.work.mbox fn k).bytes.drop (o + d.length) }
            ∧ t.dev.span = s.dev.span ∧ t.dev.step = s.dev.step)
    ∧ (∀ (fn k o : Nat) (d b : List Byte) (s : State), s.slotOpen fn k = true → o ≤ 60 → o + d.length = 64 →
        (s.work.mbox fn k).busy = none → (s.work.mbox fn k).bytes.length = 64 → b = (s.work.mbox fn k).bytes.take o ++ d →
        (parapetOk b = false ∨ (fn ≠ 0 ∧ rd b 4 1 ≠ fn) ∨ 63 < rd b 4 1 ∨ (s.work.sp (rd b 4 1)).mode = .absent) →
        Ends (.mailboxWrite fn k o d) s fun t => t.work.mbox fn k = { busy := none, bytes := b }
          ∧ t.dev.span = s.dev.span ∧ t.dev.step = s.dev.step)
    ∧ ∀ (fn k o : Nat) (d : List Byte) (s : State), s.slotOpen fn k = true → d ≠ [] → o + d.length ≤ 64 →
        (s.work.mbox fn k).busy ≠ none →
        Ends (.mailboxWrite fn k o d) s fun t => t.work.mbox fn k = s.work.mbox fn k
          ∧ (t.work.par fn).drops = min 255 ((s.work.par fn).drops + 1)

/-- HEALTH_QUERY writes the health view to its address and replies ST_OK. A refresh advances HLT_SEQ and shows the
capacity, bandwidth and ports. A flush with no record refused leaves nothing unflushed and adds the unflushed records
to the flash log; one after refused records leaves a DROPPED record with their number. Selecting an event makes the
latch busy; a record of the ring, or else of the log, is then latched as the function sees it, another span's without
its payload, and where none is held a record of TYPE 0 with the lowest number of the log. The PF's clear of the ring
leaves only CLEARED records and their snapshots, its clear of the log none there; a VF's does nothing. A read of a
counter's low word returns it and latches its high word; a change of SCOPE drops the PF's latched words. -/
def Obligations.CountersAndEventsAreObserved : Prop :=
  (∀ (p : Pkt) (s : State), s.starts opHealthQuery p = true →
      Ends (.healthQuery p) s fun t => Moved s t p ∧ Answered s t p .ok ∧ Sent s t (.hostWrite p.fn (p.arg 16 8) s.work.healthView))
    ∧ (∀ (x : Sensors) (s : State), s.dev.pwr.alive = true →
        Ends (.healthRefresh x) s fun t => t.work.readReg 0 0x600C = (s.work.readReg 0 0x600C + 1) % 2 ^ 32
          ∧ t.work.readReg 0 0x6010 = s.work.capacity ∧ t.work.readReg 0 0x6014 = s.work.sustained
          ∧ t.work.readReg 0 0x6018 = 200 * min 8 ((List.range 9).filter fun p => (s.work.port p).state != .retired).length)
    ∧ (∀ s : State, s.dev.pwr.alive = true → s.dev.obs.flushDue = true → s.dev.obs.refused = 0 →
        Ends .eventFlush s fun t => t.dev.obs = { s.dev.obs with
          flash := flashTrim 257 (s.dev.obs.flash ++ s.dev.obs.ring.drop (s.dev.obs.ring.length - s.dev.obs.unflushed)),
          unflushed := 0, flushDue := false })
    ∧ (∀ s : State, s.dev.pwr.alive = true → 0 < s.dev.obs.refused →
        Ends .eventFlush s fun t => t.dev.obs.refused = 0
          ∧ ∃ r ∈ t.dev.obs.ring, r.ty = 15 ∧ r.payload = leBytes 4 s.dev.obs.refused)
    ∧ (∀ (fn : Nat) (v : Word) (s : State), s.work.busUp = true → fn < 64 →
        Ends (.trcEvSel fn v) s fun t => t.work.latch fn = { s.work.latch fn with sel := v.toNat, busy := true })
    ∧ (∀ (fn : Nat) (r : EvRec) (s : State), (s.work.latch fn).busy = true →
        (s.dev.obs.ring.find? (fun r => r.seq == (s.work.latch fn).sel) = some r
          ∨ (s.dev.obs.ring.find? (fun r => r.seq == (s.work.latch fn).sel) = none
              ∧ s.dev.obs.flash.find? (fun r => r.seq == (s.work.latch fn).sel) = some r)) →
        Ends (.eventRecordLatched fn) s fun t => (t.work.latch fn).busy = false ∧ ∃ q, (t.work.latch fn).record = some q
          ∧ q.seq = r.seq ∧ q.ty = r.ty ∧ ((fn = 0 ∨ r.device = true ∨ r.span = fn) → q = r)
          ∧ (fn ≠ 0 → r.device = false → r.span ≠ fn → q.payload = List.replicate r.payload.length 0#8))
    ∧ (∀ (fn : Nat) (s : State), (s.work.latch fn).busy = true → (∀ r ∈ s.dev.obs.ring ++ s.dev.obs.flash, r.seq ≠ (s.work.latch fn).sel) →
        Ends (.eventRecordLatched fn) s fun t => (t.work.latch fn).busy = false ∧ ∃ q, (t.work.latch fn).record = some q
          ∧ q.ty = 0 ∧ q.payload = [] ∧ q.seq = s.work.flFirst)
    ∧ (∀ s : State, s.work.busUp = true →
        Ends (.trcEvClearRing 0) s (fun t => (∃ r ∈ t.dev.obs.ring, r.ty = 14) ∧ (∀ r ∈ t.dev.obs.ring, r.ty = 14 ∨ r.ty = 13)
            ∧ t.dev.obs.flash = s.dev.obs.flash)
          ∧ Ends (.trcEvClearFlash 0) s fun t => t.dev.obs.flash = [] ∧ ∃ r ∈ t.dev.obs.ring, r.ty = 14)
    ∧ (∀ (fn : Nat) (s : State), fn ≠ 0 →
        Ends (.trcEvClearRing fn) s (fun t => t.dev = s.dev) ∧ Ends (.trcEvClearFlash fn) s fun t => t.dev = s.dev)
    ∧ (∀ (fn off : Nat) (s : State), s.work.busUp = true → fn < 64 → 0x4000 ≤ off → off < 0x5000 → isCounter (off % 0x1000) = true →
        Ends (.cntLoRead fn off) s fun t => Sent s t (.readData fn (leBytes 4 (s.work.counter fn (off % 0x1000))))
          ∧ t.work.readReg fn (off + 4) = s.work.counter fn (off % 0x1000) / 2 ^ 32)
    ∧ ∀ (v : Word) (s : State), s.work.busUp = true → bit (s.work.regv 0 0x40FC) 0 ≠ bit v.toNat 0 →
        Ends (.cntFmtCtlWrite 0 v) s fun t => t.work.regv 0 0x40FC = v.toNat % 2 ∧ ∀ q ∈ t.dev.obs.hi, q.1 / 65536 ≠ 0

/-- A trace enabled over a good region of the span's WRITABLE pages runs on the span's cores from record 0, with ERR
clear; with a region that is not (page-aligned, of 128 to 2,048 pages, of WRITABLE pages of the span), or without a
core, it does not start and ERR is set; clearing EN stops it. A write of the power cap by the PF is in force, clamped
to 600 to 2,200 W; a write of VDT_RANK names the rank; a write by a VF to a register of the PF's own region changes no
register. A write of VDT_RT_ADDR3 by the PF commits the four words to the entry at VDT_RT_IDX and no other. -/
def Obligations.RegistersAndTracesAreSetUp : Prop :=
  (∀ (fn : Nat) (v : Word) (s : State), s.work.busUp = true → fn < 64 → bit (s.work.regv fn 0x8020) 0 = false →
      (s.work.regv fn 0x8024 + 2 ^ 32 * s.work.regv fn 0x8028) % pageBytes = 0 → 128 ≤ s.work.regv fn 0x802C % 4096 →
      s.work.regv fn 0x802C % 4096 ≤ 2048 →
      (s.work.regv fn 0x8024 + 2 ^ 32 * s.work.regv fn 0x8028) / pageBytes + s.work.regv fn 0x802C % 4096 ≤ 2 ^ 27 →
      s.work.coresOf fn ≠ [] →
      s.work.traceRegion fn (s.work.regv fn 0x8024 + 2 ^ 32 * s.work.regv fn 0x8028) (s.work.regv fn 0x802C % 4096) = true →
      Ends (.traceEnable fn v) s fun t => bit (t.work.regv fn 0x8020) 0 = true
        ∧ Sparse.get (fun _ => false) t.dev.obs.trcErr fn = false
        ∧ (∀ l ∈ s.work.coresOf fn, Sparse.get (fun _ => 0) t.dev.obs.wptr l = 0)
        ∧ ∃ x, t.work.traceOf fn = some x ∧ x.cores = s.work.coresOf fn ∧ x.pages = s.work.regv fn 0x802C % 4096
          ∧ x.base = s.work.regv fn 0x8024 + 2 ^ 32 * s.work.regv fn 0x8028)
    ∧ (∀ (fn : Nat) (v : Word) (s : State), s.work.busUp = true → fn < 64 → bit (s.work.regv fn 0x8020) 0 = false →
        ((s.work.regv fn 0x8024 + 2 ^ 32 * s.work.regv fn 0x8028) % pageBytes ≠ 0 ∨ s.work.regv fn 0x802C % 4096 < 128
          ∨ 2048 < s.work.regv fn 0x802C % 4096 ∨ s.work.coresOf fn = []
          ∨ s.work.traceRegion fn (s.work.regv fn 0x8024 + 2 ^ 32 * s.work.regv fn 0x8028) (s.work.regv fn 0x802C % 4096) = false) →
        Ends (.traceEnable fn v) s fun t => bit (t.work.regv fn 0x8020) 0 = false
          ∧ Sparse.get (fun _ => false) t.dev.obs.trcErr fn = true ∧ t.work.traceOf fn = s.work.traceOf fn)
    ∧ (∀ (fn : Nat) (s : State), s.work.busUp = true → fn < 64 → bit (s.work.regv fn 0x8020) 0 = true →
        Ends (.traceDisable fn) s fun t => bit (t.work.regv fn 0x8020) 0 = false ∧ t.work.traceOf fn = none)
    ∧ (∀ (v : Word) (s : State), s.work.busUp = true →
        Ends (.registerWrite 0 0x5500 v) s (fun t => t.work.powerCap = max 600 (min 2200 (v.toNat % 4096)))
          ∧ Ends (.registerWrite 0 0x7000 v) s fun t =>
              t.work.rank = (if v.toNat % 65536 ≤ 16383 then some (v.toNat % 65536) else none))
    ∧ (∀ (fn off : Nat) (v : Word) (s : State), 0 < fn → fn < 64 → 0x5000 ≤ off → off < 0x6000 → s.work.busUp = true →
        Ends (.registerWrite fn off v) s fun t => ∀ f o, t.work.regv f o = s.work.regv f o)
    ∧ ∀ (v : Word) (s : State), s.work.busUp = true →
        Ends (.rankTableCommit 0 v) s fun t => (t.work.rankAddr (s.work.regv 0 0x7020 % 16384)
            = BitVec.ofNat 128 (s.work.regv 0 0x7024 + s.work.regv 0 0x7028 * 2 ^ 32 + s.work.regv 0 0x702C * 2 ^ 64 + v.toNat * 2 ^ 96))
          ∧ ∀ r, r ≠ s.work.regv 0 0x7020 % 16384 → t.work.rankAddr r = s.work.rankAddr r

/-- Without a trust anchor the first enrolment is taken outside recovery, and every other request gets 403 and changes
nothing but what goes out; with one, an enrolment gets 403. A Reader fetches the health view and the other readings.
An Operator's debug read gets 200 with what there is to read, a register's word among others, or 404; one of a
scratchpad slot, with nothing unflushed, leaves a record with the core's span and the range. An Operator starts a load
test on a target that can be tested, sets up a trace, enabling it over a good region or not, and sets whether the
window is off from the next reset. An Administrator enrols the co-signing key once, returns a retired core, port,
channel, crypto engine, PLL or phase to service, the core with an empty bucket, and gets 400 for a part that is not
retired; loads a pack that passes its checks, sets anchors and roles (never none of the anchors), clears the event
ring and the log as asked, and sets whether MCTP is off. -/
def Obligations.ManagementActsByRole : Prop :=
  (∀ (a : List Byte) (s : State), s.work.mgmtUp = true → s.dev.fw.act ≠ 2 → s.dev.pwr.bootFailed = false →
      Ends (.mgmtEnrolAnchor a) s fun t =>
        (s.dev.fw.anchors = [] → t.dev.fw = { s.dev.fw with anchors := [a] } ∧ Sent s t (.redfish 200 []))
          ∧ (s.dev.fw.anchors ≠ [] → t.dev.fw = s.dev.fw ∧ Sent s t (.redfish 403 [])))
    ∧ (∀ (c : Instr) (u x y z k : Nat) (v : Word) (g h : Bool) (l : List Byte) (as : List (List Byte)) (rs : List (Nat × Role))
        (cl : BktClass) (s : State), s.work.mgmtUp = true → s.dev.fw.act ≠ 2 → s.dev.fw.anchors = [] →
        c ∈ [Instr.mgmtRead u x, .mgmtDebugRead u x y z k, .mgmtModuleReset u, .mgmtLoadtestRun u x y, .mgmtTraceConfig u x y z v,
          .mgmtFwUpload u l, .mgmtFwActivate u, .mgmtSvnCommit u, .mgmtCosignEnrol u l, .mgmtPartReturn u cl x, .mgmtPackUpload u l,
          .mgmtCredentials u as rs, .mgmtEventClear u g h, .mgmtDisableMctp u g, .mgmtDisableWindow u g] →
        Ends c s fun t => Sent s t (.redfish 403 []) ∧ ∀ q, q ≠ Part.cmd → q.same s t)
    ∧ (∀ (u : Nat) (s : State), s.allows u .reader = true → Ends (.mgmtRead u 0) s fun t => Sent s t (.redfish 200 s.work.healthView))
    ∧ (∀ (u what : Nat) (d : List Byte) (s : State), s.allows u .reader = true → s.work.readout what = some d →
        Ends (.mgmtRead u what) s fun t => Sent s t (.redfish 200 d) ∧ ∀ q, q ≠ Part.cmd → q.same s t)
    ∧ (∀ (u fn off k : Nat) (s : State), s.allows u .operator = true → fn < 64 → off < 65536 →
        Ends (.mgmtDebugRead u 0 fn off k) s fun t => Sent s t (.redfish 200 (leBytes 4 (s.work.readReg fn off))))
    ∧ (∀ (u l slot k : Nat) (s : State), s.allows u .operator = true → l < 128 → slot ≤ 2879 → k ≤ 4352 →
        s.dev.obs.unflushed = 0 →
        Ends (.mgmtDebugRead u 3 l slot k) s fun t => ∃ r ∈ t.dev.obs.ring, r.ty = 7 ∧ r.span = s.work.owner l
          ∧ r.names = .range 3 l slot k)
    ∧ (∀ (u what a b k : Nat) (d : List Byte) (o : Option Nat) (s : State), s.allows u .operator = true →
        (s.work.debug what a b k).1 = some (d, o) → Ends (.mgmtDebugRead u what a b k) s fun t => Sent s t (.redfish 200 d))
    ∧ (∀ (u what a b k : Nat) (s : State), s.allows u .operator = true → (s.work.debug what a b k).1 = none →
        Ends (.mgmtDebugRead u what a b k) s fun t => Sent s t (.redfish 404 []))
    ∧ (∀ (u scope unit : Nat) (cs : List Nat) (s : State), s.allows u .operator = true → s.work.busUp = true →
        s.dev.pwr.standby = false → s.work.testTarget scope unit = .ok cs →
        Ends (.mgmtLoadtestRun u scope unit) s fun t => Sent s t (.redfish 202 [])
          ∧ ∃ j, t.dev.core.tests = s.dev.core.tests ++ [j] ∧ j.cmd = none ∧ j.cores = cs ∧ (j.kind = 4 ∨ j.kind = 6))
    ∧ (∀ (u n a k : Nat) (v : Word) (s : State), s.allows u .operator = true → n ≤ 63 → bit v.toNat 0 = false →
        Ends (.mgmtTraceConfig u n a k v) s fun t => Sent s t (.redfish 200 []) ∧ bit (t.work.regv n 0x8020) 0 = false
          ∧ t.work.regv n 0x802C % 4096 = k % 4096)
    ∧ (∀ (u n a k : Nat) (v : Word) (s : State), s.allows u .operator = true → n ≤ 63 → bit v.toNat 0 = true →
        bit (s.work.regv n 0x8020) 0 = false → a % pageBytes = 0 → 128 ≤ k → k ≤ 2048 → a / pageBytes + k ≤ 2 ^ 27 →
        s.work.coresOf n ≠ [] → s.work.traceRegion n a k = true →
        Ends (.mgmtTraceConfig u n a k v) s fun t => Sent s t (.redfish 200 [])
          ∧ ∃ x, t.work.traceOf n = some x ∧ x.cores = s.work.coresOf n ∧ x.pages = k ∧ x.base = a)
    ∧ (∀ (u : Nat) (b : Bool) (s : State), s.allows u .operator = true →
        Ends (.mgmtDisableWindow u b) s fun t => Sent s t (.redfish 200 []) ∧ t.dev.fw = { s.dev.fw with windowOffNext := b })
    ∧ (∀ (u : Nat) (l : List Byte) (s : State), s.allows u .administrator = true →
        Ends (.mgmtCosignEnrol u l) s fun t =>
          if s.dev.fw.cosign = none then t.dev.fw = { s.dev.fw with cosign := some l } ∧ Sent s t (.redfish 200 [])
          else t.dev.fw = s.dev.fw ∧ Sent s t (.redfish 409 []))
    ∧ (∀ (u c : Nat) (s : State), s.allows u .administrator = true → c < 144 → (s.work.phys c).state = .retired →
        s.work.logOf c = none → (s.work.cluster (c / 9)).dead = false →
        Ends (.mgmtPartReturn u .core c) s fun t => Sent s t (.redfish 200 [])
          ∧ ((t.work.phys c).state = .active ∨ (t.work.phys c).state = .spare) ∧ (t.work.bucket 0 c).level = 0)
    ∧ (∀ (u k : Nat) (s : State), s.allows u .administrator = true →
        (k < 9 → (s.work.port k).state = .retired →
          Ends (.mgmtPartReturn u .vdtPort k) s fun t => Sent s t (.redfish 200 []) ∧ (t.work.port k).state = .training)
        ∧ (k < 256 → (s.work.chan k).state = .retired →
          Ends (.mgmtPartReturn u .hbmChannel k) s fun t => Sent s t (.redfish 200 []) ∧ (t.work.chan k).state = .inService)
        ∧ (k < 36 → k ∈ s.dev.integ.crypto →
          Ends (.mgmtPartReturn u .crypto k) s fun t => Sent s t (.redfish 200 []) ∧ k ∉ t.dev.integ.crypto)
        ∧ (k < 32 → k ∈ s.dev.integ.plls →
          Ends (.mgmtPartReturn u .pll k) s fun t => Sent s t (.redfish 200 []) ∧ k ∉ t.dev.integ.plls)
        ∧ (k < 56 → k ∈ s.dev.integ.phases →
          Ends (.mgmtPartReturn u .powerPhase k) s fun t => Sent s t (.redfish 200 []) ∧ k ∉ t.dev.integ.phases))
    ∧ (∀ (u k : Nat) (cl : BktClass) (s : State), s.allows u .administrator = true →
        (cl.instances ≤ k ∨ s.work.returnPart cl k = none) →
        Ends (.mgmtPartReturn u cl k) s fun t => Sent s t (.redfish 400 []) ∧ ∀ q, q ≠ Part.cmd → q.same s t)
    ∧ (∀ (u : Nat) (b : List Byte) (s : State), s.allows u .administrator = true →
        Ends (.mgmtPackUpload u b) s fun t =>
          if b.length ≤ 67108864 ∧ packOk b = true ∧ Config.wealoletSigOk (packParts b).1 (packParts b).2 = true
              ∧ s.dev.integ.pack < rd b 4 4 then t.dev.integ.pack = rd b 4 4 ∧ Sent s t (.redfish 200 [])
          else t.dev.integ = s.dev.integ ∧ Sent s t (.redfish 400 []))
    ∧ (∀ (u : Nat) (as : List (List Byte)) (rs : List (Nat × Role)) (s : State), s.allows u .administrator = true →
        Ends (.mgmtCredentials u as rs) s fun t =>
          (as ≠ [] → t.dev.fw = { s.dev.fw with anchors := as, roles := rs } ∧ Sent s t (.redfish 200 []))
            ∧ (as = [] → t.dev.fw = s.dev.fw ∧ Sent s t (.redfish 400 [])))
    ∧ (∀ (u : Nat) (a b : Bool) (s : State), s.allows u .administrator = true →
        Ends (.mgmtEventClear u a b) s fun t => (a = true → ∀ r ∈ t.dev.obs.ring, r.ty = 14 ∨ r.ty = 13)
          ∧ (b = true → t.dev.obs.flash = []) ∧ (a = true ∨ b = true → ∃ r ∈ t.dev.obs.ring, r.ty = 14)
          ∧ Sent s t (.redfish 200 []))
    ∧ ∀ (u : Nat) (b : Bool) (s : State), s.allows u .administrator = true →
        Ends (.mgmtDisableMctp u b) s fun t => t.dev.fw = { s.dev.fw with mctpOff := b } ∧ Sent s t (.redfish 200 [])

/-- An 8-bit element i of a tile is its byte i; a wider element of w bytes is bytes i * w to i * w + w - 1, the least
significant first; a 4-bit element is bits [3:0] of byte i / 2 for an even i and bits [7:4] for an odd one. Row r is
bytes 64 r to 64 r + 63: each element lies whole in the row with its number divided by the elements of a row, of which
a row holds 128, 64, 32, 16 or 8. -/
def Obligations.ElementsLieInPayloadByteOrder : Prop :=
  (∀ (t : Tile) (f : Fmt) (i : Nat), f.width = 8 → t.elem f i = (t.byte i).toNat)
    ∧ (∀ (t : Tile) (f : Fmt) (i : Nat), 8 < f.width → t.elem f i < 2 ^ f.width
        ∧ ∀ j, j < f.width / 8 → t.elem f i / 256 ^ j % 256 = (t.byte (i * (f.width / 8) + j)).toNat)
    ∧ (∀ (t : Tile) (f : Fmt) (i : Nat), f.width = 4 →
        t.elem f i = if i % 2 = 0 then (t.byte (i / 2)).toNat % 16 else (t.byte (i / 2)).toNat / 16)
    ∧ ∀ f : Fmt, f.rowElems ∈ [128, 64, 32, 16, 8] ∧ f.rowElems * f.width = 512
        ∧ ∀ i, 64 * (i / f.rowElems) ≤ i * f.width / 8 ∧ (i * f.width + f.width - 1) / 8 ≤ 64 * (i / f.rowElems) + 63

/-- Under every rounding mode, scale and zero point, converting NaN gives 0x7FF8000000000000 in FP64, 0x7FC00000 in FP32,
0x7FC0 in BF16, 0x7E00 in FP16, 0x7F in E4M3 and 0x7E in E5M2, with nothing counted; an escape with side-list value
0x7FC0 in the Girder formats; and 0, counted as NaN dropped, in INT8, INT4 and E2M1. Every NaN code of a format that
has one, of either sign, reads as the one NaN. -/
def Obligations.ConvertingNanGivesTheCanonicalResult : Prop :=
  (∀ (m : Rounding) (k : Int) (z : Option Int),
      Fmt.fp64.convert m k z .nan = .code 0x7FF8000000000000 {} ∧ Fmt.fp32.convert m k z .nan = .code 0x7FC00000 {}
        ∧ Fmt.bf16.convert m k z .nan = .code 0x7FC0 {} ∧ Fmt.fp16.convert m k z .nan = .code 0x7E00 {}
        ∧ Fmt.e4m3.convert m k z .nan = .code 0x7F {} ∧ Fmt.e5m2.convert m k z .nan = .code 0x7E {}
        ∧ Fmt.girder8.convert m k z .nan = .escape 0x7FC0 {} ∧ Fmt.girder4.convert m k z .nan = .escape 0x7FC0 {}
        ∧ Fmt.int8.convert m k z .nan = .code 0 { nanDrop := true } ∧ Fmt.int4.convert m k z .nan = .code 0 { nanDrop := true }
        ∧ Fmt.e2m1.convert m k z .nan = .code 0 { nanDrop := true })
    ∧ (∀ f ∈ [FloatFmt.fp64, .fp32, .bf16, .fp16, .e5m2], ∀ c : Nat,
        bits c (f.expBits + f.prec - 2) (f.prec - 1) = 2 ^ f.expBits - 1 → c % 2 ^ (f.prec - 1) ≠ 0 → (f.decode c).1 = .nan)
    ∧ ∀ c : Nat, c % 128 = 127 → (FloatFmt.e4m3.decode c).1 = .nan

/-- The 64 bits of DETAIL are below 2^64 and hold the kind in bits [63:56]: none is all zero; kind 1 holds the address in
[47:0]; kind 2 the index in [31:0] and what it indexes in [39:32]; kind 3 the core in [22:16], the context in [12:8],
the token or pier barrier in [7:0] and bit 23 for a pier barrier; kind 4 the rank in [15:0]; kind 5 the count in
[55:0]; kind 6 the expected sequence in [23:0]; kind 7 F in [15:0] and B in [31:16]. -/
def Obligations.DetailCarriesItsKindAndValue : Prop :=
  (∀ d : Detail, d.bits64 < 2 ^ 64)
    ∧ Detail.none.bits64 = 0
    ∧ (∀ a, bits (Detail.addr a).bits64 63 56 = 1 ∧ bits (Detail.addr a).bits64 55 48 = 0
        ∧ bits (Detail.addr a).bits64 47 0 = a % 2 ^ 48)
    ∧ (∀ k i, bits (Detail.index k i).bits64 63 56 = 2 ∧ bits (Detail.index k i).bits64 55 40 = 0
        ∧ bits (Detail.index k i).bits64 39 32 = k % 2 ^ 8 ∧ bits (Detail.index k i).bits64 31 0 = i % 2 ^ 32)
    ∧ (∀ c x k b, bits (Detail.token c x k b).bits64 63 56 = 3 ∧ bit (Detail.token c x k b).bits64 23 = b
        ∧ bits (Detail.token c x k b).bits64 22 16 = c % 2 ^ 7 ∧ bits (Detail.token c x k b).bits64 12 8 = x % 2 ^ 5
        ∧ bits (Detail.token c x k b).bits64 7 0 = k % 2 ^ 8 ∧ bits (Detail.token c x k b).bits64 15 13 = 0
        ∧ bits (Detail.token c x k b).bits64 55 24 = 0)
    ∧ (∀ r, bits (Detail.rank r).bits64 63 56 = 4 ∧ bits (Detail.rank r).bits64 55 16 = 0
        ∧ bits (Detail.rank r).bits64 15 0 = r % 2 ^ 16)
    ∧ (∀ n, bits (Detail.count n).bits64 63 56 = 5 ∧ bits (Detail.count n).bits64 55 0 = n % 2 ^ 56)
    ∧ (∀ n, bits (Detail.expectSeq n).bits64 63 56 = 6 ∧ bits (Detail.expectSeq n).bits64 55 24 = 0
        ∧ bits (Detail.expectSeq n).bits64 23 0 = n % 2 ^ 24)
    ∧ ∀ f b, bits (Detail.pipeline f b).bits64 63 56 = 7 ∧ bits (Detail.pipeline f b).bits64 55 32 = 0
        ∧ bits (Detail.pipeline f b).bits64 31 16 = b % 2 ^ 16 ∧ bits (Detail.pipeline f b).bits64 15 0 = f % 2 ^ 16

/-- A tile sealed verifies against its keystone. Poisoned it verifies, has its poison flag set and keeps every payload
byte; with a new generation it verifies, has that generation's low 16 bits and keeps every payload byte. A tile made
from 4,352 bytes has those bytes. The j-th tile after a tile address has the number of that tile plus j, and is a tile
address while it lies below 2^48. -/
def Obligations.SealedTilesVerify : Prop :=
  (∀ t : Tile, t.seal.keystoneOk = true)
    ∧ (∀ t : Tile, t.poisoned.keystoneOk = true ∧ t.poisoned.poison = true ∧ ∀ o, o < 4096 → t.poisoned.byte o = t.byte o)
    ∧ (∀ (t : Tile) (g : Nat), (t.withGeneration g).keystoneOk = true ∧ (t.withGeneration g).generation = g % 65536
        ∧ ∀ o, o < 4096 → (t.withGeneration g).byte o = t.byte o)
    ∧ (∀ b : List Byte, b.length = tileBytes → (Tile.ofBytes b).bytes = b)
    ∧ ∀ a j : Nat, isTileAddr a = true → tileNo (tileAfter a j) = tileNo a + j
        ∧ (tileAfter a j < 2 ^ 48 → isTileAddr (tileAfter a j) = true)

/-- Whatever next state they end in: NOP, FENCE, QUERY, HEALTH_QUERY and the ring events change the command interface
alone; doorbells that and the power state; the listed commands of spans, keys, tests, programs, securing,
measurements, supplies, phases, registers, counters, events, flows and settings the parts named beside them.
Everything else stands as before: every register, table, page and step, every byte of HBM, the fuses and the queue. A
put of one tile and a parity delta change no byte outside the tile, or the units, that they name. -/
def Obligations.FramesOfCommandsThatTouchLittle : Prop :=
  (∀ (c : Instr) (p : Pkt) (f r : Nat) (s : State),
      c ∈ [Instr.nop p, .fence p, .query p, .healthQuery p, .fenceComplete f r, .ringDisable f r, .ringDisabled f r, .intModTimer f r] →
      Keeps [.cmd] c s)
    ∧ (∀ (fn r : Nat) (v : Word) (s : State), Keeps [.cmd, .pwr] (.sqTail fn r v) s ∧ Keeps [.cmd, .pwr] (.cqHead fn r v) s
        ∧ Keeps [.cmd, .regs] (.ringEnable fn r v) s ∧ Keeps [.cmd, .regs] (.msixVectorUnmask fn r) s
        ∧ Keeps [.obs] (.trcEvSel fn v) s ∧ Keeps [.obs, .regs] (.traceEnable fn v) s ∧ Keeps [.obs, .regs] (.traceDisable fn) s
        ∧ Keeps [.obs, .regs] (.cntFmtCtlWrite fn v) s ∧ Keeps [.vdt] (.rankTableCommit fn v) s
        ∧ Keeps [.pwr, .regs] (.standbyRequest fn v) s ∧ Keeps [.cmd, .obs] (.cntLoRead fn r) s)
    ∧ (∀ (p : Pkt) (s : State), Keeps [.cmd, .span] (.spanQos p) s ∧ Keeps [.cmd, .span] (.spanSave p) s
        ∧ Keeps [.cmd, .fw] (.keyInstall p) s ∧ Keeps [.cmd, .fw] (.attest p) s ∧ Keeps [.cmd, .integ] (.loadtestPack p) s
        ∧ Keeps [.cmd, .core] (.loadtestRun p) s ∧ Keeps [.cmd, .core] (.katRun p) s ∧ Keeps [.cmd, .step] (.programLoad p) s
        ∧ Keeps [.cmd, .step] (.prefetchPlan p) s ∧ Keeps [.cmd, .sec] (.secureNow p) s)
    ∧ (∀ (c : Instr) (q : SpdmPath) (b : List Byte) (ix : List Nat) (s : State),
        c ∈ [Instr.getVersion q b, .getCapabilities q b, .negotiateAlgorithms q b, .getDigests q b, .getCertificate q b, .challenge q b,
          .getMeasurements q b ix] → Keeps [.cmd, .fw] c s)
    ∧ (∀ (u k : Nat) (h : Int) (b : Bool) (l m : List Nat) (x : Sensors) (cl : BktClass) (s : State),
        Keeps [.pwr] (.supplyValid b) s ∧ Keeps [.pwr] .mainReturn s ∧ Keeps [.pwr] (.thermalCooldown h) s ∧ Keeps [.pwr] .perstRelease s
          ∧ Keeps [.cmd, .core, .pwr] .diePowerUp s ∧ Keeps [.cmd, .pwr] .pcieLinkUp s ∧ Keeps [.cmd, .pwr] .trestleStart s
          ∧ Keeps [.pwr, .fw] .bootRomVerify s ∧ Keeps [.integ] (.bucketLeak cl k) s ∧ Keeps [.integ] .bucketLevelSave s
          ∧ Keeps [.core] (.adaptiveVoltageStep l m) s ∧ Keeps [.obs] (.droopDetect k) s ∧ Keeps [.fw] .fwActivateWindow s
          ∧ Keeps [.obs] (.healthRefresh x) s ∧ Keeps [.obs] (.eventRecordLatched k) s ∧ Keeps [.vdt] (.ccIncrease k) s
          ∧ Keeps [.cmd, .vdt] (.ackTimer u k) s ∧ Keeps [.cmd] (.mgmtRead u k) s ∧ Keeps [.cmd, .fw] (.mgmtDisableMctp u b) s
          ∧ Keeps [.cmd, .fw] (.mgmtDisableWindow u b) s)
    ∧ (∀ (f : Arrival) (pa : Nat) (t s : State), s.due f = true → isDelta f.toFrame = false → f.payload.length = tileBytes →
        isTileAddr f.arg = true → s.work.hotAt f.dstSpan f.arg = none → s.work.traceOf f.dstSpan = none → s.work.locate f.dstSpan [] f.arg = .home pa true →
        exec (.putFrame f) s = .next t → ∀ a, (a < pa ∨ pa + tileBytes ≤ a) → t.byte a = s.byte a)
    ∧ ∀ (f : Arrival) (pa row : Nat) (x : SecState) (t s : State), s.due f = true → s.work.secOf f.dstSpan = some x →
        f.arg / 512 ∈ x.used → s.work.bearAt f.dstSpan x.policy (f.arg / 512) = some pa →
        f.arg % 512 * 4096 + f.payload.length ≤ pageBytes → exec (.parityDelta f row) s = .next t →
        ∀ a, (a < pa + f.arg % 512 * 4096 ∨ pa + f.arg % 512 * 4096 + f.payload.length ≤ a) → t.byte a = s.byte a
end

