-- ==== Sys2Proof/Laws/Sparse.lean ====
section
/-! SUPPORT. Laws of the sparse maps: reading after writing, and the canonical form. -/

namespace Sys2Proof.Machine

variable {α : Type}

/-- Erasing a key leaves the default there and every other key as it is. -/
theorem Sparse.get_erase (d : Nat → α) (m : List (Nat × α)) (k j : Nat) :
    Sparse.get d (Sparse.erase m k) j = if j = k then d j else Sparse.get d m j := by
  induction m with
  | nil => simp [Sparse.erase, Sparse.get]
  | cons c m ih =>
    obtain ⟨a, v⟩ := c
    simp only [Sparse.erase] at ih ⊢
    by_cases h : a = k
    · subst h
      simp only [List.filter_cons, bne_self_eq_false, Bool.false_eq_true, if_false, ih, Sparse.get]
      by_cases hj : j = a
      · simp [hj]
      · simp [hj, Ne.symm hj]
    · simp only [List.filter_cons, bne_iff_ne, ne_eq, h, not_false_eq_true, if_true, Sparse.get, ih]
      by_cases hj : a = j
      · subst hj; simp [h]
      · simp [hj]

/-- Inserting a key that is not there. -/
theorem Sparse.get_insert (d : Nat → α) (m : List (Nat × α)) (k j : Nat) (v : α) :
    Sparse.get d (Sparse.insert m k v) j = if j = k then v else Sparse.get d m j := by
  induction m with
  | nil => by_cases h : k = j <;> simp [Sparse.insert, Sparse.get, h, eq_comm]
  | cons c m ih =>
    obtain ⟨a, x⟩ := c
    simp only [Sparse.insert]
    split
    · by_cases h : k = j
      · simp [Sparse.get, h]
      · simp [Sparse.get, h, Ne.symm h]
    · split
      · next h =>
        subst h
        by_cases h : k = j
        · simp [Sparse.get, h]
        · simp [Sparse.get, h, Ne.symm h]
      · next h1 h2 =>
        simp only [Sparse.get, ih]
        by_cases h : a = j
        · subst h; simp [Ne.symm h2]
        · simp [h]

/-- Reading after writing. -/
theorem Sparse.get_put [DecidableEq α] (d : Nat → α) (m : List (Nat × α)) (k j : Nat) (v : α) :
    Sparse.get d (Sparse.put d m k v) j = if j = k then v else Sparse.get d m j := by
  simp only [Sparse.put]
  split
  · next h => rw [Sparse.get_erase]; split <;> simp_all
  · rw [Sparse.get_insert, Sparse.get_erase]; split <;> simp_all

/-- What was written is read. -/
@[simp] theorem Sparse.get_put_self [DecidableEq α] (d : Nat → α) (m : List (Nat × α)) (k : Nat) (v : α) :
    Sparse.get d (Sparse.put d m k v) k = v := by simp [Sparse.get_put]

/-- Another key is as it was. -/
theorem Sparse.get_put_ne [DecidableEq α] (d : Nat → α) (m : List (Nat × α)) {k j : Nat} (v : α) (h : j ≠ k) :
    Sparse.get d (Sparse.put d m k v) j = Sparse.get d m j := by simp [Sparse.get_put, h]

/-- Reading after a change of one key. -/
theorem Sparse.get_modify [DecidableEq α] (d : Nat → α) (m : List (Nat × α)) (k j : Nat) (f : α → α) :
    Sparse.get d (Sparse.modify d m k f) j = if j = k then f (Sparse.get d m k) else Sparse.get d m j := Sparse.get_put ..

/-- The changed key. -/
@[simp] theorem Sparse.get_modify_self [DecidableEq α] (d : Nat → α) (m : List (Nat × α)) (k : Nat) (f : α → α) :
    Sparse.get d (Sparse.modify d m k f) k = f (Sparse.get d m k) := by simp [Sparse.get_modify]

/-- Reading after a stretch of keys is dropped. -/
theorem Sparse.get_clear (d : Nat → α) (m : List (Nat × α)) (lo len j : Nat) :
    Sparse.get d (Sparse.clear m lo len) j = if lo ≤ j ∧ j < lo + len then d j else Sparse.get d m j := by
  induction m with
  | nil => simp [Sparse.clear, Sparse.get]
  | cons c m ih =>
    obtain ⟨a, v⟩ := c
    simp only [Sparse.clear] at ih ⊢
    by_cases h : lo ≤ a ∧ a < lo + len
    · simp only [List.filter_cons, h.1, h.2, decide_true, Bool.and_self, Bool.not_true, Bool.false_eq_true, if_false, ih, Sparse.get]
      by_cases hj : a = j
      · subst hj; simp [h]
      · simp [hj]
    · have h' : (!(decide (lo ≤ a) && decide (a < lo + len))) = true := by
        simp only [Bool.not_eq_true', Bool.and_eq_false_iff, decide_eq_false_iff_not]; omega
      simp only [List.filter_cons, h', if_true, Sparse.get, ih]
      by_cases hj : a = j
      · subst hj; simp [h]
      · simp [hj]

/-- Writing cells one after another leaves every key that none of them names. -/
theorem Sparse.get_putAll_ne [DecidableEq α] (d : Nat → α) (cells m : List (Nat × α)) (j : Nat) (h : ∀ c ∈ cells, c.1 ≠ j) :
    Sparse.get d (Sparse.putAll d m cells) j = Sparse.get d m j := by
  induction cells generalizing m with
  | nil => rfl
  | cons c cs ih =>
    simp only [Sparse.putAll, List.foldl_cons] at ih ⊢
    rw [ih _ fun x hx => h x (List.mem_cons_of_mem _ hx), Sparse.get_put_ne]
    exact (h c (List.mem_cons_self ..)).symm

/-! ### The canonical form -/

/-- Keys strictly rising, in the form that inductions use. -/
theorem Sparse.rising_iff (m : List (Nat × α)) : Sparse.rising m = true ↔ m.Pairwise fun a b => a.1 < b.1 := by
  induction m with
  | nil => simp [Sparse.rising]
  | cons c m ih =>
    cases m with
    | nil => simp [Sparse.rising]
    | cons e m =>
      simp only [Sparse.rising, Bool.and_eq_true, decide_eq_true_eq, ih, List.pairwise_cons]
      constructor
      · rintro ⟨h, h1, h2⟩
        refine ⟨?_, h1, h2⟩
        intro x hx
        rcases List.mem_cons.1 hx with rfl | hx
        · exact h
        · exact Nat.lt_trans h (h1 x hx)
      · rintro ⟨h, h1, h2⟩
        exact ⟨h e (List.mem_cons_self ..), h1, h2⟩

/-- The canonical form, as propositions. -/
theorem Sparse.wf_iff [DecidableEq α] (d : Nat → α) (m : List (Nat × α)) :
    Sparse.wf d m = true ↔ (m.Pairwise fun a b => a.1 < b.1) ∧ ∀ c ∈ m, c.2 ≠ d c.1 := by
  simp [Sparse.wf, Sparse.rising_iff]

/-- A part of a canonical map is canonical. -/
theorem Sparse.wf_filter [DecidableEq α] (d : Nat → α) (m : List (Nat × α)) (p : Nat × α → Bool) (h : Sparse.wf d m = true) :
    Sparse.wf d (m.filter p) = true := by
  rw [Sparse.wf_iff] at h ⊢
  exact ⟨h.1.filter p, fun c hc => h.2 c (List.mem_of_mem_filter hc)⟩

/-- Erasing a key keeps the canonical form. -/
theorem Sparse.wf_erase [DecidableEq α] (d : Nat → α) (m : List (Nat × α)) (k : Nat) (h : Sparse.wf d m = true) :
    Sparse.wf d (Sparse.erase m k) = true := Sparse.wf_filter d m _ h

/-- Dropping a stretch of keys keeps the canonical form. -/
theorem Sparse.wf_clear [DecidableEq α] (d : Nat → α) (m : List (Nat × α)) (lo len : Nat) (h : Sparse.wf d m = true) :
    Sparse.wf d (Sparse.clear m lo len) = true := Sparse.wf_filter d m _ h

/-- The entries after an insertion. -/
theorem Sparse.mem_insert (m : List (Nat × α)) (k : Nat) (v : α) (c : Nat × α) (h : c ∈ Sparse.insert m k v) :
    c = (k, v) ∨ c ∈ m := by
  induction m with
  | nil => simpa [Sparse.insert] using h
  | cons e m ih =>
    obtain ⟨a, x⟩ := e
    simp only [Sparse.insert] at h
    split at h
    · simpa using h
    · split at h
      · rcases List.mem_cons.1 h with h | h
        · exact .inl h
        · exact .inr (List.mem_cons_of_mem _ h)
      · rcases List.mem_cons.1 h with h | h
        · exact .inr (h ▸ List.mem_cons_self ..)
        · exact (ih h).imp id (List.mem_cons_of_mem _)

/-- Insertion keeps the keys rising. -/
theorem Sparse.pairwise_insert (m : List (Nat × α)) (k : Nat) (v : α) (h : m.Pairwise fun a b => a.1 < b.1) :
    (Sparse.insert m k v).Pairwise fun a b => a.1 < b.1 := by
  induction m with
  | nil => simp [Sparse.insert]
  | cons e m ih =>
    obtain ⟨a, x⟩ := e
    rw [List.pairwise_cons] at h
    simp only [Sparse.insert]
    split
    · next hk =>
      refine List.pairwise_cons.2 ⟨?_, List.pairwise_cons.2 h⟩
      intro c hc
      rcases List.mem_cons.1 hc with rfl | hc
      · exact hk
      · exact Nat.lt_trans hk (h.1 c hc)
    · split
      · next hk => subst hk; exact List.pairwise_cons.2 ⟨fun c hc => h.1 c hc, h.2⟩
      · next h1 h2 =>
        refine List.pairwise_cons.2 ⟨?_, ih h.2⟩
        intro c hc
        rcases Sparse.mem_insert m k v c hc with rfl | hc
        · show a < k; omega
        · exact h.1 c hc

/-- A write keeps the canonical form. -/
theorem Sparse.wf_put [DecidableEq α] (d : Nat → α) (m : List (Nat × α)) (k : Nat) (v : α) (h : Sparse.wf d m = true) :
    Sparse.wf d (Sparse.put d m k v) = true := by
  have he := Sparse.wf_erase d m k h
  simp only [Sparse.put]
  split
  · exact he
  · next hv =>
    rw [Sparse.wf_iff] at he ⊢
    refine ⟨Sparse.pairwise_insert _ _ _ he.1, fun c hc => ?_⟩
    rcases Sparse.mem_insert _ _ _ c hc with rfl | hc
    · exact hv
    · exact he.2 c hc

/-- Writing many cells keeps the canonical form. -/
theorem Sparse.wf_putAll [DecidableEq α] (d : Nat → α) (cells m : List (Nat × α)) (h : Sparse.wf d m = true) :
    Sparse.wf d (Sparse.putAll d m cells) = true := by
  induction cells generalizing m with
  | nil => exact h
  | cons c cs ih => exact ih _ (Sparse.wf_put d m c.1 c.2 h)

end Sys2Proof.Machine
end

