-- ==== Sys2Proof/Laws/Memory.lean ====
section
/-! SUPPORT. Laws of the memory: every change of the bytes keeps the canonical form, and where each change lies. -/

namespace Sys2Proof.Machine

/-- Every change of the bytes keeps the canonical form. -/
theorem MemOp.run_wf (o : MemOp) (m : List Host.Cell) (h : Memory.wf m = true) : Memory.wf (o.run m) = true := by
  cases o with
  | tile a t => exact Sparse.wf_putAll _ _ _ (Sparse.wf_clear _ _ _ _ h)
  | page a cells => exact Sparse.wf_putAll _ _ _ (Sparse.wf_clear _ _ _ _ h)
  | bytes a bs => exact Sparse.wf_putAll _ _ _ h

/-- Every list of changes keeps the canonical form. -/
theorem MemOp.foldr_wf (l : List MemOp) (m : List Host.Cell) (h : Memory.wf m = true) :
    Memory.wf (l.foldr MemOp.run m) = true := by
  induction l with
  | nil => exact h
  | cons o l ih => exact o.run_wf _ ih

/-- A write of bytes leaves every byte outside them. -/
theorem MemOp.bytes_outside (a : Nat) (bs : List Byte) (m : List Host.Cell) (j : Nat) (h : j < a ∨ a + bs.length ≤ j) :
    Sparse.get memBlank ((MemOp.bytes a bs).run m) j = Sparse.get memBlank m j := by
  refine Sparse.get_putAll_ne _ _ _ _ fun c hc => ?_
  obtain ⟨⟨b, i⟩, hb, rfl⟩ := List.mem_map.1 hc
  have := (List.mem_zipIdx hb).2.1
  show a + i ≠ j
  omega

/-- A write of a tile whose cells lie in it leaves every byte outside the tile. -/
theorem MemOp.tile_outside (a : Nat) (t : Tile) (m : List Host.Cell) (j : Nat) (ht : ∀ c ∈ t, c.1 < tileBytes)
    (h : j < a ∨ a + tileBytes ≤ j) : Sparse.get memBlank ((MemOp.tile a t).run m) j = Sparse.get memBlank m j := by
  have hc : ∀ c ∈ t.map (fun c => (a + c.1, c.2)), c.1 ≠ j := by
    intro c hc
    obtain ⟨x, hx, rfl⟩ := List.mem_map.1 hc
    have := ht x hx
    show a + x.1 ≠ j
    omega
  simp only [MemOp.run]
  rw [Sparse.get_putAll_ne _ _ _ _ hc, Sparse.get_clear, if_neg (by omega)]

/-- The bytes that a state keeps when nothing is changed. -/
@[simp] theorem State.take_mem_nil (s : State) (w : W) (h : w.ops = []) : (s.take w).mem = s.mem := by simp [State.take, h]

end Sys2Proof.Machine
end

