-- ==== Sys2Proof/Laws/State.lean ====
section
/-! SUPPORT. Laws of the working copy: what each change of one numbered array leaves, field by field, and what it makes of the
array itself. -/

namespace Sys2Proof.Machine

/-! ### `W.modRing` -/

section
variable (w : W) (fn r : Nat) (f : Ring → Ring)

@[simp] theorem W.modRing_span : (w.modRing fn r f).span = w.span := rfl
@[simp] theorem W.modRing_hbm : (w.modRing fn r f).hbm = w.hbm := rfl
@[simp] theorem W.modRing_core : (w.modRing fn r f).core = w.core := rfl
@[simp] theorem W.modRing_step : (w.modRing fn r f).step = w.step := rfl
@[simp] theorem W.modRing_deck : (w.modRing fn r f).deck = w.deck := rfl
@[simp] theorem W.modRing_tables : (w.modRing fn r f).tables = w.tables := rfl
@[simp] theorem W.modRing_vdt : (w.modRing fn r f).vdt = w.vdt := rfl
@[simp] theorem W.modRing_integ : (w.modRing fn r f).integ = w.integ := rfl
@[simp] theorem W.modRing_sec : (w.modRing fn r f).sec = w.sec := rfl
@[simp] theorem W.modRing_pwr : (w.modRing fn r f).pwr = w.pwr := rfl
@[simp] theorem W.modRing_fw : (w.modRing fn r f).fw = w.fw := rfl
@[simp] theorem W.modRing_obs : (w.modRing fn r f).obs = w.obs := rfl
@[simp] theorem W.modRing_regs : (w.modRing fn r f).regs = w.regs := rfl
@[simp] theorem W.modRing_free : (w.modRing fn r f).free = w.free := rfl
@[simp] theorem W.modRing_mem0 : (w.modRing fn r f).mem0 = w.mem0 := rfl
@[simp] theorem W.modRing_ops : (w.modRing fn r f).ops = w.ops := rfl
@[simp] theorem W.modRing_fuses : (w.modRing fn r f).fuses = w.fuses := rfl
@[simp] theorem W.modRing_cmd_mboxes : (w.modRing fn r f).cmd.mboxes = w.cmd.mboxes := rfl
@[simp] theorem W.modRing_cmd_pars : (w.modRing fn r f).cmd.pars = w.cmd.pars := rfl
@[simp] theorem W.modRing_cmd_parJobs : (w.modRing fn r f).cmd.parJobs = w.cmd.parJobs := rfl
@[simp] theorem W.modRing_cmd_cmds : (w.modRing fn r f).cmd.cmds = w.cmd.cmds := rfl
@[simp] theorem W.modRing_cmd_pba : (w.modRing fn r f).cmd.pba = w.cmd.pba := rfl
@[simp] theorem W.modRing_cmd_nextId : (w.modRing fn r f).cmd.nextId = w.cmd.nextId := rfl
@[simp] theorem W.modRing_cmd_outbox : (w.modRing fn r f).cmd.outbox = w.cmd.outbox := rfl

/-- Reading after `W.modRing`. -/
theorem W.ring_modRing (fn' r' : Nat) : (w.modRing fn r f).ring fn' r' = if 16 * fn' + r' = 16 * fn + r then f (w.ring fn r) else w.ring fn' r' :=
  Sparse.get_modify ..

end

/-! ### `W.modPar` -/

section
variable (w : W) (fn : Nat) (f : Par → Par)

@[simp] theorem W.modPar_span : (w.modPar fn f).span = w.span := rfl
@[simp] theorem W.modPar_hbm : (w.modPar fn f).hbm = w.hbm := rfl
@[simp] theorem W.modPar_core : (w.modPar fn f).core = w.core := rfl
@[simp] theorem W.modPar_step : (w.modPar fn f).step = w.step := rfl
@[simp] theorem W.modPar_deck : (w.modPar fn f).deck = w.deck := rfl
@[simp] theorem W.modPar_tables : (w.modPar fn f).tables = w.tables := rfl
@[simp] theorem W.modPar_vdt : (w.modPar fn f).vdt = w.vdt := rfl
@[simp] theorem W.modPar_integ : (w.modPar fn f).integ = w.integ := rfl
@[simp] theorem W.modPar_sec : (w.modPar fn f).sec = w.sec := rfl
@[simp] theorem W.modPar_pwr : (w.modPar fn f).pwr = w.pwr := rfl
@[simp] theorem W.modPar_fw : (w.modPar fn f).fw = w.fw := rfl
@[simp] theorem W.modPar_obs : (w.modPar fn f).obs = w.obs := rfl
@[simp] theorem W.modPar_regs : (w.modPar fn f).regs = w.regs := rfl
@[simp] theorem W.modPar_free : (w.modPar fn f).free = w.free := rfl
@[simp] theorem W.modPar_mem0 : (w.modPar fn f).mem0 = w.mem0 := rfl
@[simp] theorem W.modPar_ops : (w.modPar fn f).ops = w.ops := rfl
@[simp] theorem W.modPar_fuses : (w.modPar fn f).fuses = w.fuses := rfl
@[simp] theorem W.modPar_cmd_rings : (w.modPar fn f).cmd.rings = w.cmd.rings := rfl
@[simp] theorem W.modPar_cmd_mboxes : (w.modPar fn f).cmd.mboxes = w.cmd.mboxes := rfl
@[simp] theorem W.modPar_cmd_parJobs : (w.modPar fn f).cmd.parJobs = w.cmd.parJobs := rfl
@[simp] theorem W.modPar_cmd_cmds : (w.modPar fn f).cmd.cmds = w.cmd.cmds := rfl
@[simp] theorem W.modPar_cmd_pba : (w.modPar fn f).cmd.pba = w.cmd.pba := rfl
@[simp] theorem W.modPar_cmd_nextId : (w.modPar fn f).cmd.nextId = w.cmd.nextId := rfl
@[simp] theorem W.modPar_cmd_outbox : (w.modPar fn f).cmd.outbox = w.cmd.outbox := rfl

/-- Reading after `W.modPar`. -/
theorem W.par_modPar (fn' : Nat) : (w.modPar fn f).par fn' = if fn' = fn then f (w.par fn) else w.par fn' :=
  Sparse.get_modify ..

end

/-! ### `W.modMbox` -/

section
variable (w : W) (fn k : Nat) (f : Mbox → Mbox)

@[simp] theorem W.modMbox_span : (w.modMbox fn k f).span = w.span := rfl
@[simp] theorem W.modMbox_hbm : (w.modMbox fn k f).hbm = w.hbm := rfl
@[simp] theorem W.modMbox_core : (w.modMbox fn k f).core = w.core := rfl
@[simp] theorem W.modMbox_step : (w.modMbox fn k f).step = w.step := rfl
@[simp] theorem W.modMbox_deck : (w.modMbox fn k f).deck = w.deck := rfl
@[simp] theorem W.modMbox_tables : (w.modMbox fn k f).tables = w.tables := rfl
@[simp] theorem W.modMbox_vdt : (w.modMbox fn k f).vdt = w.vdt := rfl
@[simp] theorem W.modMbox_integ : (w.modMbox fn k f).integ = w.integ := rfl
@[simp] theorem W.modMbox_sec : (w.modMbox fn k f).sec = w.sec := rfl
@[simp] theorem W.modMbox_pwr : (w.modMbox fn k f).pwr = w.pwr := rfl
@[simp] theorem W.modMbox_fw : (w.modMbox fn k f).fw = w.fw := rfl
@[simp] theorem W.modMbox_obs : (w.modMbox fn k f).obs = w.obs := rfl
@[simp] theorem W.modMbox_regs : (w.modMbox fn k f).regs = w.regs := rfl
@[simp] theorem W.modMbox_free : (w.modMbox fn k f).free = w.free := rfl
@[simp] theorem W.modMbox_mem0 : (w.modMbox fn k f).mem0 = w.mem0 := rfl
@[simp] theorem W.modMbox_ops : (w.modMbox fn k f).ops = w.ops := rfl
@[simp] theorem W.modMbox_fuses : (w.modMbox fn k f).fuses = w.fuses := rfl
@[simp] theorem W.modMbox_cmd_rings : (w.modMbox fn k f).cmd.rings = w.cmd.rings := rfl
@[simp] theorem W.modMbox_cmd_pars : (w.modMbox fn k f).cmd.pars = w.cmd.pars := rfl
@[simp] theorem W.modMbox_cmd_parJobs : (w.modMbox fn k f).cmd.parJobs = w.cmd.parJobs := rfl
@[simp] theorem W.modMbox_cmd_cmds : (w.modMbox fn k f).cmd.cmds = w.cmd.cmds := rfl
@[simp] theorem W.modMbox_cmd_pba : (w.modMbox fn k f).cmd.pba = w.cmd.pba := rfl
@[simp] theorem W.modMbox_cmd_nextId : (w.modMbox fn k f).cmd.nextId = w.cmd.nextId := rfl
@[simp] theorem W.modMbox_cmd_outbox : (w.modMbox fn k f).cmd.outbox = w.cmd.outbox := rfl

/-- Reading after `W.modMbox`. -/
theorem W.mbox_modMbox (fn' k' : Nat) : (w.modMbox fn k f).mbox fn' k' = if 4 * fn' + k' = 4 * fn + k then f (w.mbox fn k) else w.mbox fn' k' :=
  Sparse.get_modify ..

end

/-! ### `W.emit` -/

section
variable (w : W) (o : Out)

@[simp] theorem W.emit_span : (w.emit o).span = w.span := rfl
@[simp] theorem W.emit_hbm : (w.emit o).hbm = w.hbm := rfl
@[simp] theorem W.emit_core : (w.emit o).core = w.core := rfl
@[simp] theorem W.emit_step : (w.emit o).step = w.step := rfl
@[simp] theorem W.emit_deck : (w.emit o).deck = w.deck := rfl
@[simp] theorem W.emit_tables : (w.emit o).tables = w.tables := rfl
@[simp] theorem W.emit_vdt : (w.emit o).vdt = w.vdt := rfl
@[simp] theorem W.emit_integ : (w.emit o).integ = w.integ := rfl
@[simp] theorem W.emit_sec : (w.emit o).sec = w.sec := rfl
@[simp] theorem W.emit_pwr : (w.emit o).pwr = w.pwr := rfl
@[simp] theorem W.emit_fw : (w.emit o).fw = w.fw := rfl
@[simp] theorem W.emit_obs : (w.emit o).obs = w.obs := rfl
@[simp] theorem W.emit_regs : (w.emit o).regs = w.regs := rfl
@[simp] theorem W.emit_free : (w.emit o).free = w.free := rfl
@[simp] theorem W.emit_mem0 : (w.emit o).mem0 = w.mem0 := rfl
@[simp] theorem W.emit_ops : (w.emit o).ops = w.ops := rfl
@[simp] theorem W.emit_fuses : (w.emit o).fuses = w.fuses := rfl
@[simp] theorem W.emit_cmd_rings : (w.emit o).cmd.rings = w.cmd.rings := rfl
@[simp] theorem W.emit_cmd_mboxes : (w.emit o).cmd.mboxes = w.cmd.mboxes := rfl
@[simp] theorem W.emit_cmd_pars : (w.emit o).cmd.pars = w.cmd.pars := rfl
@[simp] theorem W.emit_cmd_parJobs : (w.emit o).cmd.parJobs = w.cmd.parJobs := rfl
@[simp] theorem W.emit_cmd_cmds : (w.emit o).cmd.cmds = w.cmd.cmds := rfl
@[simp] theorem W.emit_cmd_pba : (w.emit o).cmd.pba = w.cmd.pba := rfl
@[simp] theorem W.emit_cmd_nextId : (w.emit o).cmd.nextId = w.cmd.nextId := rfl

end

/-! ### `W.modSp` -/

section
variable (w : W) (n : Nat) (f : Span → Span)

@[simp] theorem W.modSp_cmd : (w.modSp n f).cmd = w.cmd := rfl
@[simp] theorem W.modSp_hbm : (w.modSp n f).hbm = w.hbm := rfl
@[simp] theorem W.modSp_core : (w.modSp n f).core = w.core := rfl
@[simp] theorem W.modSp_step : (w.modSp n f).step = w.step := rfl
@[simp] theorem W.modSp_deck : (w.modSp n f).deck = w.deck := rfl
@[simp] theorem W.modSp_tables : (w.modSp n f).tables = w.tables := rfl
@[simp] theorem W.modSp_vdt : (w.modSp n f).vdt = w.vdt := rfl
@[simp] theorem W.modSp_integ : (w.modSp n f).integ = w.integ := rfl
@[simp] theorem W.modSp_sec : (w.modSp n f).sec = w.sec := rfl
@[simp] theorem W.modSp_pwr : (w.modSp n f).pwr = w.pwr := rfl
@[simp] theorem W.modSp_fw : (w.modSp n f).fw = w.fw := rfl
@[simp] theorem W.modSp_obs : (w.modSp n f).obs = w.obs := rfl
@[simp] theorem W.modSp_regs : (w.modSp n f).regs = w.regs := rfl
@[simp] theorem W.modSp_free : (w.modSp n f).free = w.free := rfl
@[simp] theorem W.modSp_mem0 : (w.modSp n f).mem0 = w.mem0 := rfl
@[simp] theorem W.modSp_ops : (w.modSp n f).ops = w.ops := rfl
@[simp] theorem W.modSp_fuses : (w.modSp n f).fuses = w.fuses := rfl
@[simp] theorem W.modSp_span_numVfs : (w.modSp n f).span.numVfs = w.span.numVfs := rfl
@[simp] theorem W.modSp_span_vfEnable : (w.modSp n f).span.vfEnable = w.span.vfEnable := rfl
@[simp] theorem W.modSp_span_owner : (w.modSp n f).span.owner = w.span.owner := rfl

/-- Reading after `W.modSp`. -/
theorem W.sp_modSp (m : Nat) : (w.modSp n f).sp m = if m = n then f (w.sp n) else w.sp m :=
  Sparse.get_modify ..

end

/-! ### `W.setOwner` -/

section
variable (w : W) (l n : Nat)

@[simp] theorem W.setOwner_cmd : (w.setOwner l n).cmd = w.cmd := rfl
@[simp] theorem W.setOwner_hbm : (w.setOwner l n).hbm = w.hbm := rfl
@[simp] theorem W.setOwner_core : (w.setOwner l n).core = w.core := rfl
@[simp] theorem W.setOwner_step : (w.setOwner l n).step = w.step := rfl
@[simp] theorem W.setOwner_deck : (w.setOwner l n).deck = w.deck := rfl
@[simp] theorem W.setOwner_tables : (w.setOwner l n).tables = w.tables := rfl
@[simp] theorem W.setOwner_vdt : (w.setOwner l n).vdt = w.vdt := rfl
@[simp] theorem W.setOwner_integ : (w.setOwner l n).integ = w.integ := rfl
@[simp] theorem W.setOwner_sec : (w.setOwner l n).sec = w.sec := rfl
@[simp] theorem W.setOwner_pwr : (w.setOwner l n).pwr = w.pwr := rfl
@[simp] theorem W.setOwner_fw : (w.setOwner l n).fw = w.fw := rfl
@[simp] theorem W.setOwner_obs : (w.setOwner l n).obs = w.obs := rfl
@[simp] theorem W.setOwner_regs : (w.setOwner l n).regs = w.regs := rfl
@[simp] theorem W.setOwner_free : (w.setOwner l n).free = w.free := rfl
@[simp] theorem W.setOwner_mem0 : (w.setOwner l n).mem0 = w.mem0 := rfl
@[simp] theorem W.setOwner_ops : (w.setOwner l n).ops = w.ops := rfl
@[simp] theorem W.setOwner_fuses : (w.setOwner l n).fuses = w.fuses := rfl
@[simp] theorem W.setOwner_span_numVfs : (w.setOwner l n).span.numVfs = w.span.numVfs := rfl
@[simp] theorem W.setOwner_span_vfEnable : (w.setOwner l n).span.vfEnable = w.span.vfEnable := rfl
@[simp] theorem W.setOwner_span_spans : (w.setOwner l n).span.spans = w.span.spans := rfl

/-- Reading after `W.setOwner`. -/
theorem W.owner_setOwner (m : Nat) : (w.setOwner l n).owner m = if m = l then n else w.owner m :=
  Sparse.get_put ..

end

/-! ### `W.setFrame` -/

section
variable (w : W) (f : Nat) (u : FrameUse)

@[simp] theorem W.setFrame_cmd : (w.setFrame f u).cmd = w.cmd := rfl
@[simp] theorem W.setFrame_span : (w.setFrame f u).span = w.span := rfl
@[simp] theorem W.setFrame_core : (w.setFrame f u).core = w.core := rfl
@[simp] theorem W.setFrame_step : (w.setFrame f u).step = w.step := rfl
@[simp] theorem W.setFrame_deck : (w.setFrame f u).deck = w.deck := rfl
@[simp] theorem W.setFrame_tables : (w.setFrame f u).tables = w.tables := rfl
@[simp] theorem W.setFrame_vdt : (w.setFrame f u).vdt = w.vdt := rfl
@[simp] theorem W.setFrame_integ : (w.setFrame f u).integ = w.integ := rfl
@[simp] theorem W.setFrame_sec : (w.setFrame f u).sec = w.sec := rfl
@[simp] theorem W.setFrame_pwr : (w.setFrame f u).pwr = w.pwr := rfl
@[simp] theorem W.setFrame_fw : (w.setFrame f u).fw = w.fw := rfl
@[simp] theorem W.setFrame_obs : (w.setFrame f u).obs = w.obs := rfl
@[simp] theorem W.setFrame_regs : (w.setFrame f u).regs = w.regs := rfl
@[simp] theorem W.setFrame_free : (w.setFrame f u).free = w.free := rfl
@[simp] theorem W.setFrame_mem0 : (w.setFrame f u).mem0 = w.mem0 := rfl
@[simp] theorem W.setFrame_ops : (w.setFrame f u).ops = w.ops := rfl
@[simp] theorem W.setFrame_fuses : (w.setFrame f u).fuses = w.fuses := rfl
@[simp] theorem W.setFrame_hbm_pages : (w.setFrame f u).hbm.pages = w.hbm.pages := rfl
@[simp] theorem W.setFrame_hbm_chans : (w.setFrame f u).hbm.chans = w.hbm.chans := rfl
@[simp] theorem W.setFrame_hbm_stackSt : (w.setFrame f u).hbm.stackSt = w.hbm.stackSt := rfl
@[simp] theorem W.setFrame_hbm_moves : (w.setFrame f u).hbm.moves = w.hbm.moves := rfl
@[simp] theorem W.setFrame_hbm_withdrawn : (w.setFrame f u).hbm.withdrawn = w.hbm.withdrawn := rfl
@[simp] theorem W.setFrame_hbm_unmaps : (w.setFrame f u).hbm.unmaps = w.hbm.unmaps := rfl

/-- Reading after `W.setFrame`. -/
theorem W.frame_setFrame (g : Nat) : (w.setFrame f u).frame g = if g = f then u else w.frame g :=
  Sparse.get_put ..

end

/-! ### `W.modChan` -/

section
variable (w : W) (c : Nat) (f : Chan → Chan)

@[simp] theorem W.modChan_cmd : (w.modChan c f).cmd = w.cmd := rfl
@[simp] theorem W.modChan_span : (w.modChan c f).span = w.span := rfl
@[simp] theorem W.modChan_core : (w.modChan c f).core = w.core := rfl
@[simp] theorem W.modChan_step : (w.modChan c f).step = w.step := rfl
@[simp] theorem W.modChan_deck : (w.modChan c f).deck = w.deck := rfl
@[simp] theorem W.modChan_tables : (w.modChan c f).tables = w.tables := rfl
@[simp] theorem W.modChan_vdt : (w.modChan c f).vdt = w.vdt := rfl
@[simp] theorem W.modChan_integ : (w.modChan c f).integ = w.integ := rfl
@[simp] theorem W.modChan_sec : (w.modChan c f).sec = w.sec := rfl
@[simp] theorem W.modChan_pwr : (w.modChan c f).pwr = w.pwr := rfl
@[simp] theorem W.modChan_fw : (w.modChan c f).fw = w.fw := rfl
@[simp] theorem W.modChan_obs : (w.modChan c f).obs = w.obs := rfl
@[simp] theorem W.modChan_regs : (w.modChan c f).regs = w.regs := rfl
@[simp] theorem W.modChan_free : (w.modChan c f).free = w.free := rfl
@[simp] theorem W.modChan_mem0 : (w.modChan c f).mem0 = w.mem0 := rfl
@[simp] theorem W.modChan_ops : (w.modChan c f).ops = w.ops := rfl
@[simp] theorem W.modChan_fuses : (w.modChan c f).fuses = w.fuses := rfl
@[simp] theorem W.modChan_hbm_pages : (w.modChan c f).hbm.pages = w.hbm.pages := rfl
@[simp] theorem W.modChan_hbm_frames : (w.modChan c f).hbm.frames = w.hbm.frames := rfl
@[simp] theorem W.modChan_hbm_stackSt : (w.modChan c f).hbm.stackSt = w.hbm.stackSt := rfl
@[simp] theorem W.modChan_hbm_moves : (w.modChan c f).hbm.moves = w.hbm.moves := rfl
@[simp] theorem W.modChan_hbm_withdrawn : (w.modChan c f).hbm.withdrawn = w.hbm.withdrawn := rfl
@[simp] theorem W.modChan_hbm_unmaps : (w.modChan c f).hbm.unmaps = w.hbm.unmaps := rfl

/-- Reading after `W.modChan`. -/
theorem W.chan_modChan (d : Nat) : (w.modChan c f).chan d = if d = c then f (w.chan c) else w.chan d :=
  Sparse.get_modify ..

end

/-! ### `W.setStack` -/

section
variable (w : W) (k : Nat) (x : StackState)

@[simp] theorem W.setStack_cmd : (w.setStack k x).cmd = w.cmd := rfl
@[simp] theorem W.setStack_span : (w.setStack k x).span = w.span := rfl
@[simp] theorem W.setStack_core : (w.setStack k x).core = w.core := rfl
@[simp] theorem W.setStack_step : (w.setStack k x).step = w.step := rfl
@[simp] theorem W.setStack_deck : (w.setStack k x).deck = w.deck := rfl
@[simp] theorem W.setStack_tables : (w.setStack k x).tables = w.tables := rfl
@[simp] theorem W.setStack_vdt : (w.setStack k x).vdt = w.vdt := rfl
@[simp] theorem W.setStack_integ : (w.setStack k x).integ = w.integ := rfl
@[simp] theorem W.setStack_sec : (w.setStack k x).sec = w.sec := rfl
@[simp] theorem W.setStack_pwr : (w.setStack k x).pwr = w.pwr := rfl
@[simp] theorem W.setStack_fw : (w.setStack k x).fw = w.fw := rfl
@[simp] theorem W.setStack_obs : (w.setStack k x).obs = w.obs := rfl
@[simp] theorem W.setStack_regs : (w.setStack k x).regs = w.regs := rfl
@[simp] theorem W.setStack_free : (w.setStack k x).free = w.free := rfl
@[simp] theorem W.setStack_mem0 : (w.setStack k x).mem0 = w.mem0 := rfl
@[simp] theorem W.setStack_ops : (w.setStack k x).ops = w.ops := rfl
@[simp] theorem W.setStack_fuses : (w.setStack k x).fuses = w.fuses := rfl
@[simp] theorem W.setStack_hbm_pages : (w.setStack k x).hbm.pages = w.hbm.pages := rfl
@[simp] theorem W.setStack_hbm_frames : (w.setStack k x).hbm.frames = w.hbm.frames := rfl
@[simp] theorem W.setStack_hbm_chans : (w.setStack k x).hbm.chans = w.hbm.chans := rfl
@[simp] theorem W.setStack_hbm_moves : (w.setStack k x).hbm.moves = w.hbm.moves := rfl
@[simp] theorem W.setStack_hbm_withdrawn : (w.setStack k x).hbm.withdrawn = w.hbm.withdrawn := rfl
@[simp] theorem W.setStack_hbm_unmaps : (w.setStack k x).hbm.unmaps = w.hbm.unmaps := rfl

/-- Reading after `W.setStack`. -/
theorem W.stackState_setStack (j : Nat) : (w.setStack k x).stackState j = if j = k then x else w.stackState j :=
  Sparse.get_put ..

end

/-! ### `W.setPage` -/

section
variable (w : W) (n vp : Nat) (e : Option PageEnt)

@[simp] theorem W.setPage_cmd : (w.setPage n vp e).cmd = w.cmd := rfl
@[simp] theorem W.setPage_span : (w.setPage n vp e).span = w.span := rfl
@[simp] theorem W.setPage_core : (w.setPage n vp e).core = w.core := rfl
@[simp] theorem W.setPage_step : (w.setPage n vp e).step = w.step := rfl
@[simp] theorem W.setPage_deck : (w.setPage n vp e).deck = w.deck := rfl
@[simp] theorem W.setPage_tables : (w.setPage n vp e).tables = w.tables := rfl
@[simp] theorem W.setPage_vdt : (w.setPage n vp e).vdt = w.vdt := rfl
@[simp] theorem W.setPage_integ : (w.setPage n vp e).integ = w.integ := rfl
@[simp] theorem W.setPage_sec : (w.setPage n vp e).sec = w.sec := rfl
@[simp] theorem W.setPage_pwr : (w.setPage n vp e).pwr = w.pwr := rfl
@[simp] theorem W.setPage_fw : (w.setPage n vp e).fw = w.fw := rfl
@[simp] theorem W.setPage_obs : (w.setPage n vp e).obs = w.obs := rfl
@[simp] theorem W.setPage_regs : (w.setPage n vp e).regs = w.regs := rfl
@[simp] theorem W.setPage_free : (w.setPage n vp e).free = w.free := rfl
@[simp] theorem W.setPage_mem0 : (w.setPage n vp e).mem0 = w.mem0 := rfl
@[simp] theorem W.setPage_ops : (w.setPage n vp e).ops = w.ops := rfl
@[simp] theorem W.setPage_fuses : (w.setPage n vp e).fuses = w.fuses := rfl
@[simp] theorem W.setPage_hbm_frames : (w.setPage n vp e).hbm.frames = w.hbm.frames := rfl
@[simp] theorem W.setPage_hbm_chans : (w.setPage n vp e).hbm.chans = w.hbm.chans := rfl
@[simp] theorem W.setPage_hbm_stackSt : (w.setPage n vp e).hbm.stackSt = w.hbm.stackSt := rfl
@[simp] theorem W.setPage_hbm_moves : (w.setPage n vp e).hbm.moves = w.hbm.moves := rfl
@[simp] theorem W.setPage_hbm_withdrawn : (w.setPage n vp e).hbm.withdrawn = w.hbm.withdrawn := rfl
@[simp] theorem W.setPage_hbm_unmaps : (w.setPage n vp e).hbm.unmaps = w.hbm.unmaps := rfl

/-- Reading after `W.setPage`. -/
theorem W.page_setPage (m vq : Nat) : (w.setPage n vp e).page m vq = if pageKey m vq = pageKey n vp then e else w.page m vq :=
  Sparse.get_put ..

end

/-! ### `W.modCore` -/

section
variable (w : W) (l : Nat) (f : Core → Core)

@[simp] theorem W.modCore_cmd : (w.modCore l f).cmd = w.cmd := rfl
@[simp] theorem W.modCore_span : (w.modCore l f).span = w.span := rfl
@[simp] theorem W.modCore_hbm : (w.modCore l f).hbm = w.hbm := rfl
@[simp] theorem W.modCore_step : (w.modCore l f).step = w.step := rfl
@[simp] theorem W.modCore_deck : (w.modCore l f).deck = w.deck := rfl
@[simp] theorem W.modCore_tables : (w.modCore l f).tables = w.tables := rfl
@[simp] theorem W.modCore_vdt : (w.modCore l f).vdt = w.vdt := rfl
@[simp] theorem W.modCore_integ : (w.modCore l f).integ = w.integ := rfl
@[simp] theorem W.modCore_sec : (w.modCore l f).sec = w.sec := rfl
@[simp] theorem W.modCore_pwr : (w.modCore l f).pwr = w.pwr := rfl
@[simp] theorem W.modCore_fw : (w.modCore l f).fw = w.fw := rfl
@[simp] theorem W.modCore_obs : (w.modCore l f).obs = w.obs := rfl
@[simp] theorem W.modCore_regs : (w.modCore l f).regs = w.regs := rfl
@[simp] theorem W.modCore_free : (w.modCore l f).free = w.free := rfl
@[simp] theorem W.modCore_mem0 : (w.modCore l f).mem0 = w.mem0 := rfl
@[simp] theorem W.modCore_ops : (w.modCore l f).ops = w.ops := rfl
@[simp] theorem W.modCore_fuses : (w.modCore l f).fuses = w.fuses := rfl
@[simp] theorem W.modCore_core_phys : (w.modCore l f).core.phys = w.core.phys := rfl
@[simp] theorem W.modCore_core_logical : (w.modCore l f).core.logical = w.core.logical := rfl
@[simp] theorem W.modCore_core_clusters : (w.modCore l f).core.clusters = w.core.clusters := rfl
@[simp] theorem W.modCore_core_dies : (w.modCore l f).core.dies = w.core.dies := rfl
@[simp] theorem W.modCore_core_tests : (w.modCore l f).core.tests = w.core.tests := rfl
@[simp] theorem W.modCore_core_pinJobs : (w.modCore l f).core.pinJobs = w.core.pinJobs := rfl
@[simp] theorem W.modCore_core_clock : (w.modCore l f).core.clock = w.core.clock := rfl

/-- Reading after `W.modCore`. -/
theorem W.core'_modCore (m : Nat) : (w.modCore l f).core' m = if m = l then f (w.core' l) else w.core' m :=
  Sparse.get_modify ..

end

/-! ### `W.modPhys` -/

section
variable (w : W) (c : Nat) (f : Phys → Phys)

@[simp] theorem W.modPhys_cmd : (w.modPhys c f).cmd = w.cmd := rfl
@[simp] theorem W.modPhys_span : (w.modPhys c f).span = w.span := rfl
@[simp] theorem W.modPhys_hbm : (w.modPhys c f).hbm = w.hbm := rfl
@[simp] theorem W.modPhys_step : (w.modPhys c f).step = w.step := rfl
@[simp] theorem W.modPhys_deck : (w.modPhys c f).deck = w.deck := rfl
@[simp] theorem W.modPhys_tables : (w.modPhys c f).tables = w.tables := rfl
@[simp] theorem W.modPhys_vdt : (w.modPhys c f).vdt = w.vdt := rfl
@[simp] theorem W.modPhys_integ : (w.modPhys c f).integ = w.integ := rfl
@[simp] theorem W.modPhys_sec : (w.modPhys c f).sec = w.sec := rfl
@[simp] theorem W.modPhys_pwr : (w.modPhys c f).pwr = w.pwr := rfl
@[simp] theorem W.modPhys_fw : (w.modPhys c f).fw = w.fw := rfl
@[simp] theorem W.modPhys_obs : (w.modPhys c f).obs = w.obs := rfl
@[simp] theorem W.modPhys_regs : (w.modPhys c f).regs = w.regs := rfl
@[simp] theorem W.modPhys_free : (w.modPhys c f).free = w.free := rfl
@[simp] theorem W.modPhys_mem0 : (w.modPhys c f).mem0 = w.mem0 := rfl
@[simp] theorem W.modPhys_ops : (w.modPhys c f).ops = w.ops := rfl
@[simp] theorem W.modPhys_fuses : (w.modPhys c f).fuses = w.fuses := rfl
@[simp] theorem W.modPhys_core_cores : (w.modPhys c f).core.cores = w.core.cores := rfl
@[simp] theorem W.modPhys_core_logical : (w.modPhys c f).core.logical = w.core.logical := rfl
@[simp] theorem W.modPhys_core_clusters : (w.modPhys c f).core.clusters = w.core.clusters := rfl
@[simp] theorem W.modPhys_core_dies : (w.modPhys c f).core.dies = w.core.dies := rfl
@[simp] theorem W.modPhys_core_tests : (w.modPhys c f).core.tests = w.core.tests := rfl
@[simp] theorem W.modPhys_core_pinJobs : (w.modPhys c f).core.pinJobs = w.core.pinJobs := rfl
@[simp] theorem W.modPhys_core_clock : (w.modPhys c f).core.clock = w.core.clock := rfl

/-- Reading after `W.modPhys`. -/
theorem W.phys_modPhys (d : Nat) : (w.modPhys c f).phys d = if d = c then f (w.phys c) else w.phys d :=
  Sparse.get_modify ..

end

/-! ### `W.setPhysOf` -/

section
variable (w : W) (l : Nat) (c : Option Nat)

@[simp] theorem W.setPhysOf_cmd : (w.setPhysOf l c).cmd = w.cmd := rfl
@[simp] theorem W.setPhysOf_span : (w.setPhysOf l c).span = w.span := rfl
@[simp] theorem W.setPhysOf_hbm : (w.setPhysOf l c).hbm = w.hbm := rfl
@[simp] theorem W.setPhysOf_step : (w.setPhysOf l c).step = w.step := rfl
@[simp] theorem W.setPhysOf_deck : (w.setPhysOf l c).deck = w.deck := rfl
@[simp] theorem W.setPhysOf_tables : (w.setPhysOf l c).tables = w.tables := rfl
@[simp] theorem W.setPhysOf_vdt : (w.setPhysOf l c).vdt = w.vdt := rfl
@[simp] theorem W.setPhysOf_integ : (w.setPhysOf l c).integ = w.integ := rfl
@[simp] theorem W.setPhysOf_sec : (w.setPhysOf l c).sec = w.sec := rfl
@[simp] theorem W.setPhysOf_pwr : (w.setPhysOf l c).pwr = w.pwr := rfl
@[simp] theorem W.setPhysOf_fw : (w.setPhysOf l c).fw = w.fw := rfl
@[simp] theorem W.setPhysOf_obs : (w.setPhysOf l c).obs = w.obs := rfl
@[simp] theorem W.setPhysOf_regs : (w.setPhysOf l c).regs = w.regs := rfl
@[simp] theorem W.setPhysOf_free : (w.setPhysOf l c).free = w.free := rfl
@[simp] theorem W.setPhysOf_mem0 : (w.setPhysOf l c).mem0 = w.mem0 := rfl
@[simp] theorem W.setPhysOf_ops : (w.setPhysOf l c).ops = w.ops := rfl
@[simp] theorem W.setPhysOf_fuses : (w.setPhysOf l c).fuses = w.fuses := rfl
@[simp] theorem W.setPhysOf_core_cores : (w.setPhysOf l c).core.cores = w.core.cores := rfl
@[simp] theorem W.setPhysOf_core_phys : (w.setPhysOf l c).core.phys = w.core.phys := rfl
@[simp] theorem W.setPhysOf_core_clusters : (w.setPhysOf l c).core.clusters = w.core.clusters := rfl
@[simp] theorem W.setPhysOf_core_dies : (w.setPhysOf l c).core.dies = w.core.dies := rfl
@[simp] theorem W.setPhysOf_core_tests : (w.setPhysOf l c).core.tests = w.core.tests := rfl
@[simp] theorem W.setPhysOf_core_pinJobs : (w.setPhysOf l c).core.pinJobs = w.core.pinJobs := rfl
@[simp] theorem W.setPhysOf_core_clock : (w.setPhysOf l c).core.clock = w.core.clock := rfl

/-- Reading after `W.setPhysOf`. -/
theorem W.physOf_setPhysOf (m : Nat) : (w.setPhysOf l c).physOf m = if m = l then c else w.physOf m :=
  Sparse.get_put ..

end

/-! ### `W.modCluster` -/

section
variable (w : W) (c : Nat) (f : Cluster → Cluster)

@[simp] theorem W.modCluster_cmd : (w.modCluster c f).cmd = w.cmd := rfl
@[simp] theorem W.modCluster_span : (w.modCluster c f).span = w.span := rfl
@[simp] theorem W.modCluster_hbm : (w.modCluster c f).hbm = w.hbm := rfl
@[simp] theorem W.modCluster_step : (w.modCluster c f).step = w.step := rfl
@[simp] theorem W.modCluster_deck : (w.modCluster c f).deck = w.deck := rfl
@[simp] theorem W.modCluster_tables : (w.modCluster c f).tables = w.tables := rfl
@[simp] theorem W.modCluster_vdt : (w.modCluster c f).vdt = w.vdt := rfl
@[simp] theorem W.modCluster_integ : (w.modCluster c f).integ = w.integ := rfl
@[simp] theorem W.modCluster_sec : (w.modCluster c f).sec = w.sec := rfl
@[simp] theorem W.modCluster_pwr : (w.modCluster c f).pwr = w.pwr := rfl
@[simp] theorem W.modCluster_fw : (w.modCluster c f).fw = w.fw := rfl
@[simp] theorem W.modCluster_obs : (w.modCluster c f).obs = w.obs := rfl
@[simp] theorem W.modCluster_regs : (w.modCluster c f).regs = w.regs := rfl
@[simp] theorem W.modCluster_free : (w.modCluster c f).free = w.free := rfl
@[simp] theorem W.modCluster_mem0 : (w.modCluster c f).mem0 = w.mem0 := rfl
@[simp] theorem W.modCluster_ops : (w.modCluster c f).ops = w.ops := rfl
@[simp] theorem W.modCluster_fuses : (w.modCluster c f).fuses = w.fuses := rfl
@[simp] theorem W.modCluster_core_cores : (w.modCluster c f).core.cores = w.core.cores := rfl
@[simp] theorem W.modCluster_core_phys : (w.modCluster c f).core.phys = w.core.phys := rfl
@[simp] theorem W.modCluster_core_logical : (w.modCluster c f).core.logical = w.core.logical := rfl
@[simp] theorem W.modCluster_core_dies : (w.modCluster c f).core.dies = w.core.dies := rfl
@[simp] theorem W.modCluster_core_tests : (w.modCluster c f).core.tests = w.core.tests := rfl
@[simp] theorem W.modCluster_core_pinJobs : (w.modCluster c f).core.pinJobs = w.core.pinJobs := rfl
@[simp] theorem W.modCluster_core_clock : (w.modCluster c f).core.clock = w.core.clock := rfl

/-- Reading after `W.modCluster`. -/
theorem W.cluster_modCluster (d : Nat) : (w.modCluster c f).cluster d = if d = c then f (w.cluster c) else w.cluster d :=
  Sparse.get_modify ..

end

/-! ### `W.modDie` -/

section
variable (w : W) (d : Nat) (f : Die → Die)

@[simp] theorem W.modDie_cmd : (w.modDie d f).cmd = w.cmd := rfl
@[simp] theorem W.modDie_span : (w.modDie d f).span = w.span := rfl
@[simp] theorem W.modDie_hbm : (w.modDie d f).hbm = w.hbm := rfl
@[simp] theorem W.modDie_step : (w.modDie d f).step = w.step := rfl
@[simp] theorem W.modDie_deck : (w.modDie d f).deck = w.deck := rfl
@[simp] theorem W.modDie_tables : (w.modDie d f).tables = w.tables := rfl
@[simp] theorem W.modDie_vdt : (w.modDie d f).vdt = w.vdt := rfl
@[simp] theorem W.modDie_integ : (w.modDie d f).integ = w.integ := rfl
@[simp] theorem W.modDie_sec : (w.modDie d f).sec = w.sec := rfl
@[simp] theorem W.modDie_pwr : (w.modDie d f).pwr = w.pwr := rfl
@[simp] theorem W.modDie_fw : (w.modDie d f).fw = w.fw := rfl
@[simp] theorem W.modDie_obs : (w.modDie d f).obs = w.obs := rfl
@[simp] theorem W.modDie_regs : (w.modDie d f).regs = w.regs := rfl
@[simp] theorem W.modDie_free : (w.modDie d f).free = w.free := rfl
@[simp] theorem W.modDie_mem0 : (w.modDie d f).mem0 = w.mem0 := rfl
@[simp] theorem W.modDie_ops : (w.modDie d f).ops = w.ops := rfl
@[simp] theorem W.modDie_fuses : (w.modDie d f).fuses = w.fuses := rfl
@[simp] theorem W.modDie_core_cores : (w.modDie d f).core.cores = w.core.cores := rfl
@[simp] theorem W.modDie_core_phys : (w.modDie d f).core.phys = w.core.phys := rfl
@[simp] theorem W.modDie_core_logical : (w.modDie d f).core.logical = w.core.logical := rfl
@[simp] theorem W.modDie_core_clusters : (w.modDie d f).core.clusters = w.core.clusters := rfl
@[simp] theorem W.modDie_core_tests : (w.modDie d f).core.tests = w.core.tests := rfl
@[simp] theorem W.modDie_core_pinJobs : (w.modDie d f).core.pinJobs = w.core.pinJobs := rfl
@[simp] theorem W.modDie_core_clock : (w.modDie d f).core.clock = w.core.clock := rfl

/-- Reading after `W.modDie`. -/
theorem W.die_modDie (e : Nat) : (w.modDie d f).die e = if e = d then f (w.die d) else w.die e :=
  Sparse.get_modify ..

end

/-! ### `W.modSched` -/

section
variable (w : W) (n r : Nat) (f : RingSched → RingSched)

@[simp] theorem W.modSched_cmd : (w.modSched n r f).cmd = w.cmd := rfl
@[simp] theorem W.modSched_span : (w.modSched n r f).span = w.span := rfl
@[simp] theorem W.modSched_hbm : (w.modSched n r f).hbm = w.hbm := rfl
@[simp] theorem W.modSched_core : (w.modSched n r f).core = w.core := rfl
@[simp] theorem W.modSched_deck : (w.modSched n r f).deck = w.deck := rfl
@[simp] theorem W.modSched_tables : (w.modSched n r f).tables = w.tables := rfl
@[simp] theorem W.modSched_vdt : (w.modSched n r f).vdt = w.vdt := rfl
@[simp] theorem W.modSched_integ : (w.modSched n r f).integ = w.integ := rfl
@[simp] theorem W.modSched_sec : (w.modSched n r f).sec = w.sec := rfl
@[simp] theorem W.modSched_pwr : (w.modSched n r f).pwr = w.pwr := rfl
@[simp] theorem W.modSched_fw : (w.modSched n r f).fw = w.fw := rfl
@[simp] theorem W.modSched_obs : (w.modSched n r f).obs = w.obs := rfl
@[simp] theorem W.modSched_regs : (w.modSched n r f).regs = w.regs := rfl
@[simp] theorem W.modSched_free : (w.modSched n r f).free = w.free := rfl
@[simp] theorem W.modSched_mem0 : (w.modSched n r f).mem0 = w.mem0 := rfl
@[simp] theorem W.modSched_ops : (w.modSched n r f).ops = w.ops := rfl
@[simp] theorem W.modSched_fuses : (w.modSched n r f).fuses = w.fuses := rfl
@[simp] theorem W.modSched_step_programs : (w.modSched n r f).step.programs = w.step.programs := rfl
@[simp] theorem W.modSched_step_steps : (w.modSched n r f).step.steps = w.step.steps := rfl
@[simp] theorem W.modSched_step_inflight : (w.modSched n r f).step.inflight = w.step.inflight := rfl

/-- Reading after `W.modSched`. -/
theorem W.sched_modSched (m q : Nat) : (w.modSched n r f).sched m q = if 16 * m + q = 16 * n + r then f (w.sched n r) else w.sched m q :=
  Sparse.get_modify ..

end

/-! ### `W.modStep` -/

section
variable (w : W) (i : Nat) (f : Step → Step)

@[simp] theorem W.modStep_cmd : (w.modStep i f).cmd = w.cmd := rfl
@[simp] theorem W.modStep_span : (w.modStep i f).span = w.span := rfl
@[simp] theorem W.modStep_hbm : (w.modStep i f).hbm = w.hbm := rfl
@[simp] theorem W.modStep_core : (w.modStep i f).core = w.core := rfl
@[simp] theorem W.modStep_deck : (w.modStep i f).deck = w.deck := rfl
@[simp] theorem W.modStep_tables : (w.modStep i f).tables = w.tables := rfl
@[simp] theorem W.modStep_vdt : (w.modStep i f).vdt = w.vdt := rfl
@[simp] theorem W.modStep_integ : (w.modStep i f).integ = w.integ := rfl
@[simp] theorem W.modStep_sec : (w.modStep i f).sec = w.sec := rfl
@[simp] theorem W.modStep_pwr : (w.modStep i f).pwr = w.pwr := rfl
@[simp] theorem W.modStep_fw : (w.modStep i f).fw = w.fw := rfl
@[simp] theorem W.modStep_obs : (w.modStep i f).obs = w.obs := rfl
@[simp] theorem W.modStep_regs : (w.modStep i f).regs = w.regs := rfl
@[simp] theorem W.modStep_free : (w.modStep i f).free = w.free := rfl
@[simp] theorem W.modStep_mem0 : (w.modStep i f).mem0 = w.mem0 := rfl
@[simp] theorem W.modStep_ops : (w.modStep i f).ops = w.ops := rfl
@[simp] theorem W.modStep_fuses : (w.modStep i f).fuses = w.fuses := rfl
@[simp] theorem W.modStep_step_programs : (w.modStep i f).step.programs = w.step.programs := rfl
@[simp] theorem W.modStep_step_inflight : (w.modStep i f).step.inflight = w.step.inflight := rfl
@[simp] theorem W.modStep_step_rings : (w.modStep i f).step.rings = w.step.rings := rfl

end

/-! ### `W.modSlot` -/

section
variable (w : W) (n k : Nat) (f : DeckSlot → DeckSlot)

@[simp] theorem W.modSlot_cmd : (w.modSlot n k f).cmd = w.cmd := rfl
@[simp] theorem W.modSlot_span : (w.modSlot n k f).span = w.span := rfl
@[simp] theorem W.modSlot_hbm : (w.modSlot n k f).hbm = w.hbm := rfl
@[simp] theorem W.modSlot_core : (w.modSlot n k f).core = w.core := rfl
@[simp] theorem W.modSlot_step : (w.modSlot n k f).step = w.step := rfl
@[simp] theorem W.modSlot_tables : (w.modSlot n k f).tables = w.tables := rfl
@[simp] theorem W.modSlot_vdt : (w.modSlot n k f).vdt = w.vdt := rfl
@[simp] theorem W.modSlot_integ : (w.modSlot n k f).integ = w.integ := rfl
@[simp] theorem W.modSlot_sec : (w.modSlot n k f).sec = w.sec := rfl
@[simp] theorem W.modSlot_pwr : (w.modSlot n k f).pwr = w.pwr := rfl
@[simp] theorem W.modSlot_fw : (w.modSlot n k f).fw = w.fw := rfl
@[simp] theorem W.modSlot_obs : (w.modSlot n k f).obs = w.obs := rfl
@[simp] theorem W.modSlot_regs : (w.modSlot n k f).regs = w.regs := rfl
@[simp] theorem W.modSlot_free : (w.modSlot n k f).free = w.free := rfl
@[simp] theorem W.modSlot_mem0 : (w.modSlot n k f).mem0 = w.mem0 := rfl
@[simp] theorem W.modSlot_ops : (w.modSlot n k f).ops = w.ops := rfl
@[simp] theorem W.modSlot_fuses : (w.modSlot n k f).fuses = w.fuses := rfl
@[simp] theorem W.modSlot_deck_images : (w.modSlot n k f).deck.images = w.deck.images := rfl
@[simp] theorem W.modSlot_deck_loads : (w.modSlot n k f).deck.loads = w.deck.loads := rfl
@[simp] theorem W.modSlot_deck_adapters : (w.modSlot n k f).deck.adapters = w.deck.adapters := rfl
@[simp] theorem W.modSlot_deck_requests : (w.modSlot n k f).deck.requests = w.deck.requests := rfl
@[simp] theorem W.modSlot_deck_nextImage : (w.modSlot n k f).deck.nextImage = w.deck.nextImage := rfl

/-- Reading after `W.modSlot`. -/
theorem W.slot_modSlot (m j : Nat) : (w.modSlot n k f).slot m j = if 16 * m + j = 16 * n + k then f (w.slot n k) else w.slot m j :=
  Sparse.get_modify ..

end

/-! ### `W.modImage` -/

section
variable (w : W) (i : Nat) (f : Image → Image)

@[simp] theorem W.modImage_cmd : (w.modImage i f).cmd = w.cmd := rfl
@[simp] theorem W.modImage_span : (w.modImage i f).span = w.span := rfl
@[simp] theorem W.modImage_hbm : (w.modImage i f).hbm = w.hbm := rfl
@[simp] theorem W.modImage_core : (w.modImage i f).core = w.core := rfl
@[simp] theorem W.modImage_step : (w.modImage i f).step = w.step := rfl
@[simp] theorem W.modImage_tables : (w.modImage i f).tables = w.tables := rfl
@[simp] theorem W.modImage_vdt : (w.modImage i f).vdt = w.vdt := rfl
@[simp] theorem W.modImage_integ : (w.modImage i f).integ = w.integ := rfl
@[simp] theorem W.modImage_sec : (w.modImage i f).sec = w.sec := rfl
@[simp] theorem W.modImage_pwr : (w.modImage i f).pwr = w.pwr := rfl
@[simp] theorem W.modImage_fw : (w.modImage i f).fw = w.fw := rfl
@[simp] theorem W.modImage_obs : (w.modImage i f).obs = w.obs := rfl
@[simp] theorem W.modImage_regs : (w.modImage i f).regs = w.regs := rfl
@[simp] theorem W.modImage_free : (w.modImage i f).free = w.free := rfl
@[simp] theorem W.modImage_mem0 : (w.modImage i f).mem0 = w.mem0 := rfl
@[simp] theorem W.modImage_ops : (w.modImage i f).ops = w.ops := rfl
@[simp] theorem W.modImage_fuses : (w.modImage i f).fuses = w.fuses := rfl
@[simp] theorem W.modImage_deck_slots : (w.modImage i f).deck.slots = w.deck.slots := rfl
@[simp] theorem W.modImage_deck_loads : (w.modImage i f).deck.loads = w.deck.loads := rfl
@[simp] theorem W.modImage_deck_adapters : (w.modImage i f).deck.adapters = w.deck.adapters := rfl
@[simp] theorem W.modImage_deck_requests : (w.modImage i f).deck.requests = w.deck.requests := rfl
@[simp] theorem W.modImage_deck_nextImage : (w.modImage i f).deck.nextImage = w.deck.nextImage := rfl

end

/-! ### `W.modAdapter` -/

section
variable (w : W) (h : Nat) (f : Adapter → Adapter)

@[simp] theorem W.modAdapter_cmd : (w.modAdapter h f).cmd = w.cmd := rfl
@[simp] theorem W.modAdapter_span : (w.modAdapter h f).span = w.span := rfl
@[simp] theorem W.modAdapter_hbm : (w.modAdapter h f).hbm = w.hbm := rfl
@[simp] theorem W.modAdapter_core : (w.modAdapter h f).core = w.core := rfl
@[simp] theorem W.modAdapter_step : (w.modAdapter h f).step = w.step := rfl
@[simp] theorem W.modAdapter_tables : (w.modAdapter h f).tables = w.tables := rfl
@[simp] theorem W.modAdapter_vdt : (w.modAdapter h f).vdt = w.vdt := rfl
@[simp] theorem W.modAdapter_integ : (w.modAdapter h f).integ = w.integ := rfl
@[simp] theorem W.modAdapter_sec : (w.modAdapter h f).sec = w.sec := rfl
@[simp] theorem W.modAdapter_pwr : (w.modAdapter h f).pwr = w.pwr := rfl
@[simp] theorem W.modAdapter_fw : (w.modAdapter h f).fw = w.fw := rfl
@[simp] theorem W.modAdapter_obs : (w.modAdapter h f).obs = w.obs := rfl
@[simp] theorem W.modAdapter_regs : (w.modAdapter h f).regs = w.regs := rfl
@[simp] theorem W.modAdapter_free : (w.modAdapter h f).free = w.free := rfl
@[simp] theorem W.modAdapter_mem0 : (w.modAdapter h f).mem0 = w.mem0 := rfl
@[simp] theorem W.modAdapter_ops : (w.modAdapter h f).ops = w.ops := rfl
@[simp] theorem W.modAdapter_fuses : (w.modAdapter h f).fuses = w.fuses := rfl
@[simp] theorem W.modAdapter_deck_images : (w.modAdapter h f).deck.images = w.deck.images := rfl
@[simp] theorem W.modAdapter_deck_slots : (w.modAdapter h f).deck.slots = w.deck.slots := rfl
@[simp] theorem W.modAdapter_deck_loads : (w.modAdapter h f).deck.loads = w.deck.loads := rfl
@[simp] theorem W.modAdapter_deck_requests : (w.modAdapter h f).deck.requests = w.deck.requests := rfl
@[simp] theorem W.modAdapter_deck_nextImage : (w.modAdapter h f).deck.nextImage = w.deck.nextImage := rfl

end

/-! ### `W.setTable` -/

section
variable (w : W) (n i : Nat) (t : Option Table)

@[simp] theorem W.setTable_cmd : (w.setTable n i t).cmd = w.cmd := rfl
@[simp] theorem W.setTable_span : (w.setTable n i t).span = w.span := rfl
@[simp] theorem W.setTable_hbm : (w.setTable n i t).hbm = w.hbm := rfl
@[simp] theorem W.setTable_core : (w.setTable n i t).core = w.core := rfl
@[simp] theorem W.setTable_step : (w.setTable n i t).step = w.step := rfl
@[simp] theorem W.setTable_deck : (w.setTable n i t).deck = w.deck := rfl
@[simp] theorem W.setTable_vdt : (w.setTable n i t).vdt = w.vdt := rfl
@[simp] theorem W.setTable_integ : (w.setTable n i t).integ = w.integ := rfl
@[simp] theorem W.setTable_sec : (w.setTable n i t).sec = w.sec := rfl
@[simp] theorem W.setTable_pwr : (w.setTable n i t).pwr = w.pwr := rfl
@[simp] theorem W.setTable_fw : (w.setTable n i t).fw = w.fw := rfl
@[simp] theorem W.setTable_obs : (w.setTable n i t).obs = w.obs := rfl
@[simp] theorem W.setTable_regs : (w.setTable n i t).regs = w.regs := rfl
@[simp] theorem W.setTable_free : (w.setTable n i t).free = w.free := rfl
@[simp] theorem W.setTable_mem0 : (w.setTable n i t).mem0 = w.mem0 := rfl
@[simp] theorem W.setTable_ops : (w.setTable n i t).ops = w.ops := rfl
@[simp] theorem W.setTable_fuses : (w.setTable n i t).fuses = w.fuses := rfl

/-- Reading after `W.setTable`. -/
theorem W.table_setTable (m j : Nat) : (w.setTable n i t).table m j = if 1024 * m + j = 1024 * n + i then t else w.table m j :=
  Sparse.get_put ..

end

/-! ### `W.modTable` -/

section
variable (w : W) (n i : Nat) (f : Table → Table)

@[simp] theorem W.modTable_cmd : (w.modTable n i f).cmd = w.cmd := rfl
@[simp] theorem W.modTable_span : (w.modTable n i f).span = w.span := rfl
@[simp] theorem W.modTable_hbm : (w.modTable n i f).hbm = w.hbm := rfl
@[simp] theorem W.modTable_core : (w.modTable n i f).core = w.core := rfl
@[simp] theorem W.modTable_step : (w.modTable n i f).step = w.step := rfl
@[simp] theorem W.modTable_deck : (w.modTable n i f).deck = w.deck := rfl
@[simp] theorem W.modTable_vdt : (w.modTable n i f).vdt = w.vdt := rfl
@[simp] theorem W.modTable_integ : (w.modTable n i f).integ = w.integ := rfl
@[simp] theorem W.modTable_sec : (w.modTable n i f).sec = w.sec := rfl
@[simp] theorem W.modTable_pwr : (w.modTable n i f).pwr = w.pwr := rfl
@[simp] theorem W.modTable_fw : (w.modTable n i f).fw = w.fw := rfl
@[simp] theorem W.modTable_obs : (w.modTable n i f).obs = w.obs := rfl
@[simp] theorem W.modTable_regs : (w.modTable n i f).regs = w.regs := rfl
@[simp] theorem W.modTable_free : (w.modTable n i f).free = w.free := rfl
@[simp] theorem W.modTable_mem0 : (w.modTable n i f).mem0 = w.mem0 := rfl
@[simp] theorem W.modTable_ops : (w.modTable n i f).ops = w.ops := rfl
@[simp] theorem W.modTable_fuses : (w.modTable n i f).fuses = w.fuses := rfl

/-- Reading after `W.modTable`. -/
theorem W.table_modTable (m j : Nat) : (w.modTable n i f).table m j = if 1024 * m + j = 1024 * n + i then (w.table n i).map f else w.table m j :=
  Sparse.get_put ..

end

/-! ### `W.modPort` -/

section
variable (w : W) (p : Nat) (f : Port → Port)

@[simp] theorem W.modPort_cmd : (w.modPort p f).cmd = w.cmd := rfl
@[simp] theorem W.modPort_span : (w.modPort p f).span = w.span := rfl
@[simp] theorem W.modPort_hbm : (w.modPort p f).hbm = w.hbm := rfl
@[simp] theorem W.modPort_core : (w.modPort p f).core = w.core := rfl
@[simp] theorem W.modPort_step : (w.modPort p f).step = w.step := rfl
@[simp] theorem W.modPort_deck : (w.modPort p f).deck = w.deck := rfl
@[simp] theorem W.modPort_tables : (w.modPort p f).tables = w.tables := rfl
@[simp] theorem W.modPort_integ : (w.modPort p f).integ = w.integ := rfl
@[simp] theorem W.modPort_sec : (w.modPort p f).sec = w.sec := rfl
@[simp] theorem W.modPort_pwr : (w.modPort p f).pwr = w.pwr := rfl
@[simp] theorem W.modPort_fw : (w.modPort p f).fw = w.fw := rfl
@[simp] theorem W.modPort_obs : (w.modPort p f).obs = w.obs := rfl
@[simp] theorem W.modPort_regs : (w.modPort p f).regs = w.regs := rfl
@[simp] theorem W.modPort_free : (w.modPort p f).free = w.free := rfl
@[simp] theorem W.modPort_mem0 : (w.modPort p f).mem0 = w.mem0 := rfl
@[simp] theorem W.modPort_ops : (w.modPort p f).ops = w.ops := rfl
@[simp] theorem W.modPort_fuses : (w.modPort p f).fuses = w.fuses := rfl
@[simp] theorem W.modPort_vdt_ranks : (w.modPort p f).vdt.ranks = w.vdt.ranks := rfl
@[simp] theorem W.modPort_vdt_flows : (w.modPort p f).vdt.flows = w.vdt.flows := rfl
@[simp] theorem W.modPort_vdt_rxs : (w.modPort p f).vdt.rxs = w.vdt.rxs := rfl
@[simp] theorem W.modPort_vdt_stripe : (w.modPort p f).vdt.stripe = w.vdt.stripe := rfl
@[simp] theorem W.modPort_vdt_colls : (w.modPort p f).vdt.colls = w.vdt.colls := rfl
@[simp] theorem W.modPort_vdt_waiting : (w.modPort p f).vdt.waiting = w.vdt.waiting := rfl
@[simp] theorem W.modPort_vdt_nacks : (w.modPort p f).vdt.nacks = w.vdt.nacks := rfl
@[simp] theorem W.modPort_vdt_closed : (w.modPort p f).vdt.closed = w.vdt.closed := rfl

/-- Reading after `W.modPort`. -/
theorem W.port_modPort (q : Nat) : (w.modPort p f).port q = if q = p then f (w.port p) else w.port q :=
  Sparse.get_modify ..

end

/-! ### `W.modFlow` -/

section
variable (w : W) (i : Nat) (f : Flow → Flow)

@[simp] theorem W.modFlow_cmd : (w.modFlow i f).cmd = w.cmd := rfl
@[simp] theorem W.modFlow_span : (w.modFlow i f).span = w.span := rfl
@[simp] theorem W.modFlow_hbm : (w.modFlow i f).hbm = w.hbm := rfl
@[simp] theorem W.modFlow_core : (w.modFlow i f).core = w.core := rfl
@[simp] theorem W.modFlow_step : (w.modFlow i f).step = w.step := rfl
@[simp] theorem W.modFlow_deck : (w.modFlow i f).deck = w.deck := rfl
@[simp] theorem W.modFlow_tables : (w.modFlow i f).tables = w.tables := rfl
@[simp] theorem W.modFlow_integ : (w.modFlow i f).integ = w.integ := rfl
@[simp] theorem W.modFlow_sec : (w.modFlow i f).sec = w.sec := rfl
@[simp] theorem W.modFlow_pwr : (w.modFlow i f).pwr = w.pwr := rfl
@[simp] theorem W.modFlow_fw : (w.modFlow i f).fw = w.fw := rfl
@[simp] theorem W.modFlow_obs : (w.modFlow i f).obs = w.obs := rfl
@[simp] theorem W.modFlow_regs : (w.modFlow i f).regs = w.regs := rfl
@[simp] theorem W.modFlow_free : (w.modFlow i f).free = w.free := rfl
@[simp] theorem W.modFlow_mem0 : (w.modFlow i f).mem0 = w.mem0 := rfl
@[simp] theorem W.modFlow_ops : (w.modFlow i f).ops = w.ops := rfl
@[simp] theorem W.modFlow_fuses : (w.modFlow i f).fuses = w.fuses := rfl
@[simp] theorem W.modFlow_vdt_ranks : (w.modFlow i f).vdt.ranks = w.vdt.ranks := rfl
@[simp] theorem W.modFlow_vdt_ports : (w.modFlow i f).vdt.ports = w.vdt.ports := rfl
@[simp] theorem W.modFlow_vdt_rxs : (w.modFlow i f).vdt.rxs = w.vdt.rxs := rfl
@[simp] theorem W.modFlow_vdt_stripe : (w.modFlow i f).vdt.stripe = w.vdt.stripe := rfl
@[simp] theorem W.modFlow_vdt_colls : (w.modFlow i f).vdt.colls = w.vdt.colls := rfl
@[simp] theorem W.modFlow_vdt_waiting : (w.modFlow i f).vdt.waiting = w.vdt.waiting := rfl
@[simp] theorem W.modFlow_vdt_nacks : (w.modFlow i f).vdt.nacks = w.vdt.nacks := rfl
@[simp] theorem W.modFlow_vdt_closed : (w.modFlow i f).vdt.closed = w.vdt.closed := rfl

end

/-! ### `W.modKey` -/

section
variable (w : W) (k : Nat) (f : KeySlot → KeySlot)

@[simp] theorem W.modKey_cmd : (w.modKey k f).cmd = w.cmd := rfl
@[simp] theorem W.modKey_span : (w.modKey k f).span = w.span := rfl
@[simp] theorem W.modKey_hbm : (w.modKey k f).hbm = w.hbm := rfl
@[simp] theorem W.modKey_core : (w.modKey k f).core = w.core := rfl
@[simp] theorem W.modKey_step : (w.modKey k f).step = w.step := rfl
@[simp] theorem W.modKey_deck : (w.modKey k f).deck = w.deck := rfl
@[simp] theorem W.modKey_tables : (w.modKey k f).tables = w.tables := rfl
@[simp] theorem W.modKey_vdt : (w.modKey k f).vdt = w.vdt := rfl
@[simp] theorem W.modKey_integ : (w.modKey k f).integ = w.integ := rfl
@[simp] theorem W.modKey_sec : (w.modKey k f).sec = w.sec := rfl
@[simp] theorem W.modKey_pwr : (w.modKey k f).pwr = w.pwr := rfl
@[simp] theorem W.modKey_obs : (w.modKey k f).obs = w.obs := rfl
@[simp] theorem W.modKey_regs : (w.modKey k f).regs = w.regs := rfl
@[simp] theorem W.modKey_free : (w.modKey k f).free = w.free := rfl
@[simp] theorem W.modKey_mem0 : (w.modKey k f).mem0 = w.mem0 := rfl
@[simp] theorem W.modKey_ops : (w.modKey k f).ops = w.ops := rfl
@[simp] theorem W.modKey_fuses : (w.modKey k f).fuses = w.fuses := rfl
@[simp] theorem W.modKey_fw_slotA : (w.modKey k f).fw.slotA = w.fw.slotA := rfl
@[simp] theorem W.modKey_fw_slotB : (w.modKey k f).fw.slotB = w.fw.slotB := rfl
@[simp] theorem W.modKey_fw_invalidA : (w.modKey k f).fw.invalidA = w.fw.invalidA := rfl
@[simp] theorem W.modKey_fw_invalidB : (w.modKey k f).fw.invalidB = w.fw.invalidB := rfl
@[simp] theorem W.modKey_fw_runB : (w.modKey k f).fw.runB = w.fw.runB := rfl
@[simp] theorem W.modKey_fw_act : (w.modKey k f).fw.act = w.fw.act := rfl
@[simp] theorem W.modKey_fw_actCmd : (w.modKey k f).fw.actCmd = w.fw.actCmd := rfl
@[simp] theorem W.modKey_fw_stage : (w.modKey k f).fw.stage = w.fw.stage := rfl
@[simp] theorem W.modKey_fw_stageCmd : (w.modKey k f).fw.stageCmd = w.fw.stageCmd := rfl
@[simp] theorem W.modKey_fw_stageImage : (w.modKey k f).fw.stageImage = w.fw.stageImage := rfl
@[simp] theorem W.modKey_fw_cosign : (w.modKey k f).fw.cosign = w.fw.cosign := rfl
@[simp] theorem W.modKey_fw_anchors : (w.modKey k f).fw.anchors = w.fw.anchors := rfl
@[simp] theorem W.modKey_fw_roles : (w.modKey k f).fw.roles = w.fw.roles := rfl
@[simp] theorem W.modKey_fw_mctpOff : (w.modKey k f).fw.mctpOff = w.fw.mctpOff := rfl
@[simp] theorem W.modKey_fw_windowOffNext : (w.modKey k f).fw.windowOffNext = w.fw.windowOffNext := rfl
@[simp] theorem W.modKey_fw_windowOff : (w.modKey k f).fw.windowOff = w.fw.windowOff := rfl
@[simp] theorem W.modKey_fw_spdmCount : (w.modKey k f).fw.spdmCount = w.fw.spdmCount := rfl

/-- Reading after `W.modKey`. -/
theorem W.keySlot_modKey (j : Nat) : (w.modKey k f).keySlot j = if j = k then f (w.keySlot k) else w.keySlot j :=
  Sparse.get_modify ..

end

/-! ### `W.setSec` -/

section
variable (w : W) (n : Nat) (x : Option SecState)

@[simp] theorem W.setSec_cmd : (w.setSec n x).cmd = w.cmd := rfl
@[simp] theorem W.setSec_span : (w.setSec n x).span = w.span := rfl
@[simp] theorem W.setSec_hbm : (w.setSec n x).hbm = w.hbm := rfl
@[simp] theorem W.setSec_core : (w.setSec n x).core = w.core := rfl
@[simp] theorem W.setSec_step : (w.setSec n x).step = w.step := rfl
@[simp] theorem W.setSec_deck : (w.setSec n x).deck = w.deck := rfl
@[simp] theorem W.setSec_tables : (w.setSec n x).tables = w.tables := rfl
@[simp] theorem W.setSec_vdt : (w.setSec n x).vdt = w.vdt := rfl
@[simp] theorem W.setSec_integ : (w.setSec n x).integ = w.integ := rfl
@[simp] theorem W.setSec_pwr : (w.setSec n x).pwr = w.pwr := rfl
@[simp] theorem W.setSec_fw : (w.setSec n x).fw = w.fw := rfl
@[simp] theorem W.setSec_obs : (w.setSec n x).obs = w.obs := rfl
@[simp] theorem W.setSec_regs : (w.setSec n x).regs = w.regs := rfl
@[simp] theorem W.setSec_free : (w.setSec n x).free = w.free := rfl
@[simp] theorem W.setSec_mem0 : (w.setSec n x).mem0 = w.mem0 := rfl
@[simp] theorem W.setSec_ops : (w.setSec n x).ops = w.ops := rfl
@[simp] theorem W.setSec_fuses : (w.setSec n x).fuses = w.fuses := rfl

/-- Reading after `W.setSec`. -/
theorem W.secOf_setSec (m : Nat) : (w.setSec n x).secOf m = if m = n then x else w.secOf m :=
  Sparse.get_put ..

end

/-! ### `W.modSec` -/

section
variable (w : W) (n : Nat) (f : SecState → SecState)

@[simp] theorem W.modSec_cmd : (w.modSec n f).cmd = w.cmd := rfl
@[simp] theorem W.modSec_span : (w.modSec n f).span = w.span := rfl
@[simp] theorem W.modSec_hbm : (w.modSec n f).hbm = w.hbm := rfl
@[simp] theorem W.modSec_core : (w.modSec n f).core = w.core := rfl
@[simp] theorem W.modSec_step : (w.modSec n f).step = w.step := rfl
@[simp] theorem W.modSec_deck : (w.modSec n f).deck = w.deck := rfl
@[simp] theorem W.modSec_tables : (w.modSec n f).tables = w.tables := rfl
@[simp] theorem W.modSec_vdt : (w.modSec n f).vdt = w.vdt := rfl
@[simp] theorem W.modSec_integ : (w.modSec n f).integ = w.integ := rfl
@[simp] theorem W.modSec_pwr : (w.modSec n f).pwr = w.pwr := rfl
@[simp] theorem W.modSec_fw : (w.modSec n f).fw = w.fw := rfl
@[simp] theorem W.modSec_obs : (w.modSec n f).obs = w.obs := rfl
@[simp] theorem W.modSec_regs : (w.modSec n f).regs = w.regs := rfl
@[simp] theorem W.modSec_free : (w.modSec n f).free = w.free := rfl
@[simp] theorem W.modSec_mem0 : (w.modSec n f).mem0 = w.mem0 := rfl
@[simp] theorem W.modSec_ops : (w.modSec n f).ops = w.ops := rfl
@[simp] theorem W.modSec_fuses : (w.modSec n f).fuses = w.fuses := rfl

/-- Reading after `W.modSec`. -/
theorem W.secOf_modSec (m : Nat) : (w.modSec n f).secOf m = if m = n then (w.secOf n).map f else w.secOf m :=
  Sparse.get_put ..

end

/-! ### `W.count` -/

section
variable (w : W) (n o k : Nat)

@[simp] theorem W.count_cmd : (w.count n o k).cmd = w.cmd := rfl
@[simp] theorem W.count_span : (w.count n o k).span = w.span := rfl
@[simp] theorem W.count_hbm : (w.count n o k).hbm = w.hbm := rfl
@[simp] theorem W.count_core : (w.count n o k).core = w.core := rfl
@[simp] theorem W.count_step : (w.count n o k).step = w.step := rfl
@[simp] theorem W.count_deck : (w.count n o k).deck = w.deck := rfl
@[simp] theorem W.count_tables : (w.count n o k).tables = w.tables := rfl
@[simp] theorem W.count_vdt : (w.count n o k).vdt = w.vdt := rfl
@[simp] theorem W.count_integ : (w.count n o k).integ = w.integ := rfl
@[simp] theorem W.count_sec : (w.count n o k).sec = w.sec := rfl
@[simp] theorem W.count_pwr : (w.count n o k).pwr = w.pwr := rfl
@[simp] theorem W.count_fw : (w.count n o k).fw = w.fw := rfl
@[simp] theorem W.count_regs : (w.count n o k).regs = w.regs := rfl
@[simp] theorem W.count_free : (w.count n o k).free = w.free := rfl
@[simp] theorem W.count_mem0 : (w.count n o k).mem0 = w.mem0 := rfl
@[simp] theorem W.count_ops : (w.count n o k).ops = w.ops := rfl
@[simp] theorem W.count_fuses : (w.count n o k).fuses = w.fuses := rfl
@[simp] theorem W.count_obs_ring : (w.count n o k).obs.ring = w.obs.ring := rfl
@[simp] theorem W.count_obs_unflushed : (w.count n o k).obs.unflushed = w.obs.unflushed := rfl
@[simp] theorem W.count_obs_flash : (w.count n o k).obs.flash = w.obs.flash := rfl
@[simp] theorem W.count_obs_nextSeq : (w.count n o k).obs.nextSeq = w.obs.nextSeq := rfl
@[simp] theorem W.count_obs_refused : (w.count n o k).obs.refused = w.obs.refused := rfl
@[simp] theorem W.count_obs_flushDue : (w.count n o k).obs.flushDue = w.obs.flushDue := rfl
@[simp] theorem W.count_obs_latches : (w.count n o k).obs.latches = w.obs.latches := rfl
@[simp] theorem W.count_obs_hi : (w.count n o k).obs.hi = w.obs.hi := rfl
@[simp] theorem W.count_obs_epoch : (w.count n o k).obs.epoch = w.obs.epoch := rfl
@[simp] theorem W.count_obs_hlt : (w.count n o k).obs.hlt = w.obs.hlt := rfl
@[simp] theorem W.count_obs_wptr : (w.count n o k).obs.wptr = w.obs.wptr := rfl
@[simp] theorem W.count_obs_traces : (w.count n o k).obs.traces = w.obs.traces := rfl
@[simp] theorem W.count_obs_trcErr : (w.count n o k).obs.trcErr = w.obs.trcErr := rfl
@[simp] theorem W.count_obs_trcDrops : (w.count n o k).obs.trcDrops = w.obs.trcDrops := rfl

end

/-! ### `W.setReg` -/

section
variable (w : W) (fn o v : Nat)

@[simp] theorem W.setReg_cmd : (w.setReg fn o v).cmd = w.cmd := rfl
@[simp] theorem W.setReg_span : (w.setReg fn o v).span = w.span := rfl
@[simp] theorem W.setReg_hbm : (w.setReg fn o v).hbm = w.hbm := rfl
@[simp] theorem W.setReg_core : (w.setReg fn o v).core = w.core := rfl
@[simp] theorem W.setReg_step : (w.setReg fn o v).step = w.step := rfl
@[simp] theorem W.setReg_deck : (w.setReg fn o v).deck = w.deck := rfl
@[simp] theorem W.setReg_tables : (w.setReg fn o v).tables = w.tables := rfl
@[simp] theorem W.setReg_vdt : (w.setReg fn o v).vdt = w.vdt := rfl
@[simp] theorem W.setReg_integ : (w.setReg fn o v).integ = w.integ := rfl
@[simp] theorem W.setReg_sec : (w.setReg fn o v).sec = w.sec := rfl
@[simp] theorem W.setReg_pwr : (w.setReg fn o v).pwr = w.pwr := rfl
@[simp] theorem W.setReg_fw : (w.setReg fn o v).fw = w.fw := rfl
@[simp] theorem W.setReg_obs : (w.setReg fn o v).obs = w.obs := rfl
@[simp] theorem W.setReg_free : (w.setReg fn o v).free = w.free := rfl
@[simp] theorem W.setReg_mem0 : (w.setReg fn o v).mem0 = w.mem0 := rfl
@[simp] theorem W.setReg_ops : (w.setReg fn o v).ops = w.ops := rfl
@[simp] theorem W.setReg_fuses : (w.setReg fn o v).fuses = w.fuses := rfl

end

/-! ### `W.putTile` -/

section
variable (w : W) (a : Nat) (t : Tile)

@[simp] theorem W.putTile_cmd : (w.putTile a t).cmd = w.cmd := rfl
@[simp] theorem W.putTile_span : (w.putTile a t).span = w.span := rfl
@[simp] theorem W.putTile_hbm : (w.putTile a t).hbm = w.hbm := rfl
@[simp] theorem W.putTile_core : (w.putTile a t).core = w.core := rfl
@[simp] theorem W.putTile_step : (w.putTile a t).step = w.step := rfl
@[simp] theorem W.putTile_deck : (w.putTile a t).deck = w.deck := rfl
@[simp] theorem W.putTile_tables : (w.putTile a t).tables = w.tables := rfl
@[simp] theorem W.putTile_vdt : (w.putTile a t).vdt = w.vdt := rfl
@[simp] theorem W.putTile_integ : (w.putTile a t).integ = w.integ := rfl
@[simp] theorem W.putTile_sec : (w.putTile a t).sec = w.sec := rfl
@[simp] theorem W.putTile_pwr : (w.putTile a t).pwr = w.pwr := rfl
@[simp] theorem W.putTile_fw : (w.putTile a t).fw = w.fw := rfl
@[simp] theorem W.putTile_obs : (w.putTile a t).obs = w.obs := rfl
@[simp] theorem W.putTile_regs : (w.putTile a t).regs = w.regs := rfl
@[simp] theorem W.putTile_free : (w.putTile a t).free = w.free := rfl
@[simp] theorem W.putTile_mem0 : (w.putTile a t).mem0 = w.mem0 := rfl
@[simp] theorem W.putTile_fuses : (w.putTile a t).fuses = w.fuses := rfl

end

/-! ### The rest of the working copy -/

@[simp] theorem W.fresh_fst (w : W) : w.fresh.1 = w.cmd.nextId := rfl
@[simp] theorem W.if_true (w : W) (f : W → W) : w.if true f = f w := rfl
@[simp] theorem W.if_false (w : W) (f : W → W) : w.if false f = w := rfl
@[simp] theorem W.with_none {α : Type} (w : W) (f : α → W → W) : w.with none f = w := rfl
@[simp] theorem W.with_some {α : Type} (w : W) (a : α) (f : α → W → W) : w.with (some a) f = f a w := rfl
@[simp] theorem W.each_nil {α : Type} (w : W) (f : α → W → W) : w.each [] f = w := rfl
@[simp] theorem W.each_cons {α : Type} (w : W) (a : α) (l : List α) (f : α → W → W) : w.each (a :: l) f = (f a w).each l f := rfl
@[simp] theorem State.work_mem0 (s : State) : s.work.mem0 = s.mem := rfl
@[simp] theorem State.work_ops (s : State) : s.work.ops = [] := rfl
@[simp] theorem State.work_fuses (s : State) : s.work.fuses = s.fuses := rfl
@[simp] theorem State.work_toDev (s : State) : s.work.toDev = s.dev := rfl
@[simp] theorem State.take_dev (s : State) (w : W) : (s.take w).dev = w.toDev := rfl
@[simp] theorem State.take_pending (s : State) (w : W) : (s.take w).pending = s.pending := rfl

/-- What every change of one element keeps, the changes of a whole list keep. -/
theorem W.each_ind {α : Type} (P : W → Prop) (f : α → W → W) (l : List α) (w : W) (h : P w) (hf : ∀ a ∈ l, ∀ w, P w → P (f a w)) :
    P (w.each l f) := by
  induction l generalizing w with
  | nil => exact h
  | cons a l ih => exact ih _ (hf a (List.mem_cons_self ..) w h) fun b hb => hf b (List.mem_cons_of_mem _ hb)

/-- What every change of one element leaves, the changes of a whole list leave. -/
theorem W.each_same {α β : Type} (g : W → β) (f : α → W → W) (l : List α) (w : W) (hf : ∀ a w, g (f a w) = g w) :
    g (w.each l f) = g w := W.each_ind (fun x => g x = g w) f l w rfl fun a _ x h => (hf a x).trans h

end Sys2Proof.Machine
end

