-- ==== Sys2Proof/Laws/Ops.lean ====
section
/-! SUPPORT. Laws of the shared operations of the command interface: what a reply, an interrupt, an event and the intake of a
packet can do, said once. -/

namespace Sys2Proof.Machine

open Sys2Proof

/-- `w'` differs from `w` in the command interface at most, and what went out before `w` is still there. -/
def W.OnlyCmd (w w' : W) : Prop :=
  (∃ c, w' = { w with toDev := { w.toDev with cmd := c } }) ∧ ∃ l, w'.cmd.outbox = l ++ w.cmd.outbox

/-- `w'` differs from `w` in the command interface, the event record and the count of free values at most, and what went out before
`w` is still there. -/
def W.OnlyEvents (w w' : W) : Prop :=
  (∃ c o k, w' = { w with toDev := { w.toDev with cmd := c, obs := o, free := k } }) ∧ ∃ l, w'.cmd.outbox = l ++ w.cmd.outbox

theorem W.OnlyCmd.refl (w : W) : w.OnlyCmd w := ⟨⟨w.cmd, rfl⟩, [], rfl⟩

theorem W.OnlyCmd.trans {a b c : W} (h : a.OnlyCmd b) (k : b.OnlyCmd c) : a.OnlyCmd c := by
  obtain ⟨⟨_, rfl⟩, l, hl⟩ := h
  obtain ⟨⟨_, rfl⟩, m, hm⟩ := k
  exact ⟨⟨_, rfl⟩, m ++ l, by rw [hm, hl, List.append_assoc]⟩

theorem W.OnlyCmd.events {a b : W} (h : a.OnlyCmd b) : a.OnlyEvents b := by
  obtain ⟨⟨c, rfl⟩, l, hl⟩ := h
  exact ⟨⟨c, a.obs, a.free, rfl⟩, l, hl⟩

theorem W.OnlyEvents.refl (w : W) : w.OnlyEvents w := (W.OnlyCmd.refl w).events

theorem W.OnlyEvents.trans {a b c : W} (h : a.OnlyEvents b) (k : b.OnlyEvents c) : a.OnlyEvents c := by
  obtain ⟨⟨_, _, _, rfl⟩, l, hl⟩ := h
  obtain ⟨⟨_, _, _, rfl⟩, m, hm⟩ := k
  exact ⟨⟨_, _, _, rfl⟩, m ++ l, by rw [hm, hl, List.append_assoc]⟩

/-- What follows for the other parts of the working copy. -/
theorem W.OnlyCmd.parts {a b : W} (h : a.OnlyCmd b) :
    b.span = a.span ∧ b.hbm = a.hbm ∧ b.core = a.core ∧ b.step = a.step ∧ b.deck = a.deck ∧ b.tables = a.tables ∧ b.vdt = a.vdt
      ∧ b.integ = a.integ ∧ b.sec = a.sec ∧ b.pwr = a.pwr ∧ b.fw = a.fw ∧ b.obs = a.obs ∧ b.regs = a.regs ∧ b.free = a.free
      ∧ b.mem0 = a.mem0 ∧ b.ops = a.ops ∧ b.fuses = a.fuses := by
  obtain ⟨⟨_, rfl⟩, -⟩ := h
  simp

/-- The same for an event. -/
theorem W.OnlyEvents.parts {a b : W} (h : a.OnlyEvents b) :
    b.span = a.span ∧ b.hbm = a.hbm ∧ b.core = a.core ∧ b.step = a.step ∧ b.deck = a.deck ∧ b.tables = a.tables ∧ b.vdt = a.vdt
      ∧ b.integ = a.integ ∧ b.sec = a.sec ∧ b.pwr = a.pwr ∧ b.fw = a.fw ∧ b.regs = a.regs
      ∧ b.mem0 = a.mem0 ∧ b.ops = a.ops ∧ b.fuses = a.fuses := by
  obtain ⟨⟨_, _, _, rfl⟩, -⟩ := h
  simp

/-- Changes of a list that each concern the command interface alone. -/
theorem W.each_onlyCmd {α : Type} (l : List α) (f : α → W → W) (w : W) (h : ∀ a w, W.OnlyCmd w (f a w)) : W.OnlyCmd w (w.each l f) :=
  W.each_ind (fun x => W.OnlyCmd w x) f l w (.refl w) fun a _ x hx => hx.trans (h a x)

/-- Changes of a list that each concern the command interface and events alone. -/
theorem W.each_onlyEvents {α : Type} (l : List α) (f : α → W → W) (w : W) (h : ∀ a w, W.OnlyEvents w (f a w)) :
    W.OnlyEvents w (w.each l f) :=
  W.each_ind (fun x => W.OnlyEvents w x) f l w (.refl w) fun a _ x hx => hx.trans (h a x)

/-! ### Interrupts and replies -/

theorem W.emit_only (w : W) (o : Out) : w.OnlyCmd (w.emit o) := ⟨⟨_, rfl⟩, [o], rfl⟩
theorem W.modRing_only (w : W) (fn r : Nat) (f : Ring → Ring) : w.OnlyCmd (w.modRing fn r f) := ⟨⟨_, rfl⟩, [], rfl⟩
theorem W.modMbox_only (w : W) (fn k : Nat) (f : Mbox → Mbox) : w.OnlyCmd (w.modMbox fn k f) := ⟨⟨_, rfl⟩, [], rfl⟩
theorem W.modPar_only (w : W) (fn : Nat) (f : Par → Par) : w.OnlyCmd (w.modPar fn f) := ⟨⟨_, rfl⟩, [], rfl⟩

theorem W.signal_only (w : W) (fn v : Nat) : w.OnlyCmd (w.signal fn v) := by
  unfold W.signal
  split
  · exact .refl w
  · split
    · exact ⟨⟨_, rfl⟩, [], rfl⟩
    · exact w.emit_only _

theorem W.signalRing_only (w : W) (fn r : Nat) : w.OnlyCmd (w.signalRing fn r) := (w.modRing_only fn r _).trans (W.signal_only ..)

theorem W.writeReply_only (w : W) (fn r : Nat) (now : Bool) (x : Reply) : w.OnlyCmd (w.writeReply fn r now x) := by
  unfold W.writeReply
  dsimp only
  split
  · exact ((w.emit_only _).trans (W.modRing_only ..)).trans (W.signalRing_only ..)
  · exact (w.emit_only _).trans (W.modRing_only ..)

theorem W.reply_only (w : W) (fn r : Nat) (now : Bool) (x : Reply) (f : Option Nat) : w.OnlyCmd (w.reply fn r now x f) := by
  unfold W.reply
  dsimp only
  split
  · exact .refl w
  · split
    · exact w.modRing_only ..
    · exact w.writeReply_only ..

theorem W.answer_only (w : W) (c : Cmd) (st : Status) (d : Detail) (r0 r1 : Nat) : w.OnlyCmd (w.answer c st d r0 r1) := w.reply_only ..

theorem W.accepted_only (w : W) (c : Cmd) : w.OnlyCmd (w.accepted c) := w.reply_only ..

theorem W.begin_only (w : W) (c : Cmd) : w.OnlyCmd (w.begin c) := ⟨⟨_, rfl⟩, [], rfl⟩

theorem W.beginHeld_only (w : W) (c : Cmd) : w.OnlyCmd (w.beginHeld c) := ⟨⟨_, rfl⟩, [], rfl⟩

theorem W.finish_only (w : W) (i : Nat) (st : Status) (d : Detail) (r0 r1 : Nat) : w.OnlyCmd (w.finish i st d r0 r1) := by
  unfold W.finish
  split
  · exact .refl w
  · refine W.OnlyCmd.trans ?_ (W.answer_only ..)
    exact ⟨⟨_, rfl⟩, [], rfl⟩

theorem W.finishAll_only (w : W) (l : List Nat) (st : Status) : w.OnlyCmd (w.finishAll l st) :=
  W.each_onlyCmd l _ w fun _ w => w.finish_only ..

theorem W.releaseHeld_only (k : Nat) (w : W) (fn r : Nat) : w.OnlyCmd (W.releaseHeld k w fn r) := by
  induction k generalizing w with
  | zero => exact .refl w
  | succ k ih =>
    unfold W.releaseHeld
    split
    · exact .refl w
    · split
      · exact ((w.modRing_only ..).trans (W.writeReply_only ..)).trans (ih _)
      · exact .refl w

theorem W.parReply_only (w : W) (fn : Nat) (x : Reply) : w.OnlyCmd (w.parReply fn x) := by
  unfold W.parReply
  dsimp only
  split
  · exact .refl w
  · exact ((w.emit_only _).trans (W.modPar_only ..)).trans (W.signal_only ..)

theorem W.parFinish_only (w : W) (i : Nat) (st : Status) (d : Detail) : w.OnlyCmd (w.parFinish i st d) := by
  unfold W.parFinish
  split
  · exact .refl w
  · refine W.OnlyCmd.trans ?_ (W.parReply_only ..)
    exact ⟨⟨_, rfl⟩, [], rfl⟩

/-! ### Which commands are in progress -/

@[simp] theorem W.signal_cmds (w : W) (fn v : Nat) : (w.signal fn v).cmd.cmds = w.cmd.cmds := by
  unfold W.signal
  split
  · rfl
  · split <;> rfl

@[simp] theorem W.signalRing_cmds (w : W) (fn r : Nat) : (w.signalRing fn r).cmd.cmds = w.cmd.cmds := by simp [W.signalRing]

@[simp] theorem W.writeReply_cmds (w : W) (fn r : Nat) (now : Bool) (x : Reply) : (w.writeReply fn r now x).cmd.cmds = w.cmd.cmds := by
  unfold W.writeReply
  dsimp only
  split <;> simp

@[simp] theorem W.reply_cmds (w : W) (fn r : Nat) (now : Bool) (x : Reply) (f : Option Nat) : (w.reply fn r now x f).cmd.cmds = w.cmd.cmds := by
  unfold W.reply
  dsimp only
  split
  · rfl
  · split <;> simp

@[simp] theorem W.answer_cmds (w : W) (c : Cmd) (st : Status) (d : Detail) (r0 r1 : Nat) :
    (w.answer c st d r0 r1).cmd.cmds = w.cmd.cmds := w.reply_cmds ..

/-- After its final reply a command is in progress no more; the others stay. -/
theorem W.finish_cmds (w : W) (i : Nat) (st : Status) (d : Detail) (r0 r1 : Nat) :
    (w.finish i st d r0 r1).cmd.cmds = w.cmd.cmds.filter fun c => c.id != i := by
  unfold W.finish
  split
  · next h =>
    rw [List.find?_eq_none] at h
    exact (List.filter_eq_self.2 fun c hc => by simpa using h c hc).symm
  · simp

/-! ### Event records -/

theorem W.notice_only (w : W) (fn : Nat) : w.OnlyCmd (w.notice fn) := by
  unfold W.notice
  dsimp only
  split
  · exact w.signal_only ..
  · exact .refl w

theorem W.notices_only (w : W) (n : Nat) (b : Bool) : w.OnlyCmd (w.notices n b) := by
  unfold W.notices
  split
  · exact W.each_onlyCmd _ _ w fun fn w => w.notice_only fn
  · split
    · exact w.notice_only 0
    · exact (w.notice_only n).trans (W.notice_only _ 0)

theorem W.record_only (w : W) (ty : EvTy) (fl : Bool) (n : Nat) (b : Bool) (u : Nat) (p : Option (List Byte)) (x : Subject) :
    w.OnlyEvents (w.record ty fl n b u p x) := by
  unfold W.record
  dsimp only
  split <;> exact ⟨⟨_, _, _, rfl⟩, [], rfl⟩

theorem W.snapshot_only (w : W) (q : Nat) (fl : Bool) (n : Nat) (b : Bool) : w.OnlyEvents (w.snapshot q fl n b) :=
  (w.record_only ..).trans (W.record_only ..)

/-- An event concerns the event record, and the interrupts that tell of it. -/
theorem W.event_only (w : W) (ty : EvTy) (n : Nat) (b : Bool) (u : Nat) (p : Option (List Byte)) (x : Subject) :
    w.OnlyEvents (w.event ty n b u p x) := by
  unfold W.event
  dsimp only
  split
  · exact ((w.record_only ..).trans (W.snapshot_only ..)).trans (W.notices_only ..).events
  · exact (w.record_only ..).trans (W.notices_only ..).events

theorem W.health_only (w : W) (n u : Nat) (x : Subject) : w.OnlyEvents (w.health n u x) := w.event_only ..
theorem W.healthAll_only (w : W) (u : Nat) (x : Subject) : w.OnlyEvents (w.healthAll u x) := w.event_only ..
theorem W.judged_only (w : W) (u : Nat) (c : BktClass) (i : Nat) (k : BktEvent) : w.OnlyEvents (w.judged u c i k) := w.event_only ..

/-! ### Intake of a packet -/

/-- A ring that is changed reads as changed. -/
theorem W.ring_modRing_self (w : W) (fn r : Nat) (f : Ring → Ring) : (w.modRing fn r f).ring fn r = f (w.ring fn r) :=
  Sparse.get_modify_self ..

/-- What reading a packet has done when its command starts. -/
theorem W.taken_only (w : W) (p : Pkt) : w.OnlyCmd (w.taken p) := ⟨⟨_, rfl⟩, [], rfl⟩

/-- The ring that a packet came on, when its command starts: its head and its expected sequence have moved on. -/
theorem W.taken_ring (w : W) (p : Pkt) : (w.taken p).ring p.fn p.ring =
    { w.ring p.fn p.ring with sqHead := ((w.ring p.fn p.ring).sqHead + 1) % w.entries p.fn p.ring,
                              nextSeq := ((w.ring p.fn p.ring).nextSeq + 1) % 2 ^ 24 } := by
  have e (v : W) : (v.seqTaken p.fn p.ring).ring p.fn p.ring =
      { v.ring p.fn p.ring with nextSeq := ((v.ring p.fn p.ring).nextSeq + 1) % 2 ^ 24 } :=
    v.ring_modRing_self p.fn p.ring fun g => { g with nextSeq := (g.nextSeq + 1) % 2 ^ 24 }
  rw [W.taken, e, W.headRead, W.ring_modRing_self]

/-- The intake of a packet, in its four outcomes (R254, R259, R266): not read, refused on being read, turned away, started. -/
theorem W.intake_cases (w : W) (o : OpInfo) (p : Pkt) (body : Cmd → W → W) :
    (w.canRead p.fn p.ring = false ∧ w.intake o p body = w)
      ∨ (w.canRead p.fn p.ring = true ∧ ∃ st d, w.badPacket o p = some (st, d)
          ∧ w.intake o p body = (w.headRead p.fn p.ring).bounce p st d)
      ∨ (w.canRead p.fn p.ring = true ∧ w.badPacket o p = none ∧ ∃ st, w.turnedAway o p = some st
          ∧ w.intake o p body = (w.taken p).answer (w.cmdOf o p) st)
      ∨ (w.canRead p.fn p.ring = true ∧ w.badPacket o p = none ∧ w.turnedAway o p = none
          ∧ w.intake o p body = body (w.cmdOf o p) (w.taken p)) := by
  unfold W.intake
  cases hr : w.canRead p.fn p.ring
  · exact .inl ⟨rfl, rfl⟩
  · cases hb : w.badPacket o p with
    | some x => exact .inr (.inl ⟨rfl, x.1, x.2, rfl, rfl⟩)
    | none =>
      cases ht : w.turnedAway o p with
      | some st => exact .inr (.inr (.inl ⟨rfl, rfl, st, rfl, rfl⟩))
      | none => exact .inr (.inr (.inr ⟨rfl, rfl, rfl, rfl⟩))

/-- A packet that the BN2 does not read changes nothing. -/
theorem W.intake_unread (w : W) (o : OpInfo) (p : Pkt) (body : Cmd → W → W) (h : w.canRead p.fn p.ring = false) :
    w.intake o p body = w := by simp [W.intake, h]

/-- A packet whose body concerns the command interface alone does so whole. -/
theorem W.intake_only (w : W) (o : OpInfo) (p : Pkt) (body : Cmd → W → W) (h : ∀ c w, W.OnlyCmd w (body c w)) :
    w.OnlyCmd (w.intake o p body) := by
  rcases w.intake_cases o p body with ⟨-, e⟩ | ⟨-, _, _, -, e⟩ | ⟨-, -, _, -, e⟩ | ⟨-, -, -, e⟩ <;> rw [e]
  · exact .refl w
  · exact (w.modRing_only ..).trans (W.reply_only ..)
  · exact (w.taken_only p).trans (W.answer_only ..)
  · exact (w.taken_only p).trans (h _ _)

end Sys2Proof.Machine
end

