-- ==== Sys2Proof/Laws/Records.lean ====
section
/-! SUPPORT. Laws of the records of a save and of a drained log: when their check values hold. -/

namespace Sys2Proof.Machine

/-- The bytes under HCRC do not depend on HCRC. -/
theorem RecHead.close_bytes (h : RecHead) (d : Nat) : (h.close d).bytes = ({ h with dcrc := d } : RecHead).bytes := rfl

/-- HCRC of a closed header holds. -/
theorem RecHead.close_hcrc (h : RecHead) (d : Nat) : (h.close d).hcrc = crc32c (h.close d).bytes := rfl

/-- What a record carries does not depend on its check values. -/
theorem SaveRec.close_dataCrc (q : SaveRec) : q.close.dataCrc = q.dataCrc := rfl

/-- A closed record's check values hold. -/
theorem SaveRec.close_holds (q : SaveRec) : q.close.holds = true := by
  have h : q.close.hcrc = crc32c q.close.bytes := rfl
  have d : q.close.dcrc = q.dataCrc := rfl
  rw [SaveRec.holds, SaveRec.close_dataCrc, h, d]
  simp

end Sys2Proof.Machine
end

