-- ==== Sys2Proof/Laws/Step.lean ====
section
/-! SUPPORT. Laws of the step: every command leaves the state that a working copy of it takes, and what follows from that. -/

namespace Sys2Proof.Machine

open Sys2Proof

/-- What a command can do at all: it leaves a working copy of the state. -/
theorem exec_take (c : Instr) (s : State) : ∃ w, exec c s = .next (s.take w) := by cases c <;> exact ⟨_, rfl⟩

/-- An effect that concerns the command interface alone leaves every other part. -/
theorem State.act_onlyCmd (s : State) (f : W → W) (h : s.work.OnlyCmd (f s.work)) (q : Part) (hq : q ≠ .cmd) :
    q.same s (s.take (f s.work)) := by
  obtain ⟨h1, h2, h3, h4, h5, h6, h7, h8, h9, h10, h11, h12, h13, -, -, h16, h17⟩ := h.parts
  cases q <;> first
    | exact absurd rfl hq
    | (simp only [Part.same, State.take_dev]; assumption)
    | skip
  · intro a
    show Sparse.get memBlank ((f s.work).ops.foldr MemOp.run s.mem) a = _
    rw [h16]; rfl
  · show max s.fuses (min 63 (f s.work).fuses) = s.fuses
    rw [h17, State.work_fuses]; omega

/-- A command starts: the packet is read, good and not turned away. -/
theorem State.starts_iff (s : State) (o : OpInfo) (p : Pkt) :
    s.starts o p = true ↔ s.work.canRead p.fn p.ring = true ∧ s.work.badPacket o p = none ∧ s.work.turnedAway o p = none := by
  simp [State.starts, Option.isNone_iff_eq_none, and_assoc]

/-- A command that starts runs its body on the packet taken. -/
theorem State.starts_intake (s : State) (o : OpInfo) (p : Pkt) (body : Cmd → W → W) (h : s.starts o p = true) :
    s.work.intake o p body = body (s.work.cmdOf o p) (s.work.taken p) := by
  obtain ⟨h1, h2, h3⟩ := (s.starts_iff o p).1 h
  simp [W.intake, h1, h2, h3]

end Sys2Proof.Machine
end

