-- ==== Sys2Proof/Laws/Tile.lean ====
section
/-! SUPPORT. Laws of tiles: a form of the CRC that the kernel evaluates byte by byte. -/

namespace Sys2Proof.Machine

/-- `crcFold`, with the register brought to a numeral after each byte. -/
def crcEager : List Byte → Nat → Nat
  | [], c => c
  | b :: bs, c => match crcBits 8 (c ^^^ b.toNat) with
    | 0 => crcEager bs 0
    | n + 1 => crcEager bs (n + 1)

theorem crcFold_eager (l : List Byte) : ∀ c, crcFold l c = crcEager l c := by
  induction l with
  | nil => exact fun _ => rfl
  | cons b bs ih =>
    intro c
    have e (x : Nat) : crcFold bs x = match x with | 0 => crcEager bs 0 | n + 1 => crcEager bs (n + 1) := by cases x <;> exact ih _
    exact e _

/-- The CRC does not cover the keystone itself (R38). -/
theorem Tile.crc_congr (a b : Tile) (ha : a ≠ []) (hb : b ≠ []) (h : a.slice 0 4096 = b.slice 0 4096) (k : a.slice 4100 252 = b.slice 4100 252) :
    a.crc = b.crc := by rw [Tile.crc, Tile.crc, if_neg ha, if_neg hb, h, k]

end Sys2Proof.Machine
end

