-- ==== Sys2Proof/WellFormed.lean ====
section
/-! DEFINITION. When a command's operands are ones that the block can be given: numbers within the ranges of the rules,
packets and mailbox packets of their fixed length, tiles in canonical form. `exec` is total on ill-formed ones too. -/

namespace Sys2Proof

open Machine

/-- A function number (R282). -/
def wfFn (n : Nat) : Bool := decide (n < 64)
/-- A ring of a function (R252). -/
def wfRing (fn r : Nat) : Bool := decide (fn < 64) && decide (r < 16)
/-- A deck slot of a span (R202, R284). -/
def wfSlot (n k : Nat) : Bool := decide (n < 64) && decide (k < 16)
/-- An embedding table of a span (R180). -/
def wfTable (n id : Nat) : Bool := decide (n < 64) && decide (id < 1024)
/-- A logical core (R11). -/
def wfCore (l : Nat) : Bool := decide (l < 128)
/-- A physical core (R11). -/
def wfPhys (c : Nat) : Bool := decide (c < 144)
/-- A cluster (R11, R239). -/
def wfCluster (c : Nat) : Bool := decide (c < 16)
/-- A compute die (R10). -/
def wfDie (d : Nat) : Bool := decide (d < 4)
/-- A channel (R64). -/
def wfChan (c : Nat) : Bool := decide (c < 256)
/-- A stack (R10). -/
def wfStack (k : Nat) : Bool := decide (k < 8)
/-- A page frame (R56). -/
def wfFrame (f : Nat) : Bool := decide (f < 196608)
/-- A Viaduct port (R305). -/
def wfPort (p : Nat) : Bool := decide (p < 9)
/-- A rank (R309). -/
def wfRank (r : Nat) : Bool := decide (r < 16384)
/-- A BAR0 offset of a register (R8). -/
def wfOff (o : Nat) : Bool := decide (o < 65536) && o % 4 == 0
/-- A tile in canonical form, within its 4,352 bytes (R34). -/
def wfTile (t : Tile) : Bool := Sparse.wf zeroTileByte t && t.all fun c => decide (c.1 < tileBytes)
/-- A packet (R257): bytes 12 to 63 follow the header. -/
def Machine.Pkt.wf (p : Pkt) : Bool := wfRing p.fn p.ring && p.body.length == 52
/-- A parapet packet (R271). -/
def Machine.MboxCmd.wf (m : MboxCmd) : Bool := wfFn m.fn && decide (m.slot < 4) && m.body.length == 52
/-- A Viaduct frame (R307). -/
def Machine.Frame.wf (f : Frame) : Bool :=
  wfRank f.srcRank && wfRank f.dstRank && wfFn f.srcSpan && wfFn f.dstSpan && decide (f.psn < 2 ^ 24)
/-- A frame as it comes in at a port. -/
def Machine.Arrival.wf (a : Arrival) : Bool := a.toFrame.wf && wfPort a.port
/-- Trust anchors to enrol (R401): none is empty. -/
def wfAnchors (l : List (List Byte)) : Bool := l.all fun a => decide (0 < a.length)

/-- Are a command's operands in range? -/
def Instr.wf : Instr → Bool
  | .nop p | .fence p | .query p | .spanCreate p | .spanResize p | .spanFreeze p | .spanThaw p | .spanSave p
  | .spanRestore p | .spanDestroy p | .spanQos p | .map p | .unmap p | .prefetchPlan p | .pin p | .migrate p
  | .deckLoad p | .deckSwitch p | .deckRetire p | .adapterLoad p | .adapterEvict p | .adapterContract p
  | .programLoad p | .programUnload p | .stepSubmit p | .stepCancel p | .tableCreate p | .hotsetRefresh p
  | .rowMigrate p | .securePolicy p | .secureNow p | .restore p | .rankAdopt p | .reshard p | .loadtestPack p
  | .loadtestRun p | .katRun p | .healthQuery p | .keyInstall p | .keyRevoke p | .attest p | .fwStage p
  | .fwActivate p | .unknownOpcodePacket p _ => p.wf
  | .haltSpan m | .haltSpanResume m | .abortStep m | .stopTraffic m | .stopTrafficResume m | .resetSpan m => m.wf
  | .fenceComplete fn r | .sqTail fn r _ | .cqHead fn r _ | .ringEnable fn r _ | .ringDisable fn r
  | .ringDisabled fn r | .intModTimer fn r | .runAheadStage fn r | .stepAdmit fn r => wfRing fn r
  | .functionLevelReset fn | .spanResetDrainEnd fn | .freezeComplete fn | .cntFmtCtlWrite fn _ | .trcEvSel fn _
  | .eventRecordLatched fn | .trcEvClearRing fn | .trcEvClearFlash fn | .traceEnable fn _ | .traceDisable fn
  | .rankTableCommit fn _ | .standbyRequest fn _ | .secureCapture fn _ | .secureSeal fn | .drainWrite fn _
  | .spanSaveDone fn | .spanRestoreDone fn _ | .graceExpiry fn _ | .pageMigrationFlip fn _ | .oldHomeRelease fn _
  | .migrationSampleWindow _ fn _ | .restoreDone fn _ _ => wfFn fn
  | .vfRemove n _ | .vfEnable n _ => wfFn n
  | .cntLoRead fn off | .registerWrite fn off _ => wfFn fn && wfOff off
  | .bar4Read fn _ len => wfFn fn && decide (len ≤ 4096)
  | .bar4Write fn _ data => wfFn fn && decide (data.length ≤ 4096)
  | .mailboxWrite fn slot off data => wfFn fn && decide (slot < 4) && decide (off + data.length ≤ 64)
  | .msixVectorUnmask fn v => wfFn fn && decide (v < 64)
  | .deckSwitchEffect n k | .generationRelease n k => wfSlot n k
  | .rowMigrateCopy n t | .rowMigrateRelease n t | .epochClose n t | .epochApplyDone n t | .lookupServe n t _
  | .embBarrierTimeout n t => wfTable n t
  | .deckLoadComplete _ x | .adapterLoadComplete _ x | .adapterReloadDone _ x => x.tiles.all wfTile
  | .deckTileRefetchDone _ _ d => (d.map fun x => wfTile x.1).getD true
  | .tileFetchComplete l _ _ _ => wfCore l
  | .coreRetire c | .coreMove c | .quarantineTest c | .scratchpadParityError c _ _ _ | .controlParityError c => wfPhys c
  | .clusterSleep c | .clusterWakeDone c | .pllLockLoss c _ | .droopDetect c => wfCluster c
  | .dieSleep d | .dieResetDone d | .sharedStateError d _ => wfDie d
  | .patrolScrub c _ _ _ | .hbmRetrain c _ _ => wfChan c
  | .stackTrainDone k _ => wfStack k
  | .pageScrubDone f => wfFrame f
  | .portJoin p | .portLinkLoss p _ => wfPort p
  | .ackTimer r _ => wfRank r
  | .keyZeroise k => decide (k < 4096)
  | .getReq f => f.frame.wf
  | .putFrame f | .getResp f | .rowRec f | .coll f | .parityDelta f _ | .ack f _ | .nack f _ | .close f
  | .void f | .accept f | .dirUpdate f | .redirect f | .flowReset f | .rankMoved f | .segmentReconstruct f _ => f.wf
  | .mgmtTraceConfig _ n _ _ _ => wfFn n
  | .mgmtCredentials _ as _ => wfAnchors as
  | .mgmtEnrolAnchor a => wfAnchors [a]
  | .unmapComplete _ | .adapterRemove _ | .fwActivateWindow | .fwSwitch | .fwActivateTimeout | .standbyEntry
  | .standbyExit | .thermalStandbyExit _ | .matmul _ _ | .adapter _ _ | .vector _ | .gatherGemv _ | .update _
  | .attnFwd _ _ | .attnBwd _ _ | .kvAppend _ | .embLookup _ | .embGrad _ | .put _ | .get _ | .rscat _ | .agath _
  | .descriptorComplete _ _ | .prefetch _ _ | .pierBarrierRelease _ _ _ | .stepDeadlockTimeout _
  | .taskPlaceDeferred _ _ | .computePhaseEnd _ | .stepCommit _ | .bucketLeak _ _ | .bucketLevelSave
  | .loadtestAuto _ _ | .cryptoSelfTest _ _ | .powerPhaseTrip _ _ | .railExcursion _ _
  | .powerGovernorTick _ _ _ _ _ | .thermalTrip | .thermalCooldown _ | .supplyValid _ | .auxLoss | .mainPowerFail
  | .overVoltageTrip | .mainReturn | .bootRomVerify | .diePowerUp | .trestleStart | .fullService | .perstAssert
  | .perstRelease | .pcieHotReset | .dataLinkDown | .retxTimer _ _ | .ccIncrease _ | .flowUnreachable _
  | .flowIdleClose _ | .portStatusUpdate _ | .healthRefresh _ | .eventFlush | .mgmtRead _ _
  | .mgmtDebugRead _ _ _ _ _ | .mgmtModuleReset _ | .mgmtLoadtestRun _ _ _ | .mgmtFwUpload _ _ | .mgmtFwActivate _
  | .mgmtSvnCommit _ | .mgmtCosignEnrol _ _ | .mgmtPartReturn _ _ _ | .mgmtPackUpload _ _ | .mgmtEventClear _ _ _
  | .mgmtDisableMctp _ _ | .mgmtDisableWindow _ _ | .getVersion _ _ | .getCapabilities _ _
  | .negotiateAlgorithms _ _ | .getDigests _ _ | .getCertificate _ _ | .challenge _ _ | .getMeasurements _ _ _
  | .holdUpExpiry | .pcieLinkUp | .fwStageDone | .loadtestRunDone _ _ | .adaptiveVoltageStep _ _ => true

end Sys2Proof
end

