-- ==== Sys2Proof/Tests/Slice0.lean ====
section
/-! SUPPORT. Tests: what the well-formedness check refuses, values that the manual states, and for every statement with hypotheses
a state and operands that meet them, clause by clause. -/

namespace Sys2Proof.Tests

set_option Elab.async false

open Sys2Proof Sys2Proof.Machine

/-! ### Small states and packets -/

/-- The PF's ring 0 enabled with 64 entries and one packet waiting, the module in full service. -/
def ready : State :=
  { State.reset with
    dev := { Dev.atReset with
      cmd := { Dev.atReset.cmd with rings := [(0, { en := true, sqTail := 1 })], nextId := 1 }
      regs := [(0x410, 6#32)]
      pwr := { Dev.atReset.pwr with phase := 6, trestle := false, mainOk := true, auxOk := true } } }

/-- `ready` with a change of its device. -/
def dev (f : Dev → Dev) : State := { ready with dev := f ready.dev }

/-- A change of the device that changes span `n`. -/
def spanIs (n : Nat) (f : Span → Span) (d : Dev) : Dev :=
  { d with span := { d.span with spans := Sparse.modify Span.atReset d.span.spans n f } }

/-- Bytes 12 to 63 of a packet with the given parameters: offset, length, value. -/
def args (l : List (Nat × Nat × Nat)) : List Byte :=
  l.foldl (fun b a => b.take (a.1 - 12) ++ leBytes a.2.1 a.2.2 ++ b.drop (a.1 - 12 + a.2.1)) (List.replicate 52 0#8)

/-- A packet on ring 0 of the PF. -/
def pk (l : List (Nat × Nat × Nat)) (flags : BitVec 16 := 0) (block : List Byte := []) : Pkt :=
  { fn := 0, ring := 0, flags := flags, span := 0, seq := 0, tag := 7, body := args l, block := block }

/-- A command in progress on ring 0 of the PF. -/
def cmdNo (i : Nat) : Cmd := { id := i, fn := 0, ring := 0, seq := 9, tag := 8, irq := false, op := 0 }

/-- A block of `n` bytes with the given fields. -/
def blk (n : Nat) (l : List (Nat × Nat × Nat)) : List Byte :=
  l.foldl (fun b a => b.take a.1 ++ leBytes a.2.1 a.2.2 ++ b.drop (a.1 + a.2.1)) (List.replicate n 0#8)

/-- A span record for a span with its last key slot, its last core and fields at their bounds. -/
def recFor (n : Nat) (keyBase : Nat := 4095) : List Byte :=
  blk 64 [(0, 1, n), (2, 2, keyBase), (4, 2, 1), (6, 1, 64), (7, 1, 80), (8, 4, 188416), (12, 2, 2880), (14, 1, 255), (15, 1, 1), (16, 1, 1),
    (17, 1, 1), (24, 8, 5), (32, 16, 2 ^ 127)]

/-- 63 virtual functions. -/
def vfs : Dev → Dev := fun d => { d with span := { d.span with numVfs := 63, vfEnable := true } }

/-- A page of the PF mapped to a frame. -/
def mapped (vp f : Nat) (d : Dev) : Dev :=
  { d with hbm := { d.hbm with pages := Sparse.put (fun _ => none) d.hbm.pages vp
                                          (some { frame := some f, writable := true, deck := false, gone := false })
                               frames := Sparse.put frameAtReset d.hbm.frames f .page } }

/-- All joined joined, and all frames of channel 1 free but for those of the pool. -/
def joined (d : Dev) : Dev :=
  { d with hbm := { d.hbm with stackSt := (List.range 8).map fun k => (k, .joined),
                               frames := [(0, .free), (768, .free)] } }

/-- The creation of span 63 waits for core 127. -/
def waits127 : Resize := { cmd := 0, create := true, cores := [(127, 63)], pages := none }

/-- The state with it. -/
def creating : State := dev (spanIs 63 (fun x => { x with mode := .active, resize := some waits127 }) ∘ vfs)

/-- The value of a computation that succeeds. -/
def okOf {ε α : Type} : (e : Except ε α) → e.toBool = true → α
  | .ok a, _ => a

theorem okOf_eq {ε α : Type} : (e : Except ε α) → (h : e.toBool = true) → e = .ok (okOf e h)
  | .ok _, _ => rfl

/-- A DECK page of the PF. -/
def deckPage (vp : Nat) (d : Dev) : Dev :=
  { d with hbm := { d.hbm with pages := Sparse.put (fun _ => none) d.hbm.pages vp
                                          (some { frame := none, writable := false, deck := true, gone := false }) } }

/-- Registers of the PF. -/
def withRegs (l : List (Nat × Word)) (d : Dev) : Dev := { d with regs := (0x410, 6#32) :: l }

/-- Commands in progress. -/
def withCmds (l : List Nat) (d : Dev) : Dev := { d with cmd := { d.cmd with cmds := l.map cmdNo, nextId := 100 } }

/-- A move of the page 0 of the PF. -/
def move (flipped : Bool) : PageMove := { span := 0, page := 0, old := 3, new := 768, flipped := flipped, evac := false }

/-- The page 0 of the PF in frame 3, and its move to frame 768. -/
def moving (flipped : Bool) (d : Dev) : Dev :=
  let d := mapped 0 3 d
  { d with hbm := { d.hbm with moves := [move flipped], frames := [(3, .page), (768, .page)] } }

/-- Deck slots of the PF. -/
def withSlots (l : List (Nat × DeckSlot)) (d : Dev) : Dev := { d with deck := { d.deck with slots := l } }

/-- An image of one tile, homed in frame 5. -/
def image0 : Image :=
  { id := 0, owner := 0, charge := 0, digest := 0, tiles := 1, frames := [5], shareable := false, preserve := false, norefetch := false,
    damaged := false, source := 0, key := 0, handle := 0, peer := 0, hostAddr := 0, refetched := [], bad := [], loading := false }

/-- That image. -/
def withImage (d : Dev) : Dev := { d with deck := { d.deck with images := [image0], nextImage := 1 } }

/-- Its load into slot 0. -/
def load0 : DeckLoad := { cmd := 0, span := 0, slot := 0, image := 0, switch := false, expect := none, block := 4096 }

/-- A state in which it is being loaded. -/
def loading0 : State :=
  dev ((fun d => { d with deck := { d.deck with loads := [load0] } }) ∘ withImage ∘ withSlots [(0, { load := some 0, window := some 0, pages := 1 })]
    ∘ withCmds [0])

/-- A tile-map entry. -/
def ent (addr : Nat) (state : SlotState := .clean) (pin : Pin := .none) (gen : Option Nat := none) : TileEnt :=
  { addr := addr, slot := 0, state := state, pin := pin, gen := gen, refs := 0, age := 0, prefetch := false, data := [] }

/-- A core that holds it. -/
def holding (l : Nat) (es : List TileEnt) (d : Dev) : Dev := { d with core := { d.core with cores := [(l, { tiles := es })] } }

/-- Steps that have been read. -/
def withSteps (l : List Step) (d : Dev) : Dev := { d with step := { d.step with steps := l } }

/-- A step as STEP_SUBMIT reads it, of the program with handle 0. -/
def step0 : Step := Step.ofPkt (pk []) (cmdNo 0)

/-- A task on a core with one context. -/
def task0 (core : Option Nat := some 0) (c : CtxState := .ready) : Task :=
  { idx := 0, core := core, ctxs := [{ next := 0, vlen := none, state := c, since := 0, captured := [] }], tokens := [0], ended := false, written := [] }

/-- A program image of one task with one empty stream and one empty layer. -/
def imageBytes : List Byte :=
  blk 112 [(0, 4, 0x32504E42), (4, 1, 1), (6, 2, 1), (8, 2, 1), (16, 4, 1), (20, 4, 1), (24, 2, 1), (32, 4, 112), (36, 4, 64), (40, 4, 88),
    (44, 4, 112), (64, 1, 1), (66, 2, 1), (68, 4, 80), (80, 4, 112), (88, 4, 1)]

/-- The program it holds. -/
def prog0 : Program :=
  { span := 0, handle := 0, image := imageBytes, kind := .fwd, pipelined := false, minCores := 1, slots := 0, deckMask := 0, pfDepth := 0,
    warmup := 0, maxSeq := 1, maxRows := 1, maxBag := 1, evalEvery := 0, evalRing := 0, piers := 0, tables := [],
    tasks := [{ contexts := 1, tokens := 1, layer0 := 0, streams := [[]] }], sched := [[]], unload := [] }

/-- Loaded. -/
def withProgram (p : Program) (d : Dev) : Dev := { d with step := { d.step with programs := [p] } }

/-- A tile that holds an adapter's site (on page 1, factors at the first two tiles of page 0) and, read as a parameter record of
attention, FP32 as FMT_DKV. -/
def recordTile : Tile := (Tile.setBytes [] 0 (blk 37 [(0, 6, 2097152), (16, 6, 4352), (36, 1, 2)])).setNum 4096 4 3777899083

theorem recordTile_ok : recordTile.keystoneOk = true := by
  rw [Tile.keystoneOk, Tile.crc, if_neg (by decide +kernel), crc32c, crcFold_eager]
  decide +kernel

/-- That site. -/
def site0 : Site := { wAddr := 2097152, k := 1, n := 1, addrA := 0, addrB := 4352 }

/-- A state with the deck page 1, the tile in page 2 and the factors in page 0. -/
def sites0 : State :=
  { dev (mapped 0 0 ∘ mapped 2 2 ∘ deckPage 1 ∘ withSlots [(0, { window := some 2097152, pages := 1 })]) with
    mem := recordTile.map fun c => (2 * 2097152 + c.1, c.2) }

theorem sites0_read : sites0.work.readSites 0 (2 * 2097152) 1 = .ok [site0] := by
  have h : (List.range (ceilDiv 1 128)).map (tileAfter (2 * 2097152)) = [2 * 2097152] := by decide +kernel
  have k : sites0.work.stored 0 (2 * 2097152) = some recordTile := by decide +kernel
  simp only [W.readSites, h, List.filterMap, k, List.any, recordTile_ok]
  decide +kernel

/-- Two tiles that differ in their keystones alone: one of them is damaged. -/
def twins : List Tile := [[(0, 1)], [(0, 1), (4096, 0)]]

theorem twins_bad : ∃ x ∈ twins, x.keystoneOk = false := by
  have f (o n : Nat) (h : o + n ≤ 4096 ∨ 4096 < o) : Tile.slice [(0, 1)] o n = Tile.slice [(0, 1), (4096, 0)] o n := by
    refine List.map_congr_left fun i hi => ?_
    have := List.mem_range.1 hi
    simp only [Tile.byte, Sparse.get]
    rw [if_neg (show ¬ 4096 = o + i by omega)]
  have e : (Tile.crc [(0, 1)]) = Tile.crc [(0, 1), (4096, 0)] :=
    Tile.crc_congr _ _ (by decide) (by decide) (f _ _ (by decide)) (f _ _ (by decide))
  by_contra h
  have g : ∀ x ∈ twins, x.keystone = x.crc := fun x hx => by simpa [Tile.keystoneOk] using (fun k => h ⟨x, hx, k⟩)
  have p := g [(0, 1)] (by decide)
  have q := g [(0, 1), (4096, 0)] (by decide)
  rw [← e, ← p] at q
  exact absurd q (by decide +kernel)

/-- The record of an adapter with that site. -/
def adapterBlock : List Byte := blk 128 [(64, 1, 3), (65, 1, 1), (66, 2, 4), (68, 2, 1), (88, 6, 2 * 2097152)]

/-- That adapter. -/
def adapter0 : Adapter :=
  { handle := 0, span := 0, deckDigest := 0, digest := deckDigest [[], []], fmt := 3, cls := 1, rank := 4, trainable := false, key := 0, keyed := 0,
    source := 1, peer := 0, hostAddr := 0, sites := [site0], loading := none, block := 0, lastBound := 0, valid := true, evict := [],
    evicting := false, force := false, boundary := [] }

/-- Adapters. -/
def withAdapters (l : List Adapter) (d : Dev) : Dev := { d with deck := { d.deck with adapters := l } }

/-- A request in grace. -/
def request0 : OpenReq :=
  { span := 0, reqId := 4294967295, handle := 0xFFFF, hold := false, binds := [], adapterDigest := 0, deckDigest := 0, grace := true }

/-- Key slot 0 holds a key. -/
def withKey (d : Dev) : Dev := { d with fw := { d.fw with keys := [(0, { state := .installed, key := 3 })] } }

/-! ### Descriptors at work -/

/-- A program of one task whose one stream holds these descriptors. -/
def progOf (ds : List (List Byte)) : Program := { prog0 with tasks := [{ contexts := 1, tokens := 1, layer0 := 0, streams := [ds] }] }

/-- A step of it in its compute phase, its task on core 0; pages 0 and 1 mapped. -/
def running (ds : List (List Byte)) : State :=
  dev (mapped 0 0 ∘ mapped 1 1 ∘ withProgram (progOf ds) ∘ withSteps [{ step0 with phase := .compute, tasks := [task0] }] ∘ withCmds [0])

/-- The same with the first 16 tiles of page 0 in core 0, zero tiles of FP32, and a tile on page 1. -/
def loaded (ds : List (List Byte)) : State :=
  { running ds with
    dev := holding 0 ({ ent 2097152 with data := recordTile } :: (List.range 16).map fun i => ent (4352 * i)) (running ds).dev }

/-- What the engine has at hand. -/
def eng (s : State) (k : Nat) (g : Engine) (h : (s.work.engStart ⟨0, 0, 0, []⟩ [k] g).isSome = true) : Eng := Option.get _ h

theorem eng_some {s : State} {k : Nat} {g : Engine} (h : (s.work.engStart ⟨0, 0, 0, []⟩ [k] g).isSome = true) :
    s.work.engStart ⟨0, 0, 0, []⟩ [k] g = some (eng s k g h) := (Option.some_get h).symm

theorem runs {ε σ : Type} (p : Except ε Unit × σ) (h : p.1.toBool = true) : p = (.ok (), p.2) := by
  obtain ⟨a, b⟩ := p
  cases a with
  | ok _ => rfl
  | error _ => cases h

/-- Where a computation that waits does. -/
def waitsAt {σ : Type} (p : Except Stop Unit × σ) : Option (Nat × Option Nat) :=
  match p.1 with
  | .error (.wait a i) => some (a, i)
  | _ => none

theorem waits {σ : Type} (p : Except Stop Unit × σ) (a : Nat) (i : Option Nat) (h : waitsAt p = some (a, i)) : p = (.error (.wait a i), p.2) := by
  obtain ⟨x, y⟩ := p
  cases x with
  | ok _ => cases h
  | error z =>
    cases z with
    | wait b j => cases h; rfl
    | fail _ _ => cases h

def matmulDesc : List Byte :=
  blk 64 [(0, 1, 0x10), (2, 1, 2), (3, 1, 2), (4, 1, 2), (24, 6, 4352), (32, 6, 2 * 4352), (48, 4, 0x3F800000)]
def adapterDesc : List Byte :=
  blk 64 [(0, 1, 0x11), (2, 1, 2), (3, 1, 2), (4, 1, 2), (24, 6, 4352), (32, 6, 2 * 4352), (48, 4, 0x3F800000), (58, 6, 3 * 4352)]
def vectorDesc : List Byte := blk 64 [(0, 1, 0x20), (1, 1, 0x80), (2, 1, 2), (5, 1, 2), (14, 2, 15), (34, 6, 4352), (52, 2, 15)]
def gemvDesc : List Byte :=
  blk 64 [(0, 1, 0x21), (2, 1, 2), (5, 1, 2), (34, 6, 2 * 4352), (46, 6, 3 * 4352), (60, 4, 0x3F800000)]
def updateDesc : List Byte :=
  blk 64 [(0, 1, 0x22), (1, 1, 0x80), (2, 1, 2), (3, 1, 2), (14, 2, 15), (22, 6, 4352), (40, 6, 2 * 4352), (46, 6, 3 * 4352)]
def attnDesc (op p : Nat) : List Byte :=
  blk 64 [(0, 1, op), (2, 1, 2), (3, 1, 2), (4, 1, 2), (22, 6, 4 * 4352), (28, 6, 8 * 4352), (34, 6, 9 * 4352), (40, 6, p)]
def appendDesc : List Byte := blk 64 [(0, 1, 0x32), (2, 1, 2), (3, 1, 3), (16, 6, 4 * 4352), (22, 6, 8 * 4352), (28, 6, 12 * 4352)]
def embDescOf (op : Nat) : List Byte := blk 64 [(0, 1, op), (2, 1, 2), (34, 6, 4352), (40, 4, 1)]
def moverDesc (op : Nat) : List Byte := blk 64 [(0, 1, op), (2, 1, 2), (4, 2, 1), (22, 6, 5 * 4352), (28, 4, 1), (32, 2, 1)]

/-- Descriptors at work on a context that has captured some tiles. -/
def capturing (ds : List (List Byte)) (l : List (Nat × Tile)) : State :=
  let t := { task0 with ctxs := [{ next := 0, vlen := none, state := .ready, since := 0, captured := l }] }
  { loaded ds with dev := withSteps [{ step0 with phase := .compute, tasks := [t] }] (loaded ds).dev }

/-- A state for attention's backward pass, its parameter record already captured. -/
def recorded : State := capturing [attnDesc 0x31 2097152] [(2097152, recordTile)]

def segmentsDesc : List Byte :=
  blk 64 [(0, 1, 0x11), (2, 1, 2), (3, 1, 2), (4, 1, 2), (14, 2, 1), (24, 6, 4352), (32, 6, 2 * 4352), (48, 4, 0x3F800000), (52, 6, 3 * 4352)]

/-- A state for ADAPTER, its table of one BASE_ONLY segment already captured. -/
def segmented : State := capturing [segmentsDesc] [(3 * 4352, Tile.setBytes [] 0 (blk 16 [(4, 4, 1), (10, 1, 1)]))]

/-- Attention with one shared list and the causal mask, visiting page 1. -/
def pagedDesc (op : Nat) : List Byte :=
  blk 64 [(0, 1, op), (2, 1, 2), (3, 1, 2), (4, 1, 2), (5, 1, 16), (9, 1, 1), (22, 6, 4 * 4352), (28, 6, 8 * 4352), (34, 6, 9 * 4352), (40, 6, 10 * 4352),
    (56, 2, 1), (58, 2, 1)]

/-- A page list of two pages, the second with its first token alone. -/
def listTile : Tile := Tile.setBytes [] 0 (blk 48 [(0, 8, 2), (32, 8, 2 ^ 54 + 2 * 2097152), (40, 8, 2 ^ 48 + 3 * 2097152)])

/-- Attention's operands: its page list and its parameter record, with dO and dQ in the first tiles and its gradient's list at the last. -/
def paged (op : Nat) : State :=
  capturing [pagedDesc op] [(8 * 4352, listTile), (15 * 4352, listTile), (10 * 4352, Tile.setBytes [] 0 (blk 40 [(30, 6, 15 * 4352), (36, 1, 2)]))]

/-- A table whose rows lie on two modules. -/
def table0 : Table :=
  { id := 0, dim := 16, opt := 0, range := false, idBits := 4, determ := false, stale := 0, seed := 0, coalEntries := 16, addrRows := 0,
    group := 2, addrMap := 0, mapEntries := 2, addrCoal := 0, localRows := 16, addrDir := 0, dirLog2 := 0, addrUpd := 0, ticket := 0,
    applied := 0, applying := none, closes := [], closing := [], voids := [], voidBy := [], overflow := [], records := [], snaps := [],
    dir := [], held := [], stalled := false, moves := [], hot := [], fold := none, lastA := .zero false, lastSat := false }

/-- Table 0 of the PF. -/
def withTable (t : Table) (s : State) : State := { s with dev := { s.dev with tables := [(0, some t)] } }

/-- The module has rank 0. -/
def withRank (s : State) : State := { s with dev := { s.dev with regs := (0x7000, 0#32) :: s.dev.regs } }

/-- A descriptor in flight that writes a zero tile. -/
def flight0 : InFlight :=
  { step := 0, task := 0, ctx := 0, dseq := 0, core := 0, engine := .vector, sig := none, writes := [(4352, [])], parts := [], counts := {},
    cnts := [], lr := [], fail := none, remote := 0, refs := [], gets := [], coll := none, look := none }


/-! ### Tables and Viaduct -/

/-- A table of one rank, with the last table number, a directory, and local rows from tile 0 on. -/
def table1 : Table := { table0 with id := 1023, group := 1, dirLog2 := 20, determ := true, coalEntries := 1 }

/-- Table 1023 of the PF. -/
def tabled (t : Table) (d : Dev) : Dev := { d with tables := [(1023, some t)] }

/-- A row on the move to the last local index. -/
def moving1 : DirEnt := { row := 0, state := .moving, oldLocal := 0, oldRank := 0, newLocal := 15, newRank := 0 }

/-- A move of rows. -/
def rowMove (rows : List DirEnt) : RowMove := { cmd := 0, rows := rows, epoch := 1, copied := false, acked := false, flipped := false }

/-- A record of 16 elements, all zero, with its checks. -/
def record0 : List Byte := List.replicate 72 0#8 ++ leBytes 4 534929355 ++ leBytes 4 0

/-- A state that holds it as local row 0, its row on the move. -/
def rows0 : State :=
  { dev (tabled { table1 with moves := [rowMove [moving1]] } ∘ mapped 0 0) with
    mem := (Tile.setBytes [] 0 record0).map fun c => (c.1, c.2) }

theorem rows0_ok : ∀ e ∈ (rowMove [moving1]).rows,
    ∃ y, rows0.work.readRow 0 { table1 with moves := [rowMove [moving1]] } e.oldLocal = some (y, false) ∧
      Table.checksOk { table1 with moves := [rowMove [moving1]] } y = true := by
  intro e he
  rw [List.mem_singleton.1 he]
  refine ⟨record0, by decide +kernel, ?_⟩
  rw [Table.checksOk, crc32c, crcFold_eager]
  decide +kernel

/-- Rank 0, one port up, span 0 in group 5. -/
def fabric (d : Dev) : Dev :=
  { d with regs := [(0x410, 6#32), (0x7000, 0#32), (0x7100, 5#32)], vdt := { d.vdt with ranks := [(16383, 1#128)], ports := [(0, { state := .up })] } }

/-- A frame from rank 16,383 to span 0, the first of its flow, as it comes in at port 0. -/
def frame (ty arg : Nat) (payload : List Byte := []) : Arrival :=
  { port := 0, ce := false, check := .good, ty := ty, ctrl := decide (0x80 ≤ ty), ackreq := false, enc := false, srcRank := 16383, dstRank := 0, srcSpan := 0, dstSpan := 0, group := 5, psn := 0,
    key := 0, flow := 4095, arg := arg, payload := payload }

theorem ofBytes_blank : Tile.ofBytes (Tile.bytes []) = [] := by
  rw [Tile.ofBytes, List.filterMap_eq_nil_iff]
  intro q hq
  have h := List.mem_zipIdx' hq
  have e : q.1 = zeroTileByte q.2 := by
    rw [h.2]; simp [Tile.bytes, Tile.slice, Tile.byte, Sparse.get]
  simp [e]

theorem blank_ok (ty a : Nat) : (Tile.ofBytes (frame ty a (Tile.bytes [])).payload).keystoneOk = true := by
  rw [frame, ofBytes_blank]; decide +kernel

theorem blank_length (ty a : Nat) : (frame ty a (Tile.bytes [])).payload.length = tileBytes := by simp [frame, Tile.bytes, Tile.slice]

/-- A flow to a rank, with these packets sent. -/
def flow (rank : Nat) (l : List SentPkt) (span : Nat := 0) : Flow :=
  { id := 4095, span := span, rank := rank, dstSpan := 0, key := 0, ctrl := false, psn := l.length, sent := l, rate := 250000, minRtt := 0, cut := none }

/-- With open flows. -/
def withFlows (l : List Flow) (d : Dev) : Dev := { d with vdt := { d.vdt with flows := l } }

/-- A packet that was sent, of step 0. -/
def sent0 : SentPkt := { frame := { (frame tyPut 0).toFrame with srcRank := 0, dstRank := 16383 }, tries := 0, port := 0, step := some 0 }

/-- A look-up of one row that rank 16,383 is to answer. -/
def look0 : Look :=
  { table := 0, dim := 16, epoch := 1, update := true, ids := [7], offs := [], weights := [], fmt := 2, addr := 0, pend := [(9, 0, false)],
    rest := [], bad := [], rows := [], flags := [] }

/-! ### Saving, securing and tests -/

/-- Pages 0 to 63 of the PF mapped to the first frames. -/
def pages64 (d : Dev) : Dev :=
  { d with hbm := { d.hbm with pages := (List.range 64).map fun i => (i, some { frame := some i, writable := true, deck := false, gone := false }) } }

/-- A save of the pages 0 and 1. -/
def save0 (final : Bool) (len : Nat) (dirty : List Nat) : Save :=
  { pass := 0, unit := 0, records := 0, dirty := dirty, job := some (0, 4096, len, 0, final) }

/-- A restore. -/
def restore0 : RestoreJob := { cmd := some 0, hostAddr := 4096, key := 0, records := 0, unit := 0, pages := [], stateRec := none }

/-- A record of the save stream. -/
def saveRec (ty : Nat) (st : Option StateRec := none) : SaveRec :=
  ({ ty := ty, va := 0, dlen := 0, pass := 1, records := 2, state := st } : SaveRec).close

theorem saveRec_holds (ty : Nat) (st : Option StateRec) : (saveRec ty st).holds = true := SaveRec.close_holds _

/-- One whose DCRC does not hold. -/
def badRec : SaveRec := { saveRec 2 with dcrc := (saveRec 2).dataCrc + 1 }

theorem saveRec_magic (ty : Nat) (st : Option StateRec) : (saveRec ty st).magic = 0x56533242 := rfl

theorem saveRec_units (ty : Nat) (st : Option StateRec) : (saveRec ty st).units = 1 := show 1 + ceilDiv 0 4096 = 1 by decide

theorem takes_page : takeRecords restore0 [saveRec 2] = .ok ({ restore0 with records := 1, unit := 1, pages := [(0, [])] }, none) := by
  simp only [takeRecords, saveRec_holds, saveRec_magic, saveRec_units]
  rfl

theorem takes_end (st : StateRec) : takeRecords restore0 [saveRec 1 (some st), saveRec 3]
    = .ok ({ restore0 with records := 2, unit := 2, stateRec := some st }, some (saveRec 3)) := by
  simp only [takeRecords, saveRec_holds, saveRec_magic, saveRec_units]
  rfl

theorem badRec_bad : badRec.holds = false := by
  have h : badRec.dcrc ≠ badRec.dataCrc := Nat.succ_ne_self _
  simp [SaveRec.holds, h]

/-- A policy of one module. -/
def policy0 : Policy :=
  { k := 1, sync := false, bn1 := false, group := 1, index := 0, lambda := 0, bearPages := 64, addrBear := 0, secKey := 0, ranges := [(0, 1)],
    drainAddr := 4096, drainBytes := 2105344, ranks := [0], addrBn1 := 0, bn1Tiles := 0 }

/-- A policy of two modules, this one the second. -/
def policy2 : Policy := { policy0 with group := 2, index := 1, bearPages := 128, ranks := [16383, 0] }

/-- The PF's securing state. -/
def withSec (x : SecState) (d : Dev) : Dev := { d with sec := { d.sec with secs := [(0, some x)] } }

/-- A segment of one point. -/
def segment0 : Segment := { seq := 0, row := 0, entries := [.mark 1 1], acked := true, drained := false }

/-- A secure point falls due over a tile that is damaged. -/
def damaged : State :=
  { dev (mapped 0 0 ∘ withSec { SecState.start policy0 none with due := true, touched := [0], nowCmds := [0] } ∘ withCmds [0]) with mem := [(0, 1)] }

theorem damaged_bad : (damaged.work.pointEntries 0 { SecState.start policy0 none with due := true, touched := [0], nowCmds := [0] }).2 ≠ [] := by
  have e : damaged.work.rowTile 0 0 = some [(0, 1)] := by decide +kernel
  have k : Tile.keystoneOk [(0, 1)] = false := by
    rw [Tile.keystoneOk, Tile.crc, if_neg (by decide), crc32c, crcFold_eager]
    decide +kernel
  have k : Tile.keystoneOk [(0, 1#8)] = false := k
  have h : W.hotDirty damaged.work 0 = [] := by decide +kernel
  simp [W.pointEntries, h, Policy.secures, policy0, e, k, SecState.start]

/-- A parity packet of one unit, the last of row 1. -/
def delta0 : Arrival := frame tyPut 1023 (List.replicate 4096 1#8)

theorem delta_is (l : List Byte) (h : l.length = 4096) : isDelta (frame tyPut 1023 l).toFrame = true := by
  cases l with
  | nil => cases h
  | cons b bs => simp [isDelta, isCopy, frame, h, tileBytes]

theorem delta0_is : isDelta delta0.toFrame = true := delta_is _ List.length_replicate

theorem delta0_length : delta0.arg % 512 * 4096 + delta0.payload.length ≤ pageBytes := by
  rw [delta0, frame, List.length_replicate]; decide

/-- A physical core in a state. -/
def coreIn (c : Nat) (st : PhysState) (d : Dev) : Dev := { d with core := { d.core with phys := [(c, { Phys.atReset c with state := st })] } }

/-- A test of a core. -/
def test0 (kind c : Nat) (cmd : Option Nat := some 0) : TestJob := { cmd := cmd, kind := kind, cores := [c], pack := 0, cluster := none }

/-- With tests in progress. -/
def withTests (l : List TestJob) (d : Dev) : Dev := { d with core := { d.core with tests := l } }
/-- The PF's page 0 in the first frame of channel 1, its first tile damaged. -/
def pinDamaged : State := { dev (mapped 0 768) with mem := [(768 * 2097152, 1)] }

theorem damaged_tile : Tile.keystoneOk [(0, 1#8)] = false := by
  rw [Tile.keystoneOk, Tile.crc, if_neg (by decide), crc32c, crcFold_eager]
  decide +kernel

theorem pinDamaged_bad : (pinDamaged.work.tileAt (768 * 2097152)).keystoneOk = false := by
  have e : pinDamaged.work.tileAt (768 * 2097152) = [(0, 1#8)] := by decide +kernel
  rw [e]; exact damaged_tile


/-! ### Power, integrity and firmware -/

/-- A bucket at a level. -/
def bucketAt (key n : Nat) (d : Dev) : Dev := { d with integ := { d.integ with buckets := [(key, { level := n, events := n })] } }

/-- A change of the power state. -/
def pwr (f : PwrSys → PwrSys) (d : Dev) : Dev := { d with pwr := f d.pwr }

/-- A change of the firmware state. -/
def fw (f : FwSys → FwSys) (d : Dev) : Dev := { d with fw := f d.fw }

/-- A cluster in a state. -/
def clusterIn (c : Nat) (x : Cluster) (d : Dev) : Dev := { d with core := { d.core with clusters := [(c, x)] } }

/-- Enrolled. -/
def managed (d : Dev) : Dev := { d with fw := { d.fw with anchors := [[1#8]] } }

/-! ### Parapet, observation and management -/

/-- A parapet command of the PF in its last slot, for span 63. -/
def mbox0 (l : List (Nat × Nat × Nat)) : MboxCmd :=
  { fn := 0, slot := 3, flags := 0, span := 63, seq := 0, tag := 0xFFFFFFFF, body := args l }

/-- Span 63 in a mode, of 63 virtual functions. -/
def span63 (f : Span → Span) (d : Dev) : Dev := spanIs 63 (fun x => f { x with mode := .active }) (vfs d)

/-- An event record. -/
def event0 : EvRec := { ty := 1, payload := [1, 2], span := 5, device := false, unit := 3, seq := 0, time := 7 }

/-- A change of what is observed. -/
def obs (f : ObsSys → ObsSys) (d : Dev) : Dev := { d with obs := f d.obs }

/-- Sensors. -/
def sensors0 : Sensors := { hotMean1024 := 0, temps := [], slow := [], volts := [], excursions := 0, inlet := 20, outlet := 40 }

/-- The first 128 pages of the PF mapped. -/
def pages128 (d : Dev) : Dev :=
  { d with hbm := { d.hbm with pages := (List.range 128).map fun i => (i, some { frame := some i, writable := true, deck := false, gone := false }) } }

/-- The state after a command that completes. -/
def after (o : Host.Outcome State Fault Refusal) : State :=
  match o with
  | .next t => t
  | _ => ready

theorem after_put (f : Arrival) (s : State) : exec (.putFrame f) s = .next (after (exec (.putFrame f) s)) := rfl

theorem after_delta (f : Arrival) (r : Nat) (s : State) : exec (.parityDelta f r) s = .next (after (exec (.parityDelta f r) s)) := rfl

/-- A state that takes `delta0`. -/
def deltas : State := dev (mapped 1 1 ∘ withSec { SecState.start policy2 none with used := [1] } ∘ fabric)

/-- The statement's clauses whose only hypothesis bounds a number. -/
theorem witness_bounds : (∃ (f : Fmt) (j : Nat), 8 < f.width ∧ j < f.width / 8) ∧ ∃ o : Nat, o < 4096 :=
  ⟨⟨.fp64, 7, by decide⟩, 4095, by decide⟩

theorem blank_plain : isDelta (frame tyPut 0 (Tile.bytes [])).toFrame = false := by
  rw [isDelta, blank_length]; simp [frame]

/-! ### The well-formedness check: for each of its parts a command that it refuses -/

theorem test_wf_accepts : Instr.wf (.nop (pk [])) = true ∧ Instr.wf (.putFrame (frame tyPut 0)) = true ∧ Instr.wf (.haltSpan (mbox0 [])) = true := by
  decide +kernel

theorem test_wf_packet : Instr.wf (.nop { pk [] with body := [] }) = false ∧ Instr.wf (.map { pk [] with ring := 16 }) = false
    ∧ Instr.wf (.unknownOpcodePacket { pk [] with fn := 64 } 0) = false := by decide +kernel

theorem test_wf_mailbox_packet : Instr.wf (.haltSpan { mbox0 [] with slot := 4 }) = false ∧ Instr.wf (.resetSpan { mbox0 [] with fn := 64 }) = false
    ∧ Instr.wf (.abortStep { mbox0 [] with body := [] }) = false := by decide +kernel

theorem test_wf_ring_and_function : Instr.wf (.sqTail 64 0 0) = false ∧ Instr.wf (.stepAdmit 0 16) = false
    ∧ Instr.wf (.functionLevelReset 64) = false ∧ Instr.wf (.vfRemove 64 true) = false ∧ Instr.wf (.mgmtTraceConfig 0 64 0 0 0) = false := by
  decide +kernel

theorem test_wf_registers : Instr.wf (.registerWrite 0 2 0) = false ∧ Instr.wf (.registerWrite 0 65536 0) = false ∧ Instr.wf (.cntLoRead 64 0x4100) = false := by
  decide +kernel

theorem test_wf_windows : Instr.wf (.bar4Read 0 0 4097) = false ∧ Instr.wf (.bar4Write 0 0 (List.replicate 4097 0)) = false
    ∧ Instr.wf (.mailboxWrite 0 0 61 [0, 0, 0, 0]) = false ∧ Instr.wf (.mailboxWrite 0 4 0 []) = false ∧ Instr.wf (.msixVectorUnmask 0 64) = false := by
  decide +kernel

theorem test_wf_slots_and_tables : Instr.wf (.deckSwitchEffect 0 16) = false ∧ Instr.wf (.generationRelease 64 0) = false
    ∧ Instr.wf (.epochClose 0 1024) = false ∧ Instr.wf (.lookupServe 64 0 ⟨0, false⟩) = false := by decide +kernel

theorem test_wf_tiles : Instr.wf (.deckLoadComplete 0 ⟨[[(4352, 1)]], 0⟩) = false ∧ Instr.wf (.adapterReloadDone 0 ⟨[[(0, 0)]], 0⟩) = false
    ∧ Instr.wf (.adapterLoadComplete 0 ⟨[[(1, 1), (0, 1)]], 0⟩) = false ∧ Instr.wf (.deckTileRefetchDone 0 0 (some ([(4352, 1)], 0))) = false := by decide +kernel

theorem test_wf_parts : Instr.wf (.tileFetchComplete 128 0 none .good) = false ∧ Instr.wf (.coreRetire 144) = false
    ∧ Instr.wf (.scratchpadParityError 144 ⟨none, []⟩ 0 0) = false ∧ Instr.wf (.clusterSleep 16) = false ∧ Instr.wf (.dieSleep 4) = false
    ∧ Instr.wf (.stackTrainDone 8 true) = false ∧ Instr.wf (.pageScrubDone 196608) = false ∧ Instr.wf (.portLinkLoss 9 0) = false
    ∧ Instr.wf (.ackTimer 16384 0) = false ∧ Instr.wf (.keyZeroise 4096) = false ∧ Instr.wf (.hbmRetrain 256 true ⟨false, false, 0⟩) = false := by decide +kernel

theorem test_wf_frame : Instr.wf (.putFrame { frame tyPut 0 with psn := 2 ^ 24 }) = false ∧ Instr.wf (.coll { frame tyColl 0 with srcRank := 16384 }) = false
    ∧ Instr.wf (.getReq ⟨{ frame tyGetReq 0 with dstRank := 65535 }, false⟩) = false ∧ Instr.wf (.close { frame tyClose 0 with dstSpan := 64 }) = false
    ∧ Instr.wf (.void { frame tyVoid 0 with srcSpan := 64 }) = false ∧ Instr.wf (.ack { frame tyAck 0 with port := 9 } ⟨0, [], 0, 0, 0⟩) = false := by decide +kernel

theorem test_wf_anchors : Instr.wf (.mgmtEnrolAnchor []) = false ∧ Instr.wf (.mgmtCredentials 0 [[1], []] []) = false := by decide +kernel

/-! ### Values that the manual states -/

/-- R278: "WLT-", "BN2-", "48-L"; ID_FUNC of the PF and of VF 5; ID_STATE at reset. -/
theorem test_identity : State.reset.work.readReg 0 0 = 0x2D544C57 ∧ State.reset.work.readReg 0 4 = 0x2D324E42
    ∧ State.reset.work.readReg 0 8 = 0x4C2D3834 ∧ State.reset.work.readReg 0 0x14 = 0x1040 ∧ (dev vfs).work.readReg 5 0x14 = 0x1005
    ∧ State.reset.work.readReg 0 0x18 = 0xB := by decide +kernel

/-- R263: a count of 4,294,967,312 has the code 0xD40; counts below 128 are exact; 2^38 and more give 0xFFF. -/
theorem test_count_code : countCode 4294967312 = 0xD40 ∧ countCode 127 = 127 ∧ countCode (2 ^ 38) = 0xFFF := by decide +kernel

/-- R34: the last tile of a page, and an address that is none. -/
theorem test_tile_address : isTileAddr (2097152 + 4352 * 480) = true ∧ isTileAddr (4352 * 481) = false ∧ isTileAddr 4096 = false := by decide +kernel

/-- R38, R297: the keystone of the zero tile, computed over its bytes. -/
theorem test_zero_keystone : crc32c (Tile.slice [] 0 4096 ++ Tile.slice [] 4100 252) = zeroKeystone := by
  rw [crc32c, crcFold_eager]
  decide +kernel

/-- R67: codes of the largest finite values. -/
theorem test_largest_values : FloatFmt.e4m3.encode (.ofNat 448) = 0x7E ∧ FloatFmt.fp16.encode (.ofNat 65504) = 0x7BFF
    ∧ FloatFmt.e5m2.encode (.ofNat 57344) = 0x7B := by decide +kernel

/-- R181: no module but the table's own rank answers for a table of one rank. -/
theorem test_owner_of_one : ∀ r ∈ [0, 1, 15], ((dev fabric).work.ownerOf 0 table1 r).map (·.1) = some 0 := by decide +kernel

/-- FIPS 180-4: the digests of the message "abc" begin ba7816bf and cb00753f. -/
theorem test_sha : (sha256 [0x61#8, 0x62#8, 0x63#8]).toNat % 2 ^ 32 = 0xbf1678ba
    ∧ (sha384 [0x61#8, 0x62#8, 0x63#8]).toNat % 2 ^ 32 = 0x3f7500cb := by decide +kernel

/-- A table of one rank, and a state in which EMB_LOOKUP reads its first row. -/
def table00 : Table := { table0 with group := 1 }

def looking : State :=
  { withTable table00 (loaded [embDescOf 0x40]) with mem := (Tile.setBytes [] 0 record0).map fun c => (c.1, c.2) }

theorem record0_key : Table.vkeyOk table00 record0 = true := by
  rw [Table.vkeyOk, crc32c, crcFold_eager]
  decide +kernel

/-- FIPS 197, C.3: AES-256 of a block, and back. -/
theorem test_aes : aesEnc (aesKeys (List.range 32)) ((List.range 16).map (17 * ·))
      = [0x8e, 0xa2, 0xb7, 0xca, 0x51, 0x67, 0x45, 0xbf, 0xea, 0xfc, 0x49, 0x90, 0x4b, 0x49, 0x60, 0x89]
    ∧ aesDec (aesKeys (List.range 32)) [0x8e, 0xa2, 0xb7, 0xca, 0x51, 0x67, 0x45, 0xbf, 0xea, 0xfc, 0x49, 0x90, 0x4b, 0x49, 0x60, 0x89]
      = (List.range 16).map (17 * ·) := by decide +kernel

/-- An element of more than 8 bits, as `ElementsLieInPayloadByteOrder` speaks of. -/
theorem witness_wide_element : ∃ f : Fmt, 8 < f.width := ⟨.bf16, by decide +kernel⟩

/-! ### Witnesses of the hypotheses -/

/-- The hypotheses of `StepRunsFrontCommandOrIdles` can be met, clause by clause. -/
theorem witness_StepRunsFrontCommandOrIdles :
    (∃ (s : State),
      s.pending = []) := by
  refine ⟨ready, by decide +kernel⟩

/-- The hypotheses of `StepKeepsMemoryCanonical` can be met, clause by clause. -/
theorem witness_StepKeepsMemoryCanonical :
    (∃ (s : State) (t : State),
      s.MemWf ∧ step s = .next t) := by
  refine ⟨{ ready with pending := [.sqTail 0 0 2#32], mem := [(0, 1#8)] }, { ready with pending := [], mem := [(0, 1#8)], dev := (ready.work.modRing 0 0 fun g => { g with sqTail := 2 }).toDev }, by exact ⟨by unfold State.MemWf; decide +kernel, by rfl⟩⟩

/-- The hypotheses of `ResetStateIsAsTheSpecAndTheLogSay` can be met, clause by clause. -/
theorem witness_ResetStateIsAsTheSpecAndTheLogSay :
    (∃ (n : Nat),
      n ≠ 0) := by
  refine ⟨1, by decide +kernel⟩

/-- The hypotheses of `BadPacketsAreRefusedInOrder` can be met, clause by clause. -/
theorem witness_BadPacketsAreRefusedInOrder :
    (∃ (c : Instr) (o : OpInfo) (p : Pkt) (s : State) (st : Status) (d : Detail),
      ringPacket c = some (o, p) ∧ s.work.canRead p.fn p.ring = true ∧ ((p.span.toNat ≠ p.fn ∧ st = .refusedPermission ∧ d = .none)
      ∨ (p.span.toNat = p.fn ∧ p.seq.toNat ≠ (s.work.ring p.fn p.ring).nextSeq ∧ st = .refusedFormat
      ∧ d = .expectSeq (s.work.ring p.fn p.ring).nextSeq)
      ∨ (p.span.toNat = p.fn ∧ p.seq.toNat = (s.work.ring p.fn p.ring).nextSeq ∧ o.resvOk p = false
      ∧ st = .refusedFormat ∧ d = .none)))
    ∧ (∃ (c : Instr) (o : OpInfo) (p : Pkt) (s : State) (st : Status) (d : Detail),
      ringPacket c = some (o, p) ∧ s.work.canRead p.fn p.ring = true ∧ ((p.span.toNat ≠ p.fn ∧ st = .refusedPermission ∧ d = .none)
      ∨ (p.span.toNat = p.fn ∧ p.seq.toNat ≠ (s.work.ring p.fn p.ring).nextSeq ∧ st = .refusedFormat
      ∧ d = .expectSeq (s.work.ring p.fn p.ring).nextSeq)
      ∨ (p.span.toNat = p.fn ∧ p.seq.toNat = (s.work.ring p.fn p.ring).nextSeq ∧ o.resvOk p = false
      ∧ st = .refusedFormat ∧ d = .none)))
    ∧ (∃ (c : Instr) (o : OpInfo) (p : Pkt) (s : State) (st : Status) (d : Detail),
      ringPacket c = some (o, p) ∧ s.work.canRead p.fn p.ring = true ∧ ((p.span.toNat ≠ p.fn ∧ st = .refusedPermission ∧ d = .none)
      ∨ (p.span.toNat = p.fn ∧ p.seq.toNat ≠ (s.work.ring p.fn p.ring).nextSeq ∧ st = .refusedFormat
      ∧ d = .expectSeq (s.work.ring p.fn p.ring).nextSeq)
      ∨ (p.span.toNat = p.fn ∧ p.seq.toNat = (s.work.ring p.fn p.ring).nextSeq ∧ o.resvOk p = false
      ∧ st = .refusedFormat ∧ d = .none)))
    ∧ (∃ (p : Pkt) (op : BitVec 16) (s : State),
      s.work.canRead p.fn p.ring = true ∧ p.span.toNat = p.fn ∧ p.seq.toNat = (s.work.ring p.fn p.ring).nextSeq ∧ ringOpcode op.toNat = none) := by
  refine ⟨⟨.nop { pk [] with span := 1 }, opNop, { pk [] with span := 1 }, ready, .refusedPermission, .none, by decide +kernel⟩,
    ⟨.pin { pk [] with seq := 1 }, opPin, { pk [] with seq := 1 }, ready, .refusedFormat, .expectSeq 0, by decide +kernel⟩,
    ⟨.spanThaw (pk [(63, 1, 128)]), opSpanFreeze, { pk [(63, 1, 128)] with flags := 0x100 }, ready, .refusedFormat, .none, by decide +kernel⟩,
    ⟨pk [], 0xFFFF#16, ready, by decide +kernel⟩⟩

/-- The hypotheses of `CommandsAreTurnedAwayByIssuerModeAndState` can be met, clause by clause. -/
theorem witness_CommandsAreTurnedAwayByIssuerModeAndState :
    (∃ (c : Instr) (o : OpInfo) (p : Pkt) (s : State) (st : Status),
      ringPacket c = some (o, p) ∧ s.work.canRead p.fn p.ring = true ∧ s.work.badPacket o p = none ∧ ((o.pf = true ∧ p.fn ≠ 0 ∧ st = .refusedPermission)
      ∨ (¬ (o.pf = true ∧ p.fn ≠ 0) ∧ s.dev.pwr.trestle = true ∧ o.trestle = false ∧ st = .trestleLimit)
      ∨ (¬ (o.pf = true ∧ p.fn ≠ 0) ∧ ¬ (s.dev.pwr.trestle = true ∧ o.trestle = false)
      ∧ (s.work.sp p.fn).mode ≠ .active ∧ o.frozen = false ∧ st = .retryLater)
      ∨ (¬ (o.pf = true ∧ p.fn ≠ 0) ∧ ¬ (s.dev.pwr.trestle = true ∧ o.trestle = false)
      ∧ ((s.work.sp p.fn).mode = .active ∨ o.frozen = true) ∧ o.pblk = true ∧ p.pblk = false ∧ st = .refusedFormat)))
    ∧ (∃ (c : Instr) (o : OpInfo) (p : Pkt) (s : State) (st : Status),
      ringPacket c = some (o, p) ∧ s.work.canRead p.fn p.ring = true ∧ s.work.badPacket o p = none ∧ ((o.pf = true ∧ p.fn ≠ 0 ∧ st = .refusedPermission)
      ∨ (¬ (o.pf = true ∧ p.fn ≠ 0) ∧ s.dev.pwr.trestle = true ∧ o.trestle = false ∧ st = .trestleLimit)
      ∨ (¬ (o.pf = true ∧ p.fn ≠ 0) ∧ ¬ (s.dev.pwr.trestle = true ∧ o.trestle = false)
      ∧ (s.work.sp p.fn).mode ≠ .active ∧ o.frozen = false ∧ st = .retryLater)
      ∨ (¬ (o.pf = true ∧ p.fn ≠ 0) ∧ ¬ (s.dev.pwr.trestle = true ∧ o.trestle = false)
      ∧ ((s.work.sp p.fn).mode = .active ∨ o.frozen = true) ∧ o.pblk = true ∧ p.pblk = false ∧ st = .refusedFormat)))
    ∧ (∃ (c : Instr) (o : OpInfo) (p : Pkt) (s : State) (st : Status),
      ringPacket c = some (o, p) ∧ s.work.canRead p.fn p.ring = true ∧ s.work.badPacket o p = none ∧ ((o.pf = true ∧ p.fn ≠ 0 ∧ st = .refusedPermission)
      ∨ (¬ (o.pf = true ∧ p.fn ≠ 0) ∧ s.dev.pwr.trestle = true ∧ o.trestle = false ∧ st = .trestleLimit)
      ∨ (¬ (o.pf = true ∧ p.fn ≠ 0) ∧ ¬ (s.dev.pwr.trestle = true ∧ o.trestle = false)
      ∧ (s.work.sp p.fn).mode ≠ .active ∧ o.frozen = false ∧ st = .retryLater)
      ∨ (¬ (o.pf = true ∧ p.fn ≠ 0) ∧ ¬ (s.dev.pwr.trestle = true ∧ o.trestle = false)
      ∧ ((s.work.sp p.fn).mode = .active ∨ o.frozen = true) ∧ o.pblk = true ∧ p.pblk = false ∧ st = .refusedFormat)))
    ∧ (∃ (c : Instr) (o : OpInfo) (p : Pkt) (s : State) (st : Status),
      ringPacket c = some (o, p) ∧ s.work.canRead p.fn p.ring = true ∧ s.work.badPacket o p = none ∧ ((o.pf = true ∧ p.fn ≠ 0 ∧ st = .refusedPermission)
      ∨ (¬ (o.pf = true ∧ p.fn ≠ 0) ∧ s.dev.pwr.trestle = true ∧ o.trestle = false ∧ st = .trestleLimit)
      ∨ (¬ (o.pf = true ∧ p.fn ≠ 0) ∧ ¬ (s.dev.pwr.trestle = true ∧ o.trestle = false)
      ∧ (s.work.sp p.fn).mode ≠ .active ∧ o.frozen = false ∧ st = .retryLater)
      ∨ (¬ (o.pf = true ∧ p.fn ≠ 0) ∧ ¬ (s.dev.pwr.trestle = true ∧ o.trestle = false)
      ∧ ((s.work.sp p.fn).mode = .active ∨ o.frozen = true) ∧ o.pblk = true ∧ p.pblk = false ∧ st = .refusedFormat)))
    ∧ (∃ (c : Instr) (o : OpInfo) (p : Pkt) (s : State) (st : Status),
      ringPacket c = some (o, p) ∧ s.work.canRead p.fn p.ring = true ∧ s.work.badPacket o p = none ∧ ((o.pf = true ∧ p.fn ≠ 0 ∧ st = .refusedPermission)
      ∨ (¬ (o.pf = true ∧ p.fn ≠ 0) ∧ s.dev.pwr.trestle = true ∧ o.trestle = false ∧ st = .trestleLimit)
      ∨ (¬ (o.pf = true ∧ p.fn ≠ 0) ∧ ¬ (s.dev.pwr.trestle = true ∧ o.trestle = false)
      ∧ (s.work.sp p.fn).mode ≠ .active ∧ o.frozen = false ∧ st = .retryLater)
      ∨ (¬ (o.pf = true ∧ p.fn ≠ 0) ∧ ¬ (s.dev.pwr.trestle = true ∧ o.trestle = false)
      ∧ ((s.work.sp p.fn).mode = .active ∨ o.frozen = true) ∧ o.pblk = true ∧ p.pblk = false ∧ st = .refusedFormat))) := by
  refine ⟨⟨.spanQos { pk [] with fn := 63, ring := 15, span := 63 }, opSpanQos, { pk [] with fn := 63, ring := 15, span := 63 }, dev fun d => spanIs 63 (fun x => { x with mode := .active }) { d with cmd := { d.cmd with rings := [(1023, { en := true, sqTail := 1 })] }, regs := [(65536 * 63 + 0x5F0, 16#32)] }, .refusedPermission, by decide +kernel⟩,
    ⟨.migrate (pk []), opMigrate, pk [], dev fun d => { d with pwr := { d.pwr with trestle := true } }, .trestleLimit, by decide +kernel⟩,
    ⟨.map (pk []), opMap, pk [], dev (spanIs 0 fun x => { x with mode := .restoring }), .retryLater, by decide +kernel⟩,
    ⟨.spanCreate (pk []), opSpanCreate, pk [], ready, .refusedFormat, by decide +kernel⟩,
    ⟨.keyInstall (pk []), opKeyInstall, pk [], dev (spanIs 0 fun x => { x with mode := .frozen }), .refusedFormat, by decide +kernel⟩⟩

/-- The hypotheses of `NopQueryAndFenceReply` can be met, clause by clause. -/
theorem witness_NopQueryAndFenceReply :
    (∃ (p : Pkt) (s : State),
      s.starts opNop p = true)
    ∧ (∃ (p : Pkt) (s : State),
      s.starts opQuery p = true ∧ p.arg 12 1 = 3)
    ∧ (∃ (p : Pkt) (s : State),
      s.starts opQuery p = true ∧ p.arg 12 1 = 4)
    ∧ (∃ (p : Pkt) (s : State),
      s.starts opQuery p = true ∧ 5 < p.arg 12 1)
    ∧ (∃ (p : Pkt) (s : State),
      s.starts opFence p = true ∧ (∀ c ∈ s.dev.cmd.cmds, c.fn = p.fn → s.dev.cmd.nextId ≤ c.id ∨ ∃ x ∈ s.dev.step.steps, x.cmd = c.id ∧ x.phase = .ended) ∧ (∀ r < 16, ∀ h ∈ (s.work.ring p.fn r).held, ∀ i, h.2.2 = some i → s.dev.cmd.nextId ≤ i))
    ∧ (∃ (p : Pkt) (s : State),
      s.starts opFence p = true ∧ (∀ c ∈ s.dev.cmd.cmds, c.fn = p.fn → s.dev.cmd.nextId ≤ c.id ∨ ∃ x ∈ s.dev.step.steps, x.cmd = c.id ∧ x.phase = .ended) ∧ (∀ r < 16, ∀ h ∈ (s.work.ring p.fn r).held, ∀ i, h.2.2 = some i → s.dev.cmd.nextId ≤ i))
    ∧ (∃ (p : Pkt) (s : State),
      s.starts opFence p = true ∧ ((∃ c ∈ s.dev.cmd.cmds, c.fn = p.fn ∧ c.id < s.dev.cmd.nextId ∧ ∀ x ∈ s.dev.step.steps, x.cmd = c.id → x.phase ≠ .ended)
      ∨ ∃ r < 16, ∃ h ∈ (s.work.ring p.fn r).held, ∃ i < s.dev.cmd.nextId, h.2.2 = some i))
    ∧ (∃ (fn : Nat) (r : Nat) (id : Nat) (s : State),
      (s.work.ring fn r).fence = some id ∧ (∀ c ∈ s.dev.cmd.cmds, c.fn = fn → id ≤ c.id ∨ ∃ x ∈ s.dev.step.steps, x.cmd = c.id ∧ x.phase = .ended) ∧ (∀ q < 16, ∀ h ∈ (s.work.ring fn q).held, ∀ i, h.2.2 = some i → id ≤ i)) := by
  refine ⟨⟨pk [], ready, by decide +kernel⟩,
    ⟨pk [(12, 1, 3)], ready, by decide +kernel⟩,
    ⟨pk [(12, 1, 4)], ready, by decide +kernel⟩,
    ⟨pk [(12, 1, 6)], ready, by decide +kernel⟩,
    ⟨pk [], ready, by decide +kernel⟩,
    ⟨pk [], dev fun d => { d with cmd := { d.cmd with cmds := [cmdNo 1] } }, by decide +kernel⟩,
    ⟨pk [], dev fun d => { d with cmd := { d.cmd with cmds := [cmdNo 0] } }, by decide +kernel⟩,
    ⟨0, 0, 1, dev fun d => { d with cmd := { d.cmd with cmds := [cmdNo 1], rings := [(0, { en := true, fence := some 1 })] } }, by decide +kernel⟩⟩

/-- The hypotheses of `RingsAreEnabledRungAndDisabled` can be met, clause by clause. -/
theorem witness_RingsAreEnabledRungAndDisabled :
    (∃ (fn : Nat) (r : Nat) (v : Word) (s : State),
      s.work.busUp = true ∧ fn < 64 ∧ r < 16 ∧ (s.work.ring fn r).en = true ∧ v.toNat % 65536 < s.work.entries fn r)
    ∧ (∃ (fn : Nat) (r : Nat) (v : Word) (s : State),
      s.work.busUp = true ∧ fn < 64 ∧ r < 16 ∧ (s.work.ring fn r).en = true ∧ (s.work.ring fn r).held = [] ∧ v.toNat % 65536 < s.work.entries fn r)
    ∧ (∃ (fn : Nat) (r : Nat) (v : Word) (s : State),
      s.work.busUp = true ∧ fn < 64 ∧ r < 16 ∧ s.work.entries fn r ≤ v.toNat % 65536)
    ∧ (∃ (fn : Nat) (r : Nat) (v : Word) (s : State),
      s.work.busUp = true ∧ fn < 64 ∧ r < 16 ∧ s.work.entries fn r ≤ v.toNat % 65536)
    ∧ (∃ (fn : Nat) (r : Nat) (v : Word) (s : State),
      s.work.busUp = true ∧ fn < 64 ∧ r < 16 ∧ (s.work.ring fn r).en = false ∧ 6 ≤ v.toNat % 32 ∧ v.toNat % 32 ≤ 16 ∧ (s.work.sp fn).mode ≠ .absent ∧ bits v.toNat 21 16 < (s.work.sp fn).vectors)
    ∧ (∃ (fn : Nat) (r : Nat) (v : Word) (s : State),
      s.work.busUp = true ∧ fn < 64 ∧ r < 16 ∧ (s.work.ring fn r).en = false ∧ 6 ≤ v.toNat % 32 ∧ v.toNat % 32 ≤ 16 ∧ (s.work.sp fn).mode ≠ .absent ∧ bits v.toNat 21 16 < (s.work.sp fn).vectors)
    ∧ (∃ (fn : Nat) (r : Nat) (s : State),
      s.work.busUp = true ∧ (s.work.ring fn r).en = true)
    ∧ (∃ (fn : Nat) (r : Nat) (s : State),
      (s.work.ring fn r).stopping = true ∧ (s.work.ring fn r).held = [] ∧ (∀ c ∈ s.dev.cmd.cmds, ¬ (c.fn = fn ∧ c.ring = r))) := by
  refine ⟨⟨0, 0, 63#32, ready, by decide +kernel⟩,
    ⟨0, 0, 63#32, dev fun d => { d with cmd := { d.cmd with rings := [(0, { en := true, cqHead := 62, cqUsed := 2 })] } }, by decide +kernel⟩,
    ⟨0, 0, 64#32, ready, by decide +kernel⟩,
    ⟨63, 15, 65535#32, dev fun d => { d with cmd := { d.cmd with rings := [(1023, { badBell := 63 })] }}, by decide +kernel⟩,
    ⟨0, 15, BitVec.ofNat 32 (16 + 2 ^ 16 * 63), ready, by decide +kernel⟩,
    ⟨0, 0, 6#32, dev fun d => { d with cmd := { d.cmd with rings := [(0, { badBell := 3, sqHead := 4 })] }}, by decide +kernel⟩,
    ⟨0, 0, ready, by decide +kernel⟩,
    ⟨0, 0, dev fun d => { d with cmd := { d.cmd with rings := [(0, { stopping := true })] }}, by decide +kernel⟩⟩

/-- The hypotheses of `InterruptsFollowTimerAndMask` can be met, clause by clause. -/
theorem witness_InterruptsFollowTimerAndMask :
    (∃ (fn : Nat) (r : Nat) (s : State),
      0 < (s.work.ring fn r).unsig ∧ 0 < bits (s.work.regv fn (0x2800 + 4 * r)) 31 16 ∧ s.work.ringVector fn r < (s.work.sp fn).vectors ∧ s.work.ringVector fn r < 64)
    ∧ (∃ (fn : Nat) (r : Nat) (s : State),
      0 < (s.work.ring fn r).unsig ∧ 0 < bits (s.work.regv fn (0x2800 + 4 * r)) 31 16 ∧ s.work.ringVector fn r < (s.work.sp fn).vectors ∧ s.work.ringVector fn r < 64)
    ∧ (∃ (fn : Nat) (v : Nat) (s : State),
      s.work.busUp = true ∧ fn < 64 ∧ v < 64 ∧ 64 * fn + v ∈ s.dev.cmd.pba ∧ v < (s.work.sp fn).vectors)
    ∧ (∃ (fn : Nat) (v : Nat) (s : State),
      s.work.busUp = true ∧ fn < 64 ∧ v < 64 ∧ 64 * fn + v ∉ s.dev.cmd.pba) := by
  refine ⟨⟨0, 0, dev fun d => { d with cmd := { d.cmd with rings := [(0, { en := true, unsig := 1 })] }, regs := [(0x410, 0x3F0006#32), (0x2800, 0x10002#32), (0x200C, 1#32), (0x2000 + 16 * 63 + 12, 0#32)] }, by decide +kernel⟩,
    ⟨0, 0, dev fun d => { d with cmd := { d.cmd with rings := [(0, { en := true, unsig := 1 })] }, regs := [(0x410, 0x3F0006#32), (0x2800, 0x10002#32)] }, by decide +kernel⟩,
    ⟨0, 63, dev fun d => { d with cmd := { d.cmd with pba := [63] } }, by decide +kernel⟩,
    ⟨63, 63, dev vfs, by decide +kernel⟩⟩

/-- The hypotheses of `SpansTakeTheirRecordAndWeights` can be met, clause by clause. -/
theorem witness_SpansTakeTheirRecordAndWeights :
    (∃ (p : Pkt) (s : State),
      s.starts opSpanCreate p = true ∧ s.work.checkRecord (SpanRec.read p.block) p.block true = none)
    ∧ (∃ (p : Pkt) (s : State),
      s.starts opSpanResize p = true ∧ s.work.checkRecord (SpanRec.read p.block) p.block false = none)
    ∧ (∃ (p : Pkt) (s : State) (st : Status),
      s.starts opSpanCreate p = true ∧ s.work.checkRecord (SpanRec.read p.block) p.block true = some st)
    ∧ (∃ (p : Pkt) (s : State) (st : Status),
      s.starts opSpanResize p = true ∧ s.work.checkRecord (SpanRec.read p.block) p.block false = some st)
    ∧ (∃ (p : Pkt) (s : State),
      s.starts opSpanQos p = true ∧ p.arg 12 1 ≤ 63 ∧ (s.work.sp (p.arg 12 1)).mode ≠ .absent ∧ (∀ i < 4, p.arg (16 + i) 1 ≠ 0))
    ∧ (∃ (p : Pkt) (s : State),
      s.starts opSpanQos p = true ∧ (63 < p.arg 12 1 ∨ (s.work.sp (p.arg 12 1)).mode = .absent ∨ ∃ i, i < 4 ∧ p.arg (16 + i) 1 = 0))
    ∧ (∃ (p : Pkt) (s : State),
      s.starts opSpanQos p = true ∧ (63 < p.arg 12 1 ∨ (s.work.sp (p.arg 12 1)).mode = .absent ∨ ∃ i, i < 4 ∧ p.arg (16 + i) 1 = 0))
    ∧ (∃ (p : Pkt) (s : State),
      s.starts opSpanQos p = true ∧ (63 < p.arg 12 1 ∨ (s.work.sp (p.arg 12 1)).mode = .absent ∨ ∃ i, i < 4 ∧ p.arg (16 + i) 1 = 0)) := by
  refine ⟨⟨pk [(56, 8, 4096)] 1 (recFor 63), dev (vfs ∘ joined), by decide +kernel⟩,
    ⟨pk [(56, 8, 4096)] 1 (recFor 1), dev (spanIs 1 (fun x => { x with mode := .frozen, spadSlots := 64 }) ∘ vfs ∘ joined), by decide +kernel⟩,
    ⟨pk [(56, 8, 4096)] 1 (recFor 0), dev vfs, .refusedFormat, by decide +kernel⟩,
    ⟨pk [(56, 8, 4096)] 1 (recFor 1), dev (spanIs 1 (fun x => { x with mode := .resetting }) ∘ vfs), .retryLater, by decide +kernel⟩,
    ⟨pk [(12, 1, 63), (16, 1, 1), (17, 1, 255), (18, 1, 2), (19, 1, 3)], dev (spanIs 63 (fun x => { x with mode := .frozen }) ∘ vfs), by decide +kernel⟩,
    ⟨pk [(12, 1, 64), (16, 1, 1), (17, 1, 1), (18, 1, 1), (19, 1, 1)], ready, by decide +kernel⟩,
    ⟨pk [(12, 1, 63), (16, 1, 1), (17, 1, 1), (18, 1, 1), (19, 1, 1)], ready, by decide +kernel⟩,
    ⟨pk [(12, 1, 0), (16, 1, 1), (17, 1, 1), (18, 1, 1), (19, 1, 0)], ready, by decide +kernel⟩⟩

/-- The hypotheses of `FreezeThawAndComplete` can be met, clause by clause. -/
theorem witness_FreezeThawAndComplete :
    (∃ (p : Pkt) (s : State),
      s.starts opSpanFreeze p = true ∧ p.opflag8 = false ∧ p.arg 12 1 ≤ 63 ∧ (s.work.sp (p.arg 12 1)).mode = .active ∧ (s.work.sp (p.arg 12 1)).freezing = none ∧ (∀ x ∈ s.dev.step.steps, x.span ≠ p.arg 12 1) ∧ s.work.quiet (p.arg 12 1) = true)
    ∧ (∃ (n : Nat) (id : Nat) (s : State),
      (s.work.sp n).freezing = some id ∧ (s.work.sp n).mode = .active ∧ s.work.quiet n = true)
    ∧ (∃ (p : Pkt) (s : State),
      s.starts opSpanFreeze { p with flags := p.flags ||| 0x100#16 } = true ∧ p.arg 12 1 ≤ 63 ∧ (s.work.sp (p.arg 12 1)).mode = .frozen) := by
  refine ⟨⟨pk [(12, 1, 63)], dev (spanIs 63 (fun x => { x with mode := .active }) ∘ vfs), by decide +kernel⟩,
    ⟨0, 0, dev (spanIs 0 (fun x => { x with freezing := some 0 }) ∘ fun d => { d with cmd := { d.cmd with cmds := [cmdNo 0] } }), by decide +kernel⟩,
    ⟨pk [(12, 1, 63)], dev (spanIs 63 (fun x => { x with mode := .frozen }) ∘ vfs), by decide +kernel⟩⟩

/-- The hypotheses of `DestroyAndResetSequence` can be met, clause by clause. -/
theorem witness_DestroyAndResetSequence :
    (∃ (p : Pkt) (s : State),
      s.starts opSpanDestroy p = true ∧ p.arg 12 1 ≠ 0 ∧ p.arg 12 1 ≤ 63 ∧ (s.work.sp (p.arg 12 1)).mode ≠ .absent ∧ (s.work.sp (p.arg 12 1)).reset = none)
    ∧ (∃ (n : Nat) (j : ResetJob) (s : State),
      (s.work.sp n).reset = some j ∧ j.stage = .draining ∧ j.destroy = false ∧ j.vfRemoved = false ∧ j.againDestroy = [] ∧ s.work.liveKeys n = []) := by
  refine ⟨⟨pk [(12, 1, 63)], dev (spanIs 63 (fun x => { x with mode := .active }) ∘ vfs), by decide +kernel⟩,
    ⟨63, { stage := .draining, destroy := false, vfRemoved := false, flr := true, cmds := [], pars := [], againDestroy := [] }, dev (mapped (63 * 2 ^ 27) 3 ∘ spanIs 63 (fun x => { x with mode := .resetting, reset := some { stage := .draining, destroy := false, vfRemoved := false, flr := true, cmds := [], pars := [], againDestroy := [] } }) ∘ vfs), by decide +kernel⟩⟩

/-- The hypotheses of `CoresMoveAndFunctionsComeAndGo` can be met, clause by clause. -/
theorem witness_CoresMoveAndFunctionsComeAndGo :
    (∃ (n : Nat) (core : Nat) (m : Nat) (r : Resize) (s : State),
      n < 64 ∧ (s.work.sp n).resize = some r ∧ (core, m) ∈ r.cores ∧ (∀ q ∈ r.cores, q.1 = core → q = (core, m)) ∧ (∀ k r', k < 64 → k ≠ n → (s.work.sp k).resize = some r' → ∀ q ∈ r'.cores, q.1 ≠ core) ∧ s.work.movable core = true)
    ∧ (∃ (k : Nat) (en : Bool) (s : State),
      s.work.busUp = true ∧ k ≤ 63)
    ∧ (∃ (k : Nat) (en : Bool) (s : State),
      s.work.busUp = true ∧ k ≤ 63) := by
  refine ⟨⟨63, 127, 63, waits127, creating, by
      refine ⟨by decide +kernel, by rfl, by decide +kernel, by decide +kernel, fun k r' hk hn e => ?_, by decide +kernel⟩
      rw [(by decide +kernel : ∀ k < 64, k ≠ 63 → (creating.work.sp k).resize = none) k hk hn] at e
      cases e⟩,
    ⟨63, true, ready, by decide +kernel⟩,
    ⟨62, true, dev (spanIs 63 (fun x => { x with mode := .active }) ∘ vfs), by decide +kernel⟩⟩

/-- The hypotheses of `KeyRevokeAndZeroise` can be met, clause by clause. -/
theorem witness_KeyRevokeAndZeroise :
    (∃ (p : Pkt) (s : State),
      s.starts opKeyRevoke p = true ∧ p.arg 12 2 < 4096 ∧ s.work.holdsKey p.fn (p.arg 12 2) = true ∧ (s.work.keySlot (p.arg 12 2)).state = .installed)
    ∧ (∃ (p : Pkt) (s : State),
      s.starts opKeyRevoke p = true ∧ p.arg 12 2 < 4096 ∧ s.work.holdsKey p.fn (p.arg 12 2) = false)
    ∧ (∃ (k : Nat) (s : State),
      (s.work.keySlot k).state = .revoking) := by
  refine ⟨⟨pk [(12, 2, 4095)], dev fun d => { d with fw := { d.fw with keys := [(4095, { state := .installed, key := 3 })] } }, by decide +kernel⟩,
    ⟨pk [(12, 2, 4095)], dev (spanIs 1 (fun x => { x with mode := .active, keyBase := 4095, keyCount := 1 }) ∘ vfs), by decide +kernel⟩,
    ⟨4095, dev fun d => { d with fw := { d.fw with keys := [(4095, { state := .revoking, key := 3 })] } }, by decide +kernel⟩⟩

/-- The hypotheses of `MapGivesPagesTheirFrames` can be met, clause by clause. -/
theorem witness_MapGivesPagesTheirFrames :
    (∃ (p : Pkt) (s : State) (fs : List Nat) (last : Option Nat),
      s.starts opMap p = true ∧ p.arg 12 6 % pageBytes = 0 ∧ 0 < p.arg 20 4 ∧ p.arg 12 6 / pageBytes + p.arg 20 4 ≤ 2 ^ 27 ∧ bits (p.arg 24 1) 3 2 ≤ 2 ∧ (bits (p.arg 24 1) 3 2 = 1 → p.arg 25 1 ≤ 3) ∧ (bits (p.arg 24 1) 3 2 = 2 → p.arg 25 1 ≤ 7) ∧ bit (p.arg 24 1) 1 = false ∧ s.work.charged p.fn + p.arg 20 4 ≤ s.work.mapLimit p.fn ∧ (∀ i < p.arg 20 4, s.work.unmapping p.fn (p.arg 12 6 / pageBytes + i) = false
      ∧ s.work.page p.fn (p.arg 12 6 / pageBytes + i) = none) ∧ s.work.deal (placeChans (bits (p.arg 24 1) 3 2) (p.arg 25 1)) (p.arg 20 4) (s.work.sp p.fn).lastChan [] = some (fs, last))
    ∧ (∃ (p : Pkt) (s : State) (fs : List Nat) (last : Option Nat),
      s.starts opMap p = true ∧ p.arg 12 6 % pageBytes = 0 ∧ 0 < p.arg 20 4 ∧ p.arg 12 6 / pageBytes + p.arg 20 4 ≤ 2 ^ 27 ∧ bits (p.arg 24 1) 3 2 ≤ 2 ∧ (bits (p.arg 24 1) 3 2 = 1 → p.arg 25 1 ≤ 3) ∧ (bits (p.arg 24 1) 3 2 = 2 → p.arg 25 1 ≤ 7) ∧ bit (p.arg 24 1) 1 = false ∧ s.work.charged p.fn + p.arg 20 4 ≤ s.work.mapLimit p.fn ∧ (∀ i < p.arg 20 4, s.work.unmapping p.fn (p.arg 12 6 / pageBytes + i) = false
      ∧ s.work.page p.fn (p.arg 12 6 / pageBytes + i) = none) ∧ s.work.deal (placeChans (bits (p.arg 24 1) 3 2) (p.arg 25 1)) (p.arg 20 4) (s.work.sp p.fn).lastChan [] = some (fs, last))
    ∧ (∃ (p : Pkt) (s : State),
      s.starts opMap p = true ∧ p.arg 12 6 % pageBytes = 0 ∧ 0 < p.arg 20 4 ∧ p.arg 12 6 / pageBytes + p.arg 20 4 ≤ 2 ^ 27 ∧ bits (p.arg 24 1) 3 2 ≤ 2 ∧ (bits (p.arg 24 1) 3 2 = 1 → p.arg 25 1 ≤ 3) ∧ (bits (p.arg 24 1) 3 2 = 2 → p.arg 25 1 ≤ 7) ∧ bit (p.arg 24 1) 1 = true ∧ (∀ i < p.arg 20 4, s.work.unmapping p.fn (p.arg 12 6 / pageBytes + i) = false
      ∧ s.work.page p.fn (p.arg 12 6 / pageBytes + i) = none))
    ∧ (∃ (p : Pkt) (s : State),
      s.starts opUnmap p = true ∧ p.arg 12 6 % pageBytes = 0 ∧ 0 < p.arg 20 4 ∧ p.arg 12 6 / pageBytes + p.arg 20 4 ≤ 2 ^ 27 ∧ (∀ i < p.arg 20 4, s.work.unmapping p.fn (p.arg 12 6 / pageBytes + i) = false) ∧ ((s.work.pagesOf p.fn).filter fun q => decide (p.arg 12 6 / pageBytes ≤ q.1)
      && decide (q.1 < p.arg 12 6 / pageBytes + p.arg 20 4)).length = p.arg 20 4 ∧ (∀ x ∈ s.dev.step.steps, x.span = p.fn → x.admitted = false) ∧ (∀ i < p.arg 20 4, (s.work.page p.fn (p.arg 12 6 / pageBytes + i)).isSome = true))
    ∧ (∃ (p : Pkt) (s : State),
      s.starts opUnmap p = true ∧ p.arg 12 6 % pageBytes = 0 ∧ 0 < p.arg 20 4 ∧ p.arg 12 6 / pageBytes + p.arg 20 4 ≤ 2 ^ 27 ∧ (∀ i < p.arg 20 4, s.work.unmapping p.fn (p.arg 12 6 / pageBytes + i) = false) ∧ ((s.work.pagesOf p.fn).filter fun q => decide (p.arg 12 6 / pageBytes ≤ q.1)
      && decide (q.1 < p.arg 12 6 / pageBytes + p.arg 20 4)).length = p.arg 20 4 ∧ (∃ x ∈ s.dev.step.steps, x.span = p.fn ∧ x.admitted = true))
    ∧ (∃ (cmd : Nat) (u : UnmapJob) (s : State),
      s.dev.hbm.unmaps.find? (fun u => u.cmd == cmd) = some u ∧ (∀ x ∈ s.dev.step.steps, x.id ∈ u.steps → x.admitted = false) ∧ u.span < 64) := by
  refine ⟨⟨pk [(12, 6, 281474974613504), (20, 4, 2 ^ 27 - 134217727), (24, 1, 1)], dev joined, [0], some 0, by decide +kernel⟩,
    ⟨pk [(20, 4, 2)], dev joined, [0, 768], some 1, by decide +kernel⟩,
    ⟨pk [(20, 4, 1), (24, 1, 3)], ready, by decide +kernel⟩,
    ⟨pk [(20, 4, 1)], dev (mapped 0 768), by decide +kernel⟩,
    ⟨pk [(20, 4, 1)], dev (mapped 0 768 ∘ withSteps [{ step0 with phase := .compute }]), by decide +kernel⟩,
    ⟨0, { cmd := 0, span := 0, pages := [(0, 1)], steps := [4] }, dev ((fun d => { d with hbm := { d.hbm with unmaps := [{ cmd := 0, span := 0, pages := [(0, 1)], steps := [4] }] } }) ∘ mapped 1 768), by decide +kernel⟩⟩

/-- The hypotheses of `PinHoldsATileOnItsCore` can be met, clause by clause. -/
theorem witness_PinHoldsATileOnItsCore :
    (∃ (p : Pkt) (s : State) (ph : Nat) (pa : Nat → Nat) (wr : Nat → Bool) (cls : Pin),
      s.starts opPin p = true ∧ ((p.arg 24 1 = 1 ∧ cls = .stay) ∨ (p.arg 24 1 = 2 ∧ cls = .hot)) ∧ 0 < p.arg 20 4 ∧ p.arg 20 4 ≤ 2 ^ 27 * 481 ∧ isTileAddr (p.arg 12 6) = true ∧ p.arg 26 2 < 128 ∧ s.work.owner (p.arg 26 2) = p.fn ∧ (∀ i < p.arg 20 4, s.work.locate p.fn (s.work.currentBinds p.fn) (tileAfter (p.arg 12 6) i) = .home (pa i) (wr i)
      ∧ (s.work.tileAt (pa i)).keystoneOk = true ∧ spillAddrs (tileAfter (p.arg 12 6) i) (s.work.tileAt (pa i)) = []
      ∧ s.work.hotAt p.fn (tileAfter (p.arg 12 6) i) = none
      ∧ ∀ e ∈ (s.work.core' (p.arg 26 2)).tiles, e.addr ≠ tileAfter (p.arg 12 6) i) ∧ s.work.physOf (p.arg 26 2) = some ph ∧ (s.work.phys ph).state ≠ .quarantined ∧ s.work.pinsFit (p.arg 26 2) (p.arg 20 4) = true ∧ (s.work.core' (p.arg 26 2)).tiles.length + p.arg 20 4 ≤ s.work.slotsOf (p.arg 26 2))
    ∧ (∃ (p : Pkt) (s : State) (ph : Nat) (pa : Nat) (wr : Bool) (cls : Pin),
      s.starts opPin p = true ∧ ((p.arg 24 1 = 1 ∧ cls = .stay) ∨ (p.arg 24 1 = 2 ∧ cls = .hot)) ∧ p.arg 20 4 = 1 ∧ isTileAddr (p.arg 12 6) = true ∧ p.arg 26 2 < 128 ∧ s.work.owner (p.arg 26 2) = p.fn ∧ s.work.locate p.fn (s.work.currentBinds p.fn) (p.arg 12 6) = .home pa wr ∧ (s.work.tileAt pa).keystoneOk = false ∧ s.work.physOf (p.arg 26 2) = some ph ∧ (s.work.phys ph).state ≠ .quarantined ∧ s.work.pinsFit (p.arg 26 2) 1 = true ∧ (s.work.core' (p.arg 26 2)).tiles.length < s.work.slotsOf (p.arg 26 2) ∧ s.work.hotAt p.fn (p.arg 12 6) = none ∧ (∀ e ∈ (s.work.core' (p.arg 26 2)).tiles, e.addr ≠ p.arg 12 6))
    ∧ (∃ (p : Pkt) (s : State) (ph : Nat),
      s.starts opPin p = true ∧ p.arg 24 1 = 0 ∧ 0 < p.arg 20 4 ∧ p.arg 20 4 ≤ 2 ^ 27 * 481 ∧ isTileAddr (p.arg 12 6) = true ∧ p.arg 26 2 < 128 ∧ s.work.owner (p.arg 26 2) = p.fn ∧ s.work.pinnable p.fn (s.work.currentBinds p.fn) ((List.range (p.arg 20 4)).map (tileAfter (p.arg 12 6))) = true ∧ s.work.physOf (p.arg 26 2) = some ph ∧ (s.work.phys ph).state ≠ .quarantined ∧ s.dev.core.pinJobs = []) := by
  refine ⟨⟨pk [(12, 6, 4352 * 480), (20, 4, 1), (24, 1, 1), (26, 2, 127)], dev (mapped 0 768), 142, fun _ => 768 * 2097152 + 4352 * 480, fun _ => true, .stay, by decide +kernel⟩,
    ⟨pk [(12, 6, 0), (20, 4, 1), (24, 1, 2), (26, 2, 127)], pinDamaged, 142, 768 * 2097152, true, .hot, by exact ⟨by decide +kernel, by decide +kernel, by decide +kernel, by decide +kernel, by decide +kernel, by decide +kernel, by decide +kernel, pinDamaged_bad, by decide +kernel⟩⟩,
    ⟨pk [(12, 6, 0), (20, 4, 1), (24, 1, 0), (26, 2, 127)], dev ((fun d => { d with core := { d.core with cores := [(127, { tiles := [{ addr := 0, slot := 0, state := .clean, pin := .stay, gen := none, refs := 0, age := 0, prefetch := false, data := [] }] })] } }) ∘ mapped 0 768), 142, by decide +kernel⟩⟩

/-- The hypotheses of `MigrationMovesAPageWhole` can be met, clause by clause. -/
theorem witness_MigrationMovesAPageWhole :
    (∃ (p : Pkt) (s : State) (f : Nat) (g : Nat) (e : PageEnt),
      s.starts opMigrate p = true ∧ p.arg 12 6 % pageBytes = 0 ∧ s.work.page p.fn (p.arg 12 6 / pageBytes) = some e ∧ e.frame = some f ∧ s.work.moving (chanOf f) = false ∧ chanOf f ≠ p.arg 18 1 ∧ s.work.chanUsable (p.arg 18 1) = true ∧ s.work.frameIn (p.arg 18 1) .free = some g)
    ∧ (∃ (c : Nat) (o : Nat) (n : Nat) (vp : Nat) (s : State),
      s.work.page n vp = none)
    ∧ (∃ (o : Nat) (k : Nat) (ok : Nat) (n : Nat) (vp : Nat) (f : Nat) (g : Nat) (e : PageEnt) (s : State),
      s.work.page n vp = some e ∧ e.frame = some f ∧ k ≠ chanOf f ∧ bit (s.work.regv 0 0x5004) 0 = true ∧ bits (s.work.regv 0 0x5004) 23 16 = 0 ∧ ok < 50 ∧ bits (s.work.regv 0 0x5004) 15 8 + 80 < o ∧ 7 ≤ (s.work.chan (chanOf f)).highWindows ∧ s.work.moving (chanOf f) = false ∧ s.work.chanUsable k = true ∧ s.work.frameIn k .free = some g)
    ∧ (∃ (n : Nat) (vp : Nat) (m : PageMove) (e : PageEnt) (s : State),
      s.MemWf ∧ n < 64 ∧ vp < 2 ^ 27 ∧ s.dev.hbm.moves.find? (fun m => m.span == n && m.page == vp && !m.flipped) = some m ∧ s.dev.hbm.moves.find? (fun k => chanOf k.old == chanOf m.old && !k.flipped) = some m ∧ s.work.page n vp = some e)
    ∧ (∃ (n : Nat) (vp : Nat) (m : PageMove) (s : State),
      m.evac = true ∧ s.dev.hbm.moves.find? (fun m => m.span == n && m.page == vp && !m.flipped) = some m ∧ s.dev.hbm.moves.find? (fun k => chanOf k.old == chanOf m.old && !k.flipped) = some m)
    ∧ (∃ (n : Nat) (vp : Nat) (m : PageMove) (s : State),
      s.dev.hbm.moves.find? (fun m => m.span == n && m.page == vp && m.flipped) = some m) := by
  refine ⟨⟨pk [(12, 6, (2 ^ 27 - 1) * 2097152), (18, 1, 1)], dev (mapped (2 ^ 27 - 1) 3 ∘ joined), 3, 768, { frame := some 3, writable := true, deck := false, gone := false }, by decide +kernel⟩,
    ⟨255, 100, 0, 0, ready, by decide +kernel⟩,
    ⟨81, 1, 49, 0, 0, 3, 768, { frame := some 3, writable := true, deck := false, gone := false }, dev (mapped 0 3 ∘ (fun d => { d with hbm := { d.hbm with chans := [(0, { Chan.atReset with highWindows := 7 })] } }) ∘ joined ∘ withRegs [(0x5004, 1#32)]), by decide +kernel⟩,
    ⟨0, 0, move false, { frame := some 3, writable := true, deck := false, gone := false }, { dev (moving false) with mem := [(3 * 2097152 + 2097151, 1)] }, by simp only [State.MemWf]; decide +kernel⟩,
    ⟨0, 0, { move false with evac := true }, dev ((fun d => { d with hbm := { d.hbm with moves := [{ move false with evac := true }] } }) ∘ moving false), by decide +kernel⟩,
    ⟨0, 0, move true, dev (moving true), by decide +kernel⟩⟩

/-- The hypotheses of `ScrubsCountPoisonAndClear` can be met, clause by clause. -/
theorem witness_ScrubsCountPoisonAndClear :
    (∃ (c : Nat) (f : Nat) (i : Nat) (s : State),
      c < 256 ∧ f < 768 ∧ i < 481)
    ∧ (∃ (c : Nat) (f : Nat) (i : Nat) (s : State),
      c < 256 ∧ f < 768 ∧ i < 481)
    ∧ (∃ (c : Nat) (low : Bool) (ends : RetrainEnd) (s : State),
      c < 256 ∧ bit (s.work.regv 0 0x5008) 0 = true ∧ (s.work.chan c).state = .inService)
    ∧ (∃ (c : Nat) (low : Bool) (ends : RetrainEnd) (s : State),
      c < 256 ∧ bit (s.work.regv 0 0x5008) 0 = true ∧ (s.work.chan c).state = .inService)
    ∧ (∃ (f : Nat) (s : State),
      f < 196608 ∧ s.work.frame f = .scrubWait ∧ s.work.chanUsable (chanOf f) = true) := by
  refine ⟨⟨255, 767, 480, ready, by decide +kernel⟩,
    ⟨0, 3, 480, dev (mapped 0 3), by decide +kernel⟩,
    ⟨255, true, ⟨false, false, 0⟩, dev (withRegs [(0x5008, 1#32)]), by decide +kernel⟩,
    ⟨255, false, ⟨true, true, 1⟩, dev (withRegs [(0x5008, 1#32)]), by decide +kernel⟩,
    ⟨1, { dev joined with mem := [(2097153, 9#8)] }, by decide +kernel⟩⟩

/-- The hypotheses of `WindowReadsAndWritesItsPage` can be met, clause by clause. -/
theorem witness_WindowReadsAndWritesItsPage :
    (∃ (fn : Nat) (off : Nat) (len : Nat) (s : State),
      s.work.busUp = true ∧ s.work.window fn off = none)
    ∧ (∃ (fn : Nat) (off : Nat) (len : Nat) (n : Nat) (va : Nat) (f : Nat) (e : PageEnt) (s : State),
      s.work.busUp = true ∧ s.work.window fn off = some (n, va) ∧ va % pageBytes + len ≤ pageBytes ∧ s.work.page n (va / pageBytes) = some e ∧ e.deck = false ∧ e.frame = some f ∧ s.work.windowGone n (va / pageBytes) = false ∧ va < 2 ^ 48)
    ∧ (∃ (fn : Nat) (off : Nat) (n : Nat) (va : Nat) (f : Nat) (bs : List Byte) (e : PageEnt) (s : State),
      s.work.busUp = true ∧ s.work.window fn off = some (n, va) ∧ va % pageBytes + bs.length ≤ pageBytes ∧ s.work.page n (va / pageBytes) = some e ∧ e.deck = false ∧ e.writable = true ∧ e.frame = some f ∧ s.work.windowGone n (va / pageBytes) = false ∧ va < 2 ^ 48 ∧ s.work.traceOf n = none)
    ∧ (∃ (fn : Nat) (off : Nat) (n : Nat) (va : Nat) (bs : List Byte) (e : PageEnt) (s : State),
      s.work.busUp = true ∧ bs ≠ [] ∧ s.work.window fn off = some (n, va) ∧ va % pageBytes + bs.length ≤ pageBytes ∧ s.work.page n (va / pageBytes) = some e ∧ e.writable = false) := by
  refine ⟨⟨63, 0, 3, ready, by decide +kernel⟩,
    ⟨0, 2097148, 4, 0, 2097148, 3, { frame := some 3, writable := true, deck := false, gone := false }, dev (mapped 0 3 ∘ withRegs [(0x303C, 0x80000000#32)]), by decide +kernel⟩,
    ⟨0, 2097148, 0, 2097148, 3, [1, 2, 3, 4], { frame := some 3, writable := true, deck := false, gone := false }, dev (mapped 0 3 ∘ withRegs [(0x303C, 0x80000000#32)]), by decide +kernel⟩,
    ⟨0, 2097148, 0, 2097148, [1, 2, 3, 4], { frame := none, writable := false, deck := true, gone := false }, dev (deckPage 0 ∘ withRegs [(0x303C, 0x80000000#32)]), by decide +kernel⟩⟩

/-- The hypotheses of `DeckLoadStartsAndCompletes` can be met, clause by clause. -/
theorem witness_DeckLoadStartsAndCompletes :
    (∃ (p : Pkt) (s : State) (fs : List Nat) (win : Nat),
      s.starts opDeckLoad p = true ∧ deckFieldsOk p.block = true ∧ win = (s.work.slot p.fn (rd p.block 0 1)).window.getD (rd p.block 24 6) ∧ win % pageBytes = 0 ∧ (s.work.slot p.fn (rd p.block 0 1)).staged = none ∧ (s.work.slot p.fn (rd p.block 0 1)).load = none ∧ s.work.keyUsable p.fn (rd p.block 2 2) = true ∧ 0 < s.work.windowSize p.fn (rd p.block 0 1) win ∧ rd p.block 8 4 ≤ s.work.windowSize p.fn (rd p.block 0 1) win * pageTiles ∧ (bit (rd p.block 4 1) 3 = true → ∀ i ∈ s.dev.deck.images, i.kept = false ∨ i.digest ≠ BitVec.ofNat 256 (rd p.block 32 32)) ∧ s.dev.deck.images.length < 32 ∧ s.work.charged p.fn + ceilDiv (rd p.block 8 4) pageTiles ≤ s.work.mapLimit p.fn ∧ s.work.takeFrames (ceilDiv (rd p.block 8 4) pageTiles) = some fs)
    ∧ (∃ (p : Pkt) (s : State) (im : Image) (win : Nat),
      s.starts opDeckLoad p = true ∧ deckFieldsOk p.block = true ∧ win = (s.work.slot p.fn (rd p.block 0 1)).window.getD (rd p.block 24 6) ∧ win % pageBytes = 0 ∧ (s.work.slot p.fn (rd p.block 0 1)).staged = none ∧ (s.work.slot p.fn (rd p.block 0 1)).load = none ∧ s.work.keyUsable p.fn (rd p.block 2 2) = true ∧ im.tiles ≤ s.work.windowSize p.fn (rd p.block 0 1) win * pageTiles ∧ 0 < s.work.windowSize p.fn (rd p.block 0 1) win ∧ rd p.block 8 4 ≤ s.work.windowSize p.fn (rd p.block 0 1) win * pageTiles ∧ bit (rd p.block 4 1) 3 = true ∧ s.dev.deck.images.find? (fun i => i.kept && i.digest == BitVec.ofNat 256 (rd p.block 32 32) && (i.owner == p.fn || i.shareable))
      = some im)
    ∧ (∃ (i : Nat) (tiles : List Tile) (ts : List Tile) (under : BitVec 512) (l : DeckLoad) (im : Image) (s : State),
      s.dev.deck.loads.find? (fun l => l.image == i) = some l ∧ s.work.image i = some im ∧ tiles.length = im.tiles ∧ ((s.work.sp l.span).stopHost = false ∨ im.source ≠ 0) ∧ ts = decrypted (s.work.keySlot im.key).key under 0 tiles ∧ (∀ x ∈ ts, x.keystoneOk = true) ∧ (l.expect = none ∨ l.expect = some (deckDigest ts)))
    ∧ (∃ (i : Nat) (tiles : List Tile) (ts : List Tile) (under : BitVec 512) (l : DeckLoad) (im : Image) (s : State),
      s.dev.deck.loads.find? (fun l => l.image == i) = some l ∧ s.work.image i = some im ∧ tiles.length = im.tiles ∧ ((s.work.sp l.span).stopHost = false ∨ im.source ≠ 0) ∧ ts = decrypted (s.work.keySlot im.key).key under 0 tiles ∧ ((∃ x ∈ ts, x.keystoneOk = false) ∨ ∃ d, l.expect = some d ∧ d ≠ deckDigest ts)) := by
  refine ⟨⟨pk [(56, 8, 4096)] 1 (blk 64 [(0, 1, 15), (8, 4, 481)]), dev (deckPage 0 ∘ joined ∘ withKey), [0], 0, by decide +kernel⟩,
    ⟨pk [(56, 8, 4096)] 1 (blk 64 [(0, 1, 15), (4, 1, 8), (8, 4, 1)]), dev ((fun d => { d with deck := { d.deck with images := [{ image0 with kept := true, preserve := true }] } }) ∘ deckPage 0 ∘ joined ∘ withKey), { image0 with kept := true, preserve := true }, 0, by decide +kernel⟩,
    ⟨0, [[]], [[]], 0#512, load0, image0, loading0, by decide +kernel⟩,
    ⟨0, twins, twins, 0#512, load0, { image0 with tiles := 2 }, dev ((fun d => { d with deck := { d.deck with loads := [load0], images := [{ image0 with tiles := 2 }] } }) ∘ withSlots [(0, { load := some 0, window := some 0, pages := 1 })] ∘ withCmds [0]), by exact ⟨by decide +kernel, by decide +kernel, by decide +kernel, by decide +kernel, by decide +kernel, .inl twins_bad⟩⟩⟩

/-- The hypotheses of `DeckSwitchRetireAndRelease` can be met, clause by clause. -/
theorem witness_DeckSwitchRetireAndRelease :
    (∃ (p : Pkt) (s : State) (b : Nat) (im : Image),
      s.starts opDeckSwitch p = true ∧ p.arg 12 1 ≤ 15 ∧ ((BitVec.ofNat 256 (p.arg 16 32) = 0#256 ∧ (s.work.slot p.fn (p.arg 12 1)).staged.bind (fun i => s.work.image i) = some im)
      ∨ (BitVec.ofNat 256 (p.arg 16 32) ≠ 0#256 ∧ s.dev.deck.images.find? (fun i => i.digest == BitVec.ofNat 256 (p.arg 16 32)
      && !i.loading && (i.shareable || i.owner == p.fn)) = some im)) ∧ (s.work.slot p.fn (p.arg 12 1)).load = none ∧ (s.work.slot p.fn (p.arg 12 1)).waiting = none ∧ ((s.work.slot p.fn (p.arg 12 1)).window = some b
      ∨ ((s.work.slot p.fn (p.arg 12 1)).window = none ∧ p.arg 48 6 ≠ 0 ∧ b = p.arg 48 6)) ∧ b % pageBytes = 0 ∧ im.tiles ≤ s.work.windowSize p.fn (p.arg 12 1) b * pageTiles ∧ s.work.olderHeld p.fn (p.arg 12 1) = false)
    ∧ (∃ (n : Nat) (k : Nat) (c : Nat) (i : Nat) (s : State),
      (s.work.slot n k).waiting = some (c, i) ∧ s.work.olderFree n k = true)
    ∧ (∃ (p : Pkt) (s : State),
      s.starts opDeckRetire p = true ∧ p.arg 12 1 ≤ 15) := by
  refine ⟨⟨pk [(12, 1, 15)], dev (deckPage 0 ∘ withImage ∘ withSlots [(15, { gen := 65535, current := some 7, staged := some 0, window := some 0, pages := 1 })]), 0, image0, by decide +kernel⟩,
    ⟨0, 15, 0, 0, dev (withImage ∘ withSlots [(15, { gen := 65535, waiting := some (0, 0) })] ∘ withCmds [0]), by decide +kernel⟩,
    ⟨pk [(12, 1, 15)], dev (withSlots [(15, { gen := 65535, window := some 0, pages := 1 })]), by decide +kernel⟩⟩

/-- The hypotheses of `RefetchedDeckTileIsKept` can be met, clause by clause. -/
theorem witness_RefetchedDeckTileIsKept :
    (∃ (i : Nat) (k : Nat) (x : Tile) (y : Tile) (under : BitVec 512) (im : Image) (s : State),
      s.work.image i = some im ∧ s.work.entsDeck i k ≠ [] ∧ ((s.work.sp im.owner).stopHost = false ∨ im.source ≠ 0) ∧ (decrypted (s.work.keySlot im.key).key under k [x]).head? = some y ∧ y.keystoneOk = true ∧ im.norefetch = false ∧ k ∉ im.bad ∧ k ∉ im.refetched ∧ s.work.imageKeyHeld im = true)
    ∧ (∃ (i : Nat) (k : Nat) (im : Image) (s : State),
      s.work.image i = some im ∧ s.work.entsDeck i k ≠ [] ∧ ((s.work.sp im.owner).stopHost = false ∨ im.source ≠ 0) ∧ k ∉ im.bad) := by
  refine ⟨⟨0, 0, [], [], 3#512, image0, dev (withImage ∘ withKey ∘ withSlots [(0, { gen := 1, current := some 0, window := some 0, pages := 1 })] ∘ deckPage 0 ∘ holding 127 [ent 0 .fetching .none (some 1)] ∘ withSteps [{ step0 with phase := .compute, tasks := [task0 (some 127) (.waitFetch 0 (some 1))] }]), by decide +kernel⟩,
    ⟨0, 0, image0, dev (withImage ∘ withKey ∘ withSlots [(0, { gen := 1, current := some 0, window := some 0, pages := 1 })] ∘ deckPage 0 ∘ holding 127 [ent 0 .fetching .none (some 1)] ∘ withSteps [{ step0 with phase := .compute, tasks := [task0 (some 127) (.waitFetch 0 (some 1))] }]), by decide +kernel⟩⟩

/-- The hypotheses of `AdapterLoadAndContract` can be met, clause by clause. -/
theorem witness_AdapterLoadAndContract :
    (∃ (p : Pkt) (s : State) (sites : List Site) (h : Nat) (k : Nat),
      s.starts opAdapterLoad p = true ∧ adapterFieldsOk p.block = true ∧ (rd p.block 74 1 = 0 ∨ s.work.keyUsable p.fn (rd p.block 72 2) = true) ∧ s.work.readSites p.fn (rd p.block 88 6) (rd p.block 68 2) = .ok sites ∧ sites ≠ [] ∧ sitesRise sites = true ∧ (∀ x ∈ sites, isTileAddr x.wAddr = true ∧ isTileAddr x.addrA = true ∧ isTileAddr x.addrB = true
      ∧ (s.work.slotAt p.fn (x.wAddr / pageBytes)).map (·.1) = some k) ∧ (∀ x ∈ sites, ∀ va ∈ x.factors (rd p.block 64 1) (rd p.block 66 2), s.work.writeFault p.fn va = none) ∧ s.dev.deck.adapters.length < 16384 ∧ (List.range 16384).find? (fun h => !(s.dev.deck.adapters.any fun a => a.handle == h)) = some h)
    ∧ (∃ (h : Nat) (id : Nat) (tiles : List Tile) (ts : List Tile) (under : BitVec 512) (a : Adapter) (s : State),
      s.work.adapter h = some a ∧ a.loading = some id ∧ a.source ≠ 0 ∧ tiles.length = a.factors.length ∧ ((s.work.sp a.span).stopHost = false ∨ a.source ≠ 1) ∧ ts = decrypted (s.work.keySlot a.key).key under 0 tiles ∧ (∀ x ∈ ts, x.keystoneOk = true))
    ∧ (∃ (p : Pkt) (s : State) (a : Adapter),
      s.starts opAdapterContract p = true ∧ s.work.adapter (p.arg 12 2) = some a ∧ a.loading = none ∧ (p.fn = 0 ∨ p.fn = a.span) ∧ p.arg 14 1 ≤ 2 ∧ ¬ (p.arg 14 1 = 2 ∧ a.source = 0) ∧ (BitVec.ofNat 256 (p.arg 16 32) = 0#256 ∨ s.work.adapterCount (p.arg 12 2) = 0))
    ∧ (∃ (h : Nat) (tiles : List Tile) (ts : List Tile) (under : BitVec 512) (a : Adapter) (s : State),
      s.work.adapter h = some a ∧ a.loading = none ∧ (∃ x ∈ s.dev.step.steps, x.phase ≠ .ended ∧ h ∈ x.reloads) ∧ tiles.length = a.factors.length ∧ ((s.work.sp a.span).stopHost = false ∨ a.source ≠ 1) ∧ s.work.keyUsable a.span a.key = true ∧ s.work.keyHandle a.key = a.keyed ∧ ts = decrypted (s.work.keySlot a.key).key under 0 tiles ∧ (∀ x ∈ ts, x.keystoneOk = true) ∧ deckDigest ts = a.digest) := by
  refine ⟨⟨pk [(56, 8, 4096)] 1 adapterBlock, sites0, [site0], 0, 0, by
      refine ⟨by decide +kernel, by decide +kernel, by decide +kernel, sites0_read, by decide +kernel, by decide +kernel, by decide +kernel,
      (by decide +kernel : ∀ x ∈ [site0], ∀ va ∈ x.factors (rd adapterBlock 64 1) (rd adapterBlock 66 2), sites0.work.writeFault 0 va = none),
      by decide +kernel, by decide +kernel⟩⟩,
    ⟨0, 0, [[], []], [[], []], 0#512, { adapter0 with loading := some 0, valid := false }, dev (withAdapters [{ adapter0 with loading := some 0, valid := false }] ∘ withCmds [0]), by exact ⟨by rfl, by rfl, by decide +kernel⟩⟩,
    ⟨pk [(12, 2, 0), (14, 1, 2), (16, 32, 5)], dev (withAdapters [adapter0]), adapter0, by exact ⟨by decide +kernel, by rfl, by rfl, by decide +kernel⟩⟩,
    ⟨0, [[], []], [[], []], 3#512, { adapter0 with cls := 2, valid := false }, dev (withAdapters [{ adapter0 with cls := 2, valid := false }] ∘ withSteps [{ step0 with reloads := [0] }] ∘ withKey), by exact ⟨by rfl, by rfl, by decide +kernel, by decide +kernel, by decide +kernel, by decide +kernel, by decide +kernel, by decide +kernel, by decide +kernel, by rfl⟩⟩⟩

/-- The hypotheses of `AdaptersLeaveAndGraceExpires` can be met, clause by clause. -/
theorem witness_AdaptersLeaveAndGraceExpires :
    (∃ (p : Pkt) (s : State) (a : Adapter),
      s.starts opAdapterEvict p = true ∧ s.work.adapter (p.arg 12 2) = some a ∧ a.loading = none ∧ (p.fn = 0 ∨ p.fn = a.span) ∧ a.cls ≠ 0 ∧ s.work.adapterCount (p.arg 12 2) = 0 ∧ a.evicting = false ∧ (∀ x ∈ s.dev.step.steps, x.span = a.span → x.admitted = false))
    ∧ (∃ (p : Pkt) (s : State) (a : Adapter),
      s.starts opAdapterEvict p = true ∧ s.work.adapter (p.arg 12 2) = some a ∧ a.loading = none ∧ (p.fn = 0 ∨ p.fn = a.span) ∧ a.cls ≠ 0 ∧ (∃ x ∈ s.dev.step.steps, x.span = a.span ∧ x.admitted = true))
    ∧ (∃ (p : Pkt) (s : State) (a : Adapter),
      s.starts opAdapterEvict p = true ∧ s.work.adapter (p.arg 12 2) = some a ∧ a.loading = none ∧ (p.fn = 0 ∨ p.fn = a.span) ∧ a.cls = 0)
    ∧ (∃ (h : Nat) (a : Adapter) (s : State),
      s.work.adapter h = some a ∧ a.loading = none ∧ a.evicting = true ∧ (∀ x ∈ s.dev.step.steps, x.id ∈ a.boundary → x.admitted = false) ∧ (s.work.adapterCount h = 0 ∨ a.force = true))
    ∧ (∃ (n : Nat) (id : Nat) (r : OpenReq) (s : State),
      s.work.request n id = some r ∧ r.grace = true) := by
  refine ⟨⟨pk [(12, 2, 0)], dev (withAdapters [adapter0]), adapter0, by exact ⟨by decide +kernel, by rfl, by rfl, by decide +kernel, by decide +kernel, by decide +kernel, by rfl, by decide +kernel⟩⟩,
    ⟨pk [(12, 2, 0)], dev (withAdapters [adapter0] ∘ withSteps [{ step0 with phase := .compute }]), adapter0, by exact ⟨by decide +kernel, by rfl, by rfl, by decide +kernel, by decide +kernel, by decide +kernel⟩⟩,
    ⟨pk [(12, 2, 0)], dev (withAdapters [{ adapter0 with cls := 0 }]), { adapter0 with cls := 0 }, by exact ⟨by decide +kernel, by rfl, by rfl, by decide +kernel, by rfl⟩⟩,
    ⟨0, { adapter0 with evicting := true }, dev (withAdapters [{ adapter0 with evicting := true }]), by exact ⟨by rfl, by rfl, by rfl, by decide +kernel, by decide +kernel⟩⟩,
    ⟨0, 4294967295, request0, dev fun d => { d with deck := { d.deck with requests := [request0] } }, by decide +kernel⟩⟩

/-- The hypotheses of `ProgramsLoadPlanAndUnload` can be met, clause by clause. -/
theorem witness_ProgramsLoadPlanAndUnload :
    (∃ (p : Pkt) (s : State) (q : Program),
      s.starts opProgramLoad p = true ∧ parseProgram p.fn (s.work.freeHandle p.fn) (padTo (p.arg 24 4) p.block) = some q ∧ s.work.loadFault p.fn (padTo (p.arg 24 4) p.block) (p.arg 24 4) (some q) = none)
    ∧ (∃ (p : Pkt) (s : State) (st : Status),
      s.starts opProgramLoad p = true ∧ s.work.loadFault p.fn (padTo (p.arg 24 4) p.block) (p.arg 24 4)
      (parseProgram p.fn (s.work.freeHandle p.fn) (padTo (p.arg 24 4) p.block)) = some st)
    ∧ (∃ (p : Pkt) (s : State) (q : Program) (sc : List (List SchedRange)),
      s.starts opPrefetchPlan p = true ∧ p.arg 24 4 ≤ 2 ^ 24 ∧ s.work.program p.fn (p.arg 12 1) = some q ∧ parseSched (padTo (p.arg 24 4) p.block) 0 (p.arg 24 4) q.tasks.length (q.tasks.map (·.layer0)) true = some sc)
    ∧ (∃ (p : Pkt) (s : State) (q : Program),
      s.starts opProgramUnload p = true ∧ s.work.program p.fn (p.arg 12 1) = some q ∧ (∀ x ∈ s.dev.step.steps, x.span = p.fn → x.handle = p.arg 12 1 → x.admitted = false)) := by
  refine ⟨⟨pk [(24, 4, 112)] 0 imageBytes, ready, prog0, by decide +kernel⟩,
    ⟨pk [(24, 4, 111)] 0 imageBytes, ready, .refusedFormat, by decide +kernel⟩,
    ⟨pk [(24, 4, 40)] 0 (blk 40 [(0, 4, 1), (4, 4, 1), (20, 4, 1), (24, 6, 2097152 + 4352 * 480), (32, 4, 1)]), dev (withProgram prog0), prog0, [[{ addr := 2097152 + 4352 * 480, task := 0, tiles := 1 }]], by decide +kernel⟩,
    ⟨pk [], dev (withProgram prog0), prog0, by decide +kernel⟩⟩

/-- The hypotheses of `StepsAreReadAndCancelled` can be met, clause by clause. -/
theorem witness_StepsAreReadAndCancelled :
    (∃ (p : Pkt) (s : State),
      s.starts opStepSubmit p = true ∧ s.work.activating = false)
    ∧ (∃ (p : Pkt) (s : State),
      s.work.activating = true)
    ∧ (∃ (p : Pkt) (s : State),
      s.starts opStepCancel p = true ∧ 15 < p.arg 12 1)
    ∧ (∃ (p : Pkt) (s : State) (x : Step),
      s.starts opStepCancel p = true ∧ p.arg 12 1 ≤ 15 ∧ (s.work.ringSteps p.fn (p.arg 12 1)).find? (fun x => x.seq == p.arg 16 3 && (x.phase == .read || x.phase == .staged))
      = some x ∧ s.work.stepOf x.id = some x)
    ∧ (∃ (p : Pkt) (s : State),
      s.starts opStepCancel p = true ∧ p.arg 12 1 ≤ 15 ∧ (∀ x ∈ s.dev.step.steps, x.span = p.fn → x.ring = p.arg 12 1 → x.seq = p.arg 16 3 →
      x.phase ≠ .read ∧ x.phase ≠ .staged)) := by
  refine ⟨⟨pk [(12, 1, 255), (13, 1, 1), (16, 8, 2 ^ 64 - 1)], ready, by decide +kernel⟩,
    ⟨pk [], dev (fw fun f => { f with act := 1, actCmd := some none }), by decide +kernel⟩,
    ⟨pk [(12, 1, 16)], ready, by decide +kernel⟩,
    ⟨pk [(12, 1, 0), (16, 3, 9)], dev (withSteps [step0] ∘ withCmds [0]), step0, by decide +kernel⟩,
    ⟨pk [(12, 1, 15), (16, 3, 9)], dev (withSteps [step0] ∘ withCmds [0]), by decide +kernel⟩⟩

/-- The hypotheses of `AdmissionStartsComputePhase` can be met, clause by clause. -/
theorem witness_AdmissionStartsComputePhase :
    (∃ (n : Nat) (r : Nat) (x : Step) (a : Admission) (s : State),
      s.work.admitPick n = some r ∧ (s.work.sched n r).evalDue = none ∧ s.work.ringHead n r = some x ∧ s.work.admitCheck x = .ok a ∧ s.work.coldOnes a = [])
    ∧ (∃ (n : Nat) (r : Nat) (x : Step) (st : Status) (d : Detail) (rs : List ReqEntry) (s : State),
      s.work.admitPick n = some r ∧ (s.work.sched n r).evalDue = none ∧ s.work.ringHead n r = some x ∧ s.work.stepOf x.id = some x ∧ s.work.admitCheck x = .error (st, d, rs)) := by
  refine ⟨⟨0, 0, step0, okOf ((dev (withProgram prog0 ∘ withSteps [step0] ∘ withCmds [0])).work.admitCheck step0) (by decide +kernel), dev (withProgram prog0 ∘ withSteps [step0] ∘ withCmds [0]), by exact ⟨by decide +kernel, by decide +kernel, by decide +kernel, okOf_eq _ _, by decide +kernel⟩⟩,
    ⟨0, 0, step0, .refusedFormat, .none, [], dev (withSteps [step0] ∘ withCmds [0]), by exact ⟨by decide +kernel, by decide +kernel, by decide +kernel, by decide +kernel, by rfl⟩⟩⟩

/-- The hypotheses of `PlacementStagingAndPrefetch` can be met, clause by clause. -/
theorem witness_PlacementStagingAndPrefetch :
    (∃ (id : Nat) (i : Nat) (l : Nat) (x : Step) (p : Program) (d : TaskDef) (s : State),
      s.work.stepOf id = some x ∧ x.phase = .compute ∧ s.work.afterSecuring x = false ∧ (x.tasks.find? fun t => t.core.isNone && !t.ended).map (·.idx) = some i ∧ s.work.program x.span x.handle = some p ∧ p.tasks[i]? = some d ∧ s.work.chooseCore x.span p x.sched x.binds
      ((x.homes.find? fun h => h.1 == i).map (·.2)) i d [] = some l)
    ∧ (∃ (n : Nat) (r : Nat) (x : Step) (p : Program) (s : State),
      s.work.ringHead n r = some x ∧ s.work.program n x.handle = some p ∧ s.work.serving = true ∧ x.phase = .read ∧ (∃ y ∈ s.work.ringSteps n r, y.phase = .compute) ∧ (s.work.sp n).mode = .active ∧ (s.work.sp n).stopped = false ∧ (s.work.sp n).freezing = none)
    ∧ (∃ (id : Nat) (k : Nat) (l : Nat) (va : Nat) (pa : Nat) (wr : Bool) (x : Step) (p : Program) (q : Task) (s : State),
      s.work.stepOf id = some x ∧ s.work.program x.span x.handle = some p ∧ x.phase = .compute ∧ x.tasks = [q] ∧ q.core = some l ∧ q.ended = false ∧ ((p.tasks[q.idx]?).map (·.layer0)).getD 0 ≤ k ∧ 0 < s.work.depth p l ∧ runTiles (schedRuns x.sched k 1 q.idx) = [va] ∧ s.work.hidden x (va / pageBytes) = false ∧ isTileAddr va = true ∧ s.work.locate x.span x.binds va = .home pa wr ∧ s.work.hotAt x.span va = none ∧ (∀ e ∈ (s.work.core' l).tiles, e.addr ≠ va ∧ e.state ≠ .fetching) ∧ (s.work.core' l).tiles.length < s.work.slotsOf l) := by
  refine ⟨⟨0, 0, 0, { step0 with phase := .compute, tasks := [task0 none] }, progOf [], { contexts := 1, tokens := 1, layer0 := 0, streams := [[]] }, dev (withProgram (progOf []) ∘ withSteps [{ step0 with phase := .compute, tasks := [task0 none] }]), by decide +kernel⟩,
    ⟨0, 0, step0, prog0, dev (withProgram prog0 ∘ withSteps [{ step0 with id := 5, phase := .compute }, step0]), by decide +kernel⟩,
    ⟨0, 0, 0, 4352 * 480, 4352 * 480, true, { step0 with phase := .compute, tasks := [task0], sched := [[{ addr := 4352 * 480, task := 0, tiles := 1 }]] }, { prog0 with pfDepth := 8 }, task0, dev (withProgram { prog0 with pfDepth := 8 } ∘ mapped 0 0 ∘ withRegs [(0x5000, 0x8888#32)] ∘ withSteps [{ step0 with phase := .compute, tasks := [task0], sched := [[{ addr := 4352 * 480, task := 0, tiles := 1 }]] }]), by decide +kernel⟩⟩

/-- The hypotheses of `DescriptorAndFetchComplete` can be met, clause by clause. -/
theorem witness_DescriptorAndFetchComplete :
    (∃ (r : CtxRef) (q : Nat) (va : Nat) (y : Tile) (f : InFlight) (x : Step) (s : State),
      s.dev.step.inflight.find? (fun f => f.step == r.step && f.task == r.task && f.ctx == r.ctx && f.dseq == q) = some f ∧ s.work.stepOf r.step = some x ∧ x.aborting = none ∧ f.fail = none ∧ f.look = none ∧ f.remote = 0 ∧ f.gets = [] ∧ f.coll = none ∧ f.sig = none ∧ f.writes = [(va, y)] ∧ f.parts = [] ∧ s.work.hotAt x.span va = none ∧ s.work.roomFor f.core [va] = true ∧ s.dev.core.pinJobs = [])
    ∧ (∃ (r : CtxRef) (q : Nat) (k : Nat) (v : Nat) (f : InFlight) (x : Step) (d : Task) (s : State),
      s.dev.step.inflight.find? (fun f => f.step == r.step && f.task == r.task && f.ctx == r.ctx && f.dseq == q) = some f ∧ s.work.stepOf r.step = some x ∧ x.aborting = none ∧ f.fail = none ∧ f.look = none ∧ f.remote = 0 ∧ f.gets = [] ∧ f.coll = none ∧ f.sig = some k ∧ f.writes = [] ∧ (x.tasks.find? fun t => t.idx == r.task) = some d ∧ d.tokens[k]? = some v ∧ v < 65535 ∧ s.dev.core.pinJobs = [])
    ∧ (∃ (r : CtxRef) (q : Nat) (f : InFlight) (x : Step) (s : State),
      s.dev.step.inflight.find? (fun f => f.step == r.step && f.task == r.task && f.ctx == r.ctx && f.dseq == q) = some f ∧ s.work.stepOf r.step = some x ∧ x.aborting.isSome = true ∧ f.fail = none ∧ (f.attn = true ∨ f.engine = .matrix) ∧ s.dev.core.pinJobs = [])
    ∧ (∃ (l : Nat) (va : Nat) (pa : Nat) (gen : Option Nat) (e : TileEnt) (s : State),
      s.work.ent l va gen = some e ∧ e.state = .fetching ∧ (s.work.core' l).outstanding e = true ∧ s.work.fetchSource (s.work.owner l) va gen = some pa ∧ (s.work.tileAt pa).keystoneOk = true ∧ spillAddrs va (s.work.tileAt pa) = [] ∧ (∀ g, gen = some g → (s.work.tileAt pa).poison = false ∧ ∀ i k im, s.work.deckTile (s.work.owner l) va g = some (i, k) →
      s.work.image i = some im → k ∉ im.bad) ∧ s.dev.core.pinJobs = []) := by
  refine ⟨⟨⟨0, 0, 0, []⟩, 0, 4352, [], flight0, { step0 with phase := .compute, tasks := [task0] }, dev ((fun d => { d with step := { d.step with inflight := [flight0] } }) ∘ mapped 0 0 ∘ withProgram prog0 ∘ withSteps [{ step0 with phase := .compute, tasks := [task0] }]), by decide +kernel⟩,
    ⟨⟨0, 0, 0, []⟩, 0, 0, 65534, { flight0 with writes := [], sig := some 0 }, { step0 with phase := .compute, tasks := [{ task0 with tokens := [65534] }] }, { task0 with tokens := [65534] }, dev ((fun d => { d with step := { d.step with inflight := [{ flight0 with writes := [], sig := some 0 }] } }) ∘ mapped 0 0 ∘ withProgram prog0 ∘ withSteps [{ step0 with phase := .compute, tasks := [{ task0 with tokens := [65534] }] }]), by decide +kernel⟩,
    ⟨⟨0, 0, 0, []⟩, 0, { flight0 with writes := [], parts := [], engine := .matrix }, { step0 with phase := .compute, tasks := [task0], aborting := some 7 }, dev ((fun d => { d with step := { d.step with inflight := [{ flight0 with writes := [], parts := [], engine := .matrix }] } }) ∘ mapped 0 0 ∘ withProgram prog0 ∘ withSteps [{ step0 with phase := .compute, tasks := [task0], aborting := some 7 }]), by decide +kernel⟩,
    ⟨127, 4352 * 480, 4352 * 480, none, ent (4352 * 480) .fetching, dev (holding 127 [ent (4352 * 480) .fetching] ∘ mapped 0 0), by exact ⟨by decide +kernel, by decide +kernel, by decide +kernel, by decide +kernel, by decide +kernel, by decide +kernel, (fun _ h => by cases h), by decide +kernel⟩⟩⟩

/-- The hypotheses of `ComputePhaseEndsAndCommits` can be met, clause by clause. -/
theorem witness_ComputePhaseEndsAndCommits :
    (∃ (id : Nat) (x : Step) (s : State),
      s.work.stepOf id = some x ∧ x.phase = .compute ∧ (∀ q ∈ x.tasks, q.ended = true) ∧ (∀ f ∈ s.dev.step.inflight, f.step ≠ id) ∧ (∀ k ∈ x.tickets, k.update = false) ∧ (∀ y ∈ s.dev.step.steps, y.phase ≠ .commit ∧ (y.id = id → y = x)))
    ∧ (∃ (id : Nat) (x : Step) (s : State),
      s.work.stepOf id = some x ∧ x.phase = .commit ∧ x.putsOpen = 0 ∧ s.work.acceptsHeld x = true)
    ∧ (∃ (id : Nat) (x : Step) (c : Cmd) (s : State),
      s.work.stepOf id = some x ∧ x.phase = .commit ∧ x.putsOpen = 0 ∧ x.tickets = [] ∧ x.lr = [] ∧ x.adapters = [] ∧ x.requests = [] ∧ x.taken = [] ∧ (s.work.ringSteps x.span x.ring).head? = some x ∧ (∀ l e, e ∈ (s.work.core' l).tiles → e.addr ∈ x.written → e.state ≠ .dirty) ∧ s.dev.cmd.cmds.find? (fun c => c.id == x.cmd) = some c ∧ (s.work.ring c.fn c.ring).en = true)
    ∧ (∃ (id : Nat) (piers : List (Nat × Nat × Nat)) (x : Step) (p : Program) (s : State),
      s.work.stepOf id = some x ∧ s.work.program x.span x.handle = some p ∧ x.phase = .compute ∧ (∀ q ∈ x.tasks, q.ended = false → q.core.isSome = true ∧ ∀ v ∈ q.waits p piers, v.2.isSome = true) ∧ (∃ q ∈ x.tasks, q.ended = false ∧ q.waits p piers ≠ []) ∧ (∀ f ∈ s.dev.step.inflight, f.step ≠ id))
    ∧ (∃ (id : Nat) (piers : List (Nat × Nat × Nat)) (x : Step) (p : Program) (s : State),
      s.work.stepOf id = some x ∧ s.work.program x.span x.handle = some p ∧ x.phase = .compute ∧ (∀ q ∈ x.tasks, q.ended = false → q.core.isSome = true ∧ ∀ v ∈ q.waits p piers, v.2.isSome = true) ∧ (∃ q ∈ x.tasks, q.ended = false ∧ q.waits p piers ≠ []) ∧ (∀ f ∈ s.dev.step.inflight, f.step ≠ id))
    ∧ (∃ (id : Nat) (pier : Nat) (l : Nat) (x : Step) (p : Program) (q : Task) (s : State),
      s.work.stepOf id = some x ∧ s.work.program x.span x.handle = some p ∧ x.phase = .compute ∧ pier < p.piers ∧ x.tasks = [q] ∧ q.core = some l ∧ (∀ e ∈ (s.work.core' l).tiles, e.addr ∈ q.written → e.data.keystoneOk = true) ∧ s.dev.core.pinJobs = []) := by
  refine ⟨⟨0, { step0 with phase := .compute, tasks := [{ task0 with ended := true }] }, dev (withProgram prog0 ∘ withSteps [{ step0 with phase := .compute, tasks := [{ task0 with ended := true }] }]), by decide +kernel⟩,
    ⟨0, { step0 with phase := .commit, written := [4352] }, dev (holding 0 [ent 4352 .dirty] ∘ mapped 0 0 ∘ withProgram prog0 ∘ withSteps [{ step0 with phase := .commit, written := [4352] }] ∘ withCmds [0]), by decide +kernel⟩,
    ⟨0, { step0 with phase := .commit }, cmdNo 0, dev (withProgram prog0 ∘ withSteps [{ step0 with phase := .commit }] ∘ withCmds [0]), by exact ⟨by decide +kernel, by decide +kernel, by decide +kernel, by decide +kernel, by decide +kernel, by decide +kernel, by decide +kernel, by decide +kernel, by decide +kernel,
      (fun _ _ h => by cases h), by decide +kernel, by decide +kernel⟩⟩,
    ⟨0, [], { step0 with phase := .compute, tasks := [task0 (some 0) .waitToken] }, progOf [blk 64 [(0, 1, 0x20), (1, 1, 8), (10, 2, 1)]], dev (withProgram (progOf [blk 64 [(0, 1, 0x20), (1, 1, 8), (10, 2, 1)]]) ∘ withSteps [{ step0 with phase := .compute, tasks := [task0 (some 0) .waitToken] }] ∘ withCmds [0]), by decide +kernel⟩,
    ⟨0, [(0, 0, 63)], { step0 with phase := .compute, tasks := [task0] }, { progOf [matmulDesc] with piers := 64 }, dev (withProgram { progOf [matmulDesc] with piers := 64 } ∘ withSteps [{ step0 with phase := .compute, tasks := [task0] }] ∘ withCmds [0]), by decide +kernel⟩,
    ⟨0, 63, 0, { step0 with phase := .compute, tasks := [{ task0 with written := [4352] }] }, { prog0 with piers := 64 }, { task0 with written := [4352] }, dev (holding 0 [ent 4352 .dirty] ∘ mapped 0 0 ∘ withProgram { prog0 with piers := 64 } ∘ withSteps [{ step0 with phase := .compute, tasks := [{ task0 with written := [4352] }] }]), by decide +kernel⟩⟩

/-- The hypotheses of `ClustersAndDiesSleepAndWake` can be met, clause by clause. -/
theorem witness_ClustersAndDiesSleepAndWake :
    (∃ (c : Nat) (s : State),
      c < 16 ∧ s.work.serving = true ∧ (s.work.cluster c).asleep = false ∧ (∀ l ∈ s.work.coresIn c, s.work.hostsWork l = false ∧ ∀ e ∈ (s.work.core' l).tiles, e.pin ≠ .hot) ∧ (∀ j ∈ s.dev.core.tests, ∀ k ∈ j.cores, k / 9 ≠ c))
    ∧ (∃ (c : Nat) (s : State),
      c < 16 ∧ (s.work.cluster c).asleep = true ∧ (s.work.cluster c).waking = true ∧ (s.work.cluster c).dead = false)
    ∧ (∃ (d : Nat) (s : State),
      d < 4 ∧ bit (s.work.regv 0 0x550C) 1 = true ∧ (s.work.die d).resetting = false ∧ (∀ k < 4, (s.work.cluster (4 * d + k)).asleep = true ∧ (s.work.cluster (4 * d + k)).waking = false)) := by
  refine ⟨⟨15, ready, by decide +kernel⟩,
    ⟨15, dev fun d => { d with core := { d.core with clusters := [(15, { asleep := true, waking := true })], dies := [(3, { asleep := true })] } }, by decide +kernel⟩,
    ⟨3, dev fun d => { d with core := { d.core with clusters := (List.range 4).map fun k => (12 + k, { asleep := true }) }, regs := (0x550C, 2#32) :: d.regs }, by decide +kernel⟩⟩

/-- The hypotheses of `DescriptorsIssueWithTheirResults` can be met, clause by clause. -/
theorem witness_DescriptorsIssueWithTheirResults :
    (∃ (r : CtxRef) (upsets : List Upset) (e₀ : Eng) (e : Eng) (s : State),
      s.work.engStart r [0x10] .matrix = some e₀ ∧ (Act.matmul upsets).exec e₀ = (.ok (), e))
    ∧ (∃ (r : CtxRef) (upsets : List Upset) (e₀ : Eng) (e : Eng) (s : State),
      s.work.engStart r [0x11] .matrix = some e₀ ∧ (Act.adapter upsets).exec e₀ = (.ok (), e))
    ∧ (∃ (r : CtxRef) (e₀ : Eng) (e : Eng) (s : State),
      s.work.engStart r [0x20] .vector = some e₀ ∧ Act.vector.exec e₀ = (.ok (), e))
    ∧ (∃ (r : CtxRef) (e₀ : Eng) (e : Eng) (s : State),
      s.work.engStart r [0x21] .vector = some e₀ ∧ Act.gemv.exec e₀ = (.ok (), e))
    ∧ (∃ (r : CtxRef) (e₀ : Eng) (e : Eng) (s : State),
      s.work.engStart r [0x22] .vector = some e₀ ∧ Act.update.exec e₀ = (.ok (), e))
    ∧ (∃ (r : CtxRef) (upsets : List Upset) (e₀ : Eng) (e : Eng) (s : State),
      s.work.engStart r [0x30] .matrix = some e₀ ∧ (Act.attnFwd upsets).exec e₀ = (.ok (), e))
    ∧ (∃ (r : CtxRef) (upsets : List Upset) (e₀ : Eng) (e : Eng) (s : State),
      s.work.engStart r [0x31] .matrix = some e₀ ∧ (Act.attnBwd upsets).exec e₀ = (.ok (), e))
    ∧ (∃ (r : CtxRef) (e₀ : Eng) (e : Eng) (s : State),
      s.work.engStart r [0x32] .vector = some e₀ ∧ Act.kvAppend.exec e₀ = (.ok (), e))
    ∧ (∃ (r : CtxRef) (bad : List Nat) (e₀ : Eng) (e : Eng) (s : State),
      s.work.engStart r [0x40] .gather = some e₀ ∧ (Act.embLookup bad).exec e₀ = (.ok (), e))
    ∧ (∃ (r : CtxRef) (e₀ : Eng) (e : Eng) (s : State),
      s.work.engStart r [0x41] .gather = some e₀ ∧ Act.embGrad.exec e₀ = (.ok (), e))
    ∧ (∃ (r : CtxRef) (e₀ : Eng) (e : Eng) (s : State),
      s.work.engStart r [0x50] .mover = some e₀ ∧ Act.putTiles.exec e₀ = (.ok (), e))
    ∧ (∃ (r : CtxRef) (e₀ : Eng) (e : Eng) (s : State),
      s.work.engStart r [0x51] .mover = some e₀ ∧ Act.getTiles.exec e₀ = (.ok (), e))
    ∧ (∃ (r : CtxRef) (e₀ : Eng) (e : Eng) (s : State),
      s.work.engStart r [0x52] .mover = some e₀ ∧ (Act.collective false).exec e₀ = (.ok (), e))
    ∧ (∃ (r : CtxRef) (e₀ : Eng) (e : Eng) (s : State),
      s.work.engStart r [0x53] .mover = some e₀ ∧ (Act.collective true).exec e₀ = (.ok (), e)) := by
  refine ⟨⟨⟨0, 0, 0, []⟩, [], eng (loaded [matmulDesc]) 0x10 .matrix (by decide +kernel), ((Act.matmul []).exec (eng (loaded [matmulDesc]) 0x10 .matrix (by decide +kernel))).2, loaded [matmulDesc], by exact ⟨eng_some _, runs _ (by decide +kernel)⟩⟩,
    ⟨⟨0, 0, 0, []⟩, [], eng (loaded [adapterDesc]) 0x11 .matrix (by decide +kernel), ((Act.adapter []).exec (eng (loaded [adapterDesc]) 0x11 .matrix (by decide +kernel))).2, loaded [adapterDesc], by exact ⟨eng_some _, runs _ (by decide +kernel)⟩⟩,
    ⟨⟨0, 0, 0, []⟩, eng (loaded [vectorDesc]) 0x20 .vector (by decide +kernel), ((Act.vector).exec (eng (loaded [vectorDesc]) 0x20 .vector (by decide +kernel))).2, loaded [vectorDesc], by exact ⟨eng_some _, runs _ (by decide +kernel)⟩⟩,
    ⟨⟨0, 0, 0, []⟩, eng (loaded [gemvDesc, adapterDesc]) 0x21 .vector (by decide +kernel), ((Act.gemv).exec (eng (loaded [gemvDesc, adapterDesc]) 0x21 .vector (by decide +kernel))).2, loaded [gemvDesc, adapterDesc], by exact ⟨eng_some _, runs _ (by decide +kernel)⟩⟩,
    ⟨⟨0, 0, 0, []⟩, eng (loaded [updateDesc]) 0x22 .vector (by decide +kernel), ((Act.update).exec (eng (loaded [updateDesc]) 0x22 .vector (by decide +kernel))).2, loaded [updateDesc], by exact ⟨eng_some _, runs _ (by decide +kernel)⟩⟩,
    ⟨⟨0, 0, 0, []⟩, [], eng (loaded [attnDesc 0x30 (10 * 4352)]) 0x30 .matrix (by decide +kernel), ((Act.attnFwd []).exec (eng (loaded [attnDesc 0x30 (10 * 4352)]) 0x30 .matrix (by decide +kernel))).2, loaded [attnDesc 0x30 (10 * 4352)], by exact ⟨eng_some _, runs _ (by decide +kernel)⟩⟩,
    ⟨⟨0, 0, 0, []⟩, [], eng recorded 0x31 .matrix (by decide +kernel), ((Act.attnBwd []).exec (eng recorded 0x31 .matrix (by decide +kernel))).2, recorded, by exact ⟨eng_some _, runs _ (by decide +kernel)⟩⟩,
    ⟨⟨0, 0, 0, []⟩, eng (loaded [appendDesc]) 0x32 .vector (by decide +kernel), ((Act.kvAppend).exec (eng (loaded [appendDesc]) 0x32 .vector (by decide +kernel))).2, loaded [appendDesc], by exact ⟨eng_some _, runs _ (by decide +kernel)⟩⟩,
    ⟨⟨0, 0, 0, []⟩, [], eng (withTable table0 (loaded [embDescOf 0x40])) 0x40 .gather (by decide +kernel), ((Act.embLookup []).exec (eng (withTable table0 (loaded [embDescOf 0x40])) 0x40 .gather (by decide +kernel))).2, withTable table0 (loaded [embDescOf 0x40]), by exact ⟨eng_some _, runs _ (by decide +kernel)⟩⟩,
    ⟨⟨0, 0, 0, []⟩, eng (withTable table0 (loaded [embDescOf 0x41])) 0x41 .gather (by decide +kernel), ((Act.embGrad).exec (eng (withTable table0 (loaded [embDescOf 0x41])) 0x41 .gather (by decide +kernel))).2, withTable table0 (loaded [embDescOf 0x41]), by exact ⟨eng_some _, runs _ (by decide +kernel)⟩⟩,
    ⟨⟨0, 0, 0, []⟩, eng (loaded [moverDesc 0x50]) 0x50 .mover (by decide +kernel), ((Act.putTiles).exec (eng (loaded [moverDesc 0x50]) 0x50 .mover (by decide +kernel))).2, loaded [moverDesc 0x50], by exact ⟨eng_some _, runs _ (by decide +kernel)⟩⟩,
    ⟨⟨0, 0, 0, []⟩, eng (loaded [moverDesc 0x51]) 0x51 .mover (by decide +kernel), ((Act.getTiles).exec (eng (loaded [moverDesc 0x51]) 0x51 .mover (by decide +kernel))).2, loaded [moverDesc 0x51], by exact ⟨eng_some _, runs _ (by decide +kernel)⟩⟩,
    ⟨⟨0, 0, 0, []⟩, eng (withRank (loaded [moverDesc 0x52])) 0x52 .mover (by decide +kernel), ((Act.collective false).exec (eng (withRank (loaded [moverDesc 0x52])) 0x52 .mover (by decide +kernel))).2, withRank (loaded [moverDesc 0x52]), by exact ⟨eng_some _, runs _ (by decide +kernel)⟩⟩,
    ⟨⟨0, 0, 0, []⟩, eng (withRank (loaded [moverDesc 0x53])) 0x53 .mover (by decide +kernel), ((Act.collective true).exec (eng (withRank (loaded [moverDesc 0x53])) 0x53 .mover (by decide +kernel))).2, withRank (loaded [moverDesc 0x53]), by exact ⟨eng_some _, runs _ (by decide +kernel)⟩⟩⟩

/-- The hypotheses of `MissingTilesAndFabricTransfersWait` can be met, clause by clause. -/
theorem witness_MissingTilesAndFabricTransfersWait :
    (∃ (r : CtxRef) (upsets : List Upset) (e₀ : Eng) (e : Eng) (va : Nat) (gen : Option Nat) (s : State),
      s.work.engStart r [0x10] .matrix = some e₀ ∧ (Act.matmul upsets).exec e₀ = (.error (.wait va gen), e))
    ∧ (∃ (r : CtxRef) (e₀ : Eng) (e : Eng) (va : Nat) (gen : Option Nat) (s : State),
      s.work.engStart r [0x20] .vector = some e₀ ∧ Act.vector.exec e₀ = (.error (.wait va gen), e))
    ∧ (∃ (r : CtxRef) (e₀ : Eng) (e : Eng) (va : Nat) (gen : Option Nat) (s : State),
      s.work.engStart r [0x32] .vector = some e₀ ∧ Act.kvAppend.exec e₀ = (.error (.wait va gen), e))
    ∧ (∃ (r : CtxRef) (e : Eng) (s : State),
      s.work.engStart r [0x51] .mover = some e ∧ e.keyOk ∧ (∀ j < rd e.desc 28 4, e.writable (tileAfter (rd e.desc 16 6) j) = true))
    ∧ (∃ (r : CtxRef) (e : Eng) (s : State),
      s.work.engStart r [0x50] .mover = some e ∧ e.keyOk ∧ (∀ j < rd e.desc 28 4, (e.sees (tileAfter (rd e.desc 16 6) j)).isSome = true))
    ∧ (∃ (r : CtxRef) (own : Nat) (e : Eng) (s : State),
      s.work.engStart r [0x52] .mover = some e ∧ e.keyOk ∧ (∀ j < ceilDiv (2 * rd e.desc 32 2) 4096, e.readable (tileAfter (rd e.desc 22 6) j) = true) ∧ s.work.rank = some own ∧ own ∈ e.ranks ∧ (∀ f ∈ s.dev.vdt.colls, f.dstSpan ≠ e.x.span) ∧ (∀ j < rd e.desc 28 4, e.readable (tileAfter (rd e.desc 16 6) j) = true
      ∧ (e.operand (tileAfter (rd e.desc 16 6) j)).format = ((Fmt.ofCode (rd e.desc 2 1)).getD .fp32).code) ∧ (∀ j < rd e.desc 28 4 / e.ranks.length,
      e.writable (tileAfter (tileAfter (rd e.desc 16 6) (e.ranks.idxOf own * (rd e.desc 28 4 / e.ranks.length))) j) = true))
    ∧ (∃ (r : CtxRef) (own : Nat) (e : Eng) (s : State),
      s.work.engStart r [0x53] .mover = some e ∧ e.keyOk ∧ (∀ j < ceilDiv (2 * rd e.desc 32 2) 4096, e.readable (tileAfter (rd e.desc 22 6) j) = true) ∧ s.work.rank = some own ∧ own ∈ e.ranks ∧ (∀ f ∈ s.dev.vdt.colls, f.dstSpan ≠ e.x.span) ∧ (∀ j < rd e.desc 28 4 / e.ranks.length,
      (e.sees (tileAfter (rd e.desc 16 6) (e.ranks.idxOf own * (rd e.desc 28 4 / e.ranks.length) + j))).isSome = true) ∧ (∀ j < rd e.desc 28 4, e.writable (tileAfter (rd e.desc 16 6) j) = true)) := by
  refine ⟨⟨⟨0, 0, 0, []⟩, [], eng (running [matmulDesc]) 0x10 .matrix (by decide +kernel), ((Act.matmul []).exec (eng (running [matmulDesc]) 0x10 .matrix (by decide +kernel))).2, 0, none, running [matmulDesc], by exact ⟨eng_some _, waits _ _ _ (by decide +kernel)⟩⟩,
    ⟨⟨0, 0, 0, []⟩, eng (running [vectorDesc]) 0x20 .vector (by decide +kernel), ((Act.vector).exec (eng (running [vectorDesc]) 0x20 .vector (by decide +kernel))).2, 0, none, running [vectorDesc], by exact ⟨eng_some _, waits _ _ _ (by decide +kernel)⟩⟩,
    ⟨⟨0, 0, 0, []⟩, eng (running [appendDesc]) 0x32 .vector (by decide +kernel), ((Act.kvAppend).exec (eng (running [appendDesc]) 0x32 .vector (by decide +kernel))).2, 0, none, running [appendDesc], by exact ⟨eng_some _, waits _ _ _ (by decide +kernel)⟩⟩,
    ⟨⟨0, 0, 0, []⟩, eng (running [moverDesc 0x51]) 0x51 .mover (by decide +kernel), running [moverDesc 0x51], by exact ⟨eng_some _, by unfold Eng.keyOk; decide +kernel, by decide +kernel⟩⟩,
    ⟨⟨0, 0, 0, []⟩, eng (loaded [moverDesc 0x50]) 0x50 .mover (by decide +kernel), loaded [moverDesc 0x50], by exact ⟨eng_some _, by unfold Eng.keyOk; decide +kernel, by decide +kernel⟩⟩,
    ⟨⟨0, 0, 0, []⟩, 0, eng (withRank (loaded [moverDesc 0x52])) 0x52 .mover (by decide +kernel), withRank (loaded [moverDesc 0x52]), by exact ⟨eng_some _, by unfold Eng.keyOk; decide +kernel, by decide +kernel⟩⟩,
    ⟨⟨0, 0, 0, []⟩, 0, eng (withRank (loaded [moverDesc 0x53])) 0x53 .mover (by decide +kernel), withRank (loaded [moverDesc 0x53]), by exact ⟨eng_some _, by unfold Eng.keyOk; decide +kernel, by decide +kernel⟩⟩⟩

/-- The hypotheses of `ComputeDescriptorsCompleteOnOperandsThatStand` can be met, clause by clause. -/
theorem witness_ComputeDescriptorsCompleteOnOperandsThatStand :
    (∃ (r : CtxRef) (d : MatDesc) (e : Eng) (s : State),
      s.work.engStart r [0x10] .matrix = some e ∧ MatDesc.of e.desc = some d ∧ e.multiplies d)
    ∧ (∃ (r : CtxRef) (d : MatDesc) (e : Eng) (s : State),
      s.work.engStart r [0x11] .matrix = some e ∧ MatDesc.of e.desc = some d ∧ e.multiplies d ∧ d.addrDefer = 0 ∧ (∀ j < ceilDiv d.segs 256, e.readable (tileAfter d.addrSeg j) = true ∧ tileAfter d.addrSeg j ∉ d.tilesC) ∧ segFault d.m 0 0 (e.segments d) = none ∧ (∀ x ∈ e.segments d, x.baseOnly = true))
    ∧ (∃ (r : CtxRef) (d : VecDesc) (n : Nat) (rows : Nat) (fr : Fmt) (e : Eng) (s : State),
      s.work.engStart r [0x20] .vector = some e ∧ d = VecDesc.of e.desc ∧ n = (if d.vlLoad = true then d.vlen else e.vlen) ∧ fr = (if d.fp64 = true then .fp64 else .fp32) ∧ rows = ceilDiv n d.rowLen * (if d.reduce = 5 then 2 else 1) ∧ bit d.stages 5 = false ∧ d.mode = 0 ∧ d.reduce ≤ 5 ∧ e.streams d.fx d.x (bcastLen (d.bcast % 4) n d.rowLen) ∧ e.streams d.fy d.y (bcastLen (d.bcast / 4 % 4) n d.rowLen) ∧ e.streams d.fz d.z (bcastLen (d.bcast / 16 % 4) n d.rowLen) ∧ (bit d.stages 4 = true → e.takesStream fr d.r rows) ∧ (∀ fo, d.fo = some fo → (bit d.stages 4 && d.noStore) = false → e.takesStream fo d.o n))
    ∧ (∃ (r : CtxRef) (p : Program) (d : MatDesc) (l : List Segment') (e : Eng) (s : State),
      s.work.engStart r [0x21] .vector = some e ∧ s.work.program e.x.span e.x.handle = some p ∧ p.deferrer e.task e.desc = some d ∧ e.readable (tileAfter (rd e.desc 46 6) 0) = true ∧ e.deferrals (rd e.desc 46 6) = some l ∧ segFault d.m 0 0 l = none ∧ (∀ x ∈ l, x.baseOnly = true))
    ∧ (∃ (r : CtxRef) (d : VecDesc) (n : Nat) (per : Nat) (e : Eng) (s : State),
      s.work.engStart r [0x22] .vector = some e ∧ d = VecDesc.of e.desc ∧ n = (if d.vlLoad = true then d.vlen else e.vlen) ∧ per = [0, 1, 1, 2].getD (d.arith % 4) 0 ∧ e.readable d.p = true ∧ e.readable d.r = true ∧ resvZero [(0, 24), (28, 12)] ((e.operand d.r).slice 0 64) = true ∧ e.streams d.fx d.x n ∧ e.streams d.fy d.y n ∧ (per ≠ 0 → e.streams d.fz d.z (per * n)) ∧ e.takesStream .fp32 d.y n ∧ (per ≠ 0 → e.takesStream .fp32 d.z (per * n)) ∧ (∀ fo, d.fo = some fo → d.o ≠ 0 → e.takesStream fo d.o n)) := by
  refine ⟨⟨⟨0, 0, 0, []⟩, (MatDesc.of matmulDesc).get (by decide +kernel), eng (loaded [matmulDesc]) 0x10 .matrix (by decide +kernel), loaded [matmulDesc], by exact ⟨eng_some _, by rfl, by unfold Eng.multiplies; decide +kernel⟩⟩,
    ⟨⟨0, 0, 0, []⟩, (MatDesc.of segmentsDesc).get (by decide +kernel), eng (segmented) 0x11 .matrix (by decide +kernel), segmented, by exact ⟨eng_some _, by rfl, by unfold Eng.multiplies; decide +kernel, by decide +kernel⟩⟩,
    ⟨⟨0, 0, 0, []⟩, VecDesc.of vectorDesc, 16, 1, .fp32, eng (loaded [vectorDesc]) 0x20 .vector (by decide +kernel), loaded [vectorDesc], by exact ⟨eng_some _, by rfl, by decide +kernel, by decide +kernel, by decide +kernel, by decide +kernel, by decide +kernel, by decide +kernel, (fun _ h => by cases h; decide +kernel), (fun _ h => by cases h), (fun _ h => by cases h), (fun h => absurd h (by decide +kernel)), (fun _ h _ => by cases h; unfold Eng.takesStream; decide +kernel)⟩⟩,
    ⟨⟨0, 0, 0, []⟩, progOf [gemvDesc, adapterDesc], (MatDesc.of adapterDesc).get (by decide +kernel), [], eng (loaded [gemvDesc, adapterDesc]) 0x21 .vector (by decide +kernel), loaded [gemvDesc, adapterDesc], by exact ⟨eng_some _, by decide +kernel, by rfl, by decide +kernel, by rfl, by rfl, by decide +kernel⟩⟩,
    ⟨⟨0, 0, 0, []⟩, VecDesc.of updateDesc, 16, 0, eng (loaded [updateDesc]) 0x22 .vector (by decide +kernel), loaded [updateDesc], by exact ⟨eng_some _, by rfl, by decide +kernel, by decide +kernel, by decide +kernel, by decide +kernel, by decide +kernel, (fun _ h => by cases h; decide +kernel), (fun _ h => by cases h; decide +kernel), (fun h => absurd rfl h), by unfold Eng.takesStream; decide +kernel, (fun h => absurd rfl h), (fun _ h => by cases h)⟩⟩⟩

/-- The hypotheses of `AttentionAndEmbeddingDescriptorsCompleteOnOperandsThatStand` can be met, clause by clause. -/
theorem witness_AttentionAndEmbeddingDescriptorsCompleteOnOperandsThatStand :
    (∃ (r : CtxRef) (d : AttnDesc) (e : Eng) (s : State),
      s.work.engStart r [0x30] .matrix = some e ∧ AttnDesc.of e.desc = some d ∧ d.shared = true ∧ d.rope = false ∧ e.attends d ∧ e.skipsPages d d.list true ∧ (∀ va ∈ matTiles (d.fo.getD .fp32) d.o (ceilDiv d.dim (d.fo.getD .fp32).rowElems) (d.heads * d.m) d.dim, e.writable va = true) ∧ e.takesStream .fp32 d.stats (2 * (d.heads * d.m)))
    ∧ (∃ (r : CtxRef) (d : AttnDesc) (fo : Fmt) (rows : Nat) (qs : List Nat) (e : Eng) (s : State),
      s.work.engStart r [0x31] .matrix = some e ∧ AttnDesc.of e.desc = some d ∧ fo = d.fo.getD .fp32 ∧ rows = d.heads * d.m ∧ qs = matTiles .fp32 ((e.operand d.p).num 24 6) (ceilDiv d.dim 16) rows d.dim ∧ d.shared = true ∧ d.rope = false ∧ e.attends d ∧ Fmt.ofCode ((e.operand d.p).num 36 1) ∈ [some .fp32, some .bf16, some .fp16] ∧ (∀ va ∈ matTiles fo d.o (ceilDiv d.dim fo.rowElems) rows d.dim, e.presents fo va = true) ∧ (∀ va ∈ matTiles fo ((e.operand d.p).num 18 6) (ceilDiv d.dim fo.rowElems) rows d.dim, e.presents fo va = true) ∧ e.streams (some .fp32) d.stats (2 * rows) ∧ (∀ va ∈ qs, e.presents .fp32 va = true ∧ e.writable va = true) ∧ e.skipsPages d d.list true ∧ e.skipsPages d ((e.operand d.p).num 30 6) false)
    ∧ (∃ (r : CtxRef) (d : AttnDesc) (l : Nat) (tail : Nat) (tails : List Nat) (e : Eng) (s : State),
      s.work.engStart r [0x32] .vector = some e ∧ AttnDesc.of e.desc = some d ∧ l = tileAfter d.list 0 ∧ tail = (e.operand l).num 8 8 ∧ tails = (List.range (keyTiles .bf16 d.dim)).map (tileAfter tail)
      ++ (List.range (ceilDiv d.dim 64)).map (fun b => tileAfter tail (keyTiles .bf16 d.dim + 2 * b)) ∧ d.m = 1 ∧ d.rope = false ∧ d.fkv.girder = false ∧ e.readable d.p = true ∧ resvZero [(0, 44)] ((e.operand d.p).slice 0 64) = true ∧ (∀ va ∈ matTiles d.fq d.q (ceilDiv d.dim d.fq.rowElems) 1 d.dim, e.presents d.fq va = true) ∧ (∀ va ∈ matTiles d.fq d.o (ceilDiv d.dim d.fq.rowElems) 1 d.dim, e.presents d.fq va = true) ∧ e.readable l = true ∧ e.writable l = true ∧ (e.operand l).num 0 8 = 0 ∧ tail < 2 ^ 48 ∧ (e.operand l).num 16 8 < 2 ^ 48 ∧ (e.operand l).num 24 8 < 2 ^ 16 ∧ (∀ va ∈ tails, e.readable va = true ∧ e.writable va = true))
    ∧ (∃ (r : CtxRef) (t : Table) (e : Eng) (s : State),
      s.work.engStart r [0x40] .gather = some e ∧ e.embeds ∧ s.work.table e.x.span (rd e.desc 4 2) = some t ∧ t.id = rd e.desc 4 2 ∧ t.stalled = false ∧ s.work.gatherBusy e.core (fun _ => false) < 512 ∧ (∀ q ∈ e.rowIds, ∃ b g, s.work.lookUp e.x.span t (e.epochOf t).1 (e.epochOf t).2 q.1 = .row b false g ∧ t.vkeyOk b = true) ∧ e.takesStream ((Fmt.ofCode (rd e.desc 2 1)).getD .fp32) (rd e.desc 34 6) (rd e.desc 40 4 * t.dim))
    ∧ (∃ (r : CtxRef) (t : Table) (e : Eng) (s : State),
      s.work.engStart r [0x41] .gather = some e ∧ e.embeds ∧ s.work.table e.x.span (rd e.desc 4 2) = some t ∧ t.stalled = false ∧ e.streams (Fmt.ofCode (rd e.desc 2 1)) (rd e.desc 34 6) (rd e.desc 40 4 * t.dim) ∧ (∀ q ∈ e.rowIds, s.work.carrierFault e.x.span (t.mapTiles q.1) = none
      ∧ ∃ k j, s.work.ownerOf e.x.span t q.1 = some (k, j) ∧ (s.work.isSelf t k = true → j < s.work.rowsHere e.x.span t))) := by
  refine ⟨⟨⟨0, 0, 0, []⟩, (AttnDesc.of (pagedDesc 0x30)).get (by decide +kernel), eng (paged 0x30) 0x30 .matrix (by decide +kernel), paged 0x30, by exact ⟨eng_some _, by rfl, by decide +kernel, by decide +kernel, by unfold Eng.attends; decide +kernel, by unfold Eng.skipsPages; decide +kernel, by decide +kernel, by unfold Eng.takesStream; decide +kernel⟩⟩,
    ⟨⟨0, 0, 0, []⟩, (AttnDesc.of (pagedDesc 0x31)).get (by decide +kernel), .fp32, 1, [0, 4352, 2 * 4352, 3 * 4352], eng (paged 0x31) 0x31 .matrix (by decide +kernel), paged 0x31, by exact ⟨eng_some _, by rfl, by decide +kernel, by decide +kernel, by decide +kernel, by decide +kernel, by decide +kernel, by unfold Eng.attends; decide +kernel, by decide +kernel, by decide +kernel, by decide +kernel, (fun _ h => by cases h; decide +kernel), by decide +kernel, by unfold Eng.skipsPages; decide +kernel, by unfold Eng.skipsPages; decide +kernel⟩⟩,
    ⟨⟨0, 0, 0, []⟩, (AttnDesc.of (appendDesc)).get (by decide +kernel), 12 * 4352, 0, (List.range 2).map (4352 * ·) ++ [2 * 4352], eng (loaded [appendDesc]) 0x32 .vector (by decide +kernel), loaded [appendDesc], by exact ⟨eng_some _, by rfl, by decide +kernel⟩⟩,
    ⟨⟨0, 0, 0, []⟩, table00, eng (looking) 0x40 .gather (by decide +kernel), looking, by exact ⟨eng_some _, ⟨by decide +kernel, by decide +kernel, fun h => absurd h (by decide +kernel)⟩, by decide +kernel, by decide +kernel, by decide +kernel, by decide +kernel, (fun q h => by rw [(by decide +kernel : Eng.rowIds (eng (looking) 0x40 .gather (by decide +kernel)) = [(0, 0)])] at h; rw [List.mem_singleton.1 h]; exact ⟨record0, false, by decide +kernel, record0_key⟩), by unfold Eng.takesStream; decide +kernel⟩⟩,
    ⟨⟨0, 0, 0, []⟩, table0, eng (withTable table0 (loaded [embDescOf 0x41])) 0x41 .gather (by decide +kernel), withTable table0 (loaded [embDescOf 0x41]), by exact ⟨eng_some _, ⟨by decide +kernel, by decide +kernel, fun h => absurd h (by decide +kernel)⟩, by decide +kernel, by decide +kernel, (fun _ h => by cases h; decide +kernel), (fun q h => by rw [(by decide +kernel : Eng.rowIds (eng (withTable table0 (loaded [embDescOf 0x41])) 0x41 .gather (by decide +kernel)) = [(0, 0)])] at h; rw [List.mem_singleton.1 h]; exact ⟨by decide +kernel, 0, 0, by decide +kernel, by decide +kernel⟩)⟩⟩⟩

/-- The hypotheses of `TablesAreCreatedAndTheirHotSetReplaced` can be met, clause by clause. -/
theorem witness_TablesAreCreatedAndTheirHotSetReplaced :
    (∃ (p : Pkt) (s : State),
      s.starts opTableCreate p = true ∧ descriptorOk p.block = true ∧ s.work.table p.fn (Table.ofDesc p.block).id = none ∧ (∀ q ∈ (Table.ofDesc p.block).regions, s.work.regionFault p.fn q.1 q.2 = none))
    ∧ (∃ (p : Pkt) (s : State) (b : Table) (sk : Nat),
      s.starts opHotsetRefresh p = true ∧ p.arg 12 2 < 1024 ∧ s.work.table p.fn (p.arg 12 2) = some b ∧ b.id = p.arg 12 2 ∧ p.arg 24 4 ≤ 65536 ∧ isTileAddr (p.arg 16 6) = true ∧ s.work.listBad p.fn (p.arg 16 6) (ceilDiv (p.arg 24 4) 512) = none ∧ b.applying = none ∧ s.work.carrierFault p.fn (((List.range (p.arg 24 4)).map fun i => s.work.streamNum p.fn (p.arg 16 6) (8 * i) 8).flatMap b.mapTiles).dedup = none ∧ s.work.hotTiles p.fn b ((List.range (p.arg 24 4)).map fun i => s.work.streamNum p.fn (p.arg 16 6) (8 * i) 8) = some ([], sk))
    ∧ (∃ (p : Pkt) (s : State) (b : Table) (sk : Nat) (va : Nat) (l : Nat) (pa : Nat) (wr : Bool),
      s.starts opHotsetRefresh p = true ∧ p.arg 12 2 < 1024 ∧ s.work.table p.fn (p.arg 12 2) = some b ∧ b.id = p.arg 12 2 ∧ p.arg 24 4 ≤ 65536 ∧ isTileAddr (p.arg 16 6) = true ∧ s.work.listBad p.fn (p.arg 16 6) (ceilDiv (p.arg 24 4) 512) = none ∧ b.applying = none ∧ s.work.carrierFault p.fn (((List.range (p.arg 24 4)).map fun i => s.work.streamNum p.fn (p.arg 16 6) (8 * i) 8).flatMap b.mapTiles).dedup = none ∧ s.work.hotTiles p.fn b ((List.range (p.arg 24 4)).map fun i => s.work.streamNum p.fn (p.arg 16 6) (8 * i) 8) = some ([va], sk) ∧ b.hot = [] ∧ s.dev.core.pinJobs = [] ∧ ((s.work.coresOf p.fn).filter s.work.placeable).head? = some l ∧ s.work.locate p.fn (s.work.currentBinds p.fn) va = .home pa wr ∧ s.work.hotAt p.fn va = none ∧ s.work.pinsFit l 1 = true ∧ (∀ e ∈ (s.work.core' l).tiles, e.addr ≠ va) ∧ (s.work.core' l).tiles.length < s.work.slotsOf l) := by
  refine ⟨⟨pk [(56, 8, 4096)] 1 (blk 64 [(0, 2, 1023), (2, 2, 1023), (5, 1, 1), (12, 4, 1), (30, 2, 4096), (40, 6, 1), (54, 1, 20), (48, 6, 4352), (32, 6, 4352), (56, 6, 4352 * 480)]), dev ((fun d => { d with hbm := { d.hbm with pages := (List.range 64).map fun i => (i, some { frame := some i, writable := true, deck := false, gone := false }) } })), by decide +kernel⟩,
    ⟨pk [(12, 2, 1023)], dev (tabled { table1 with hot := [(0, 0)] } ∘ mapped 0 0), { table1 with hot := [(0, 0)] }, 0, by decide +kernel⟩,
    ⟨pk [(12, 2, 1023), (16, 6, 4352), (24, 4, 1)], dev (tabled table1 ∘ mapped 0 0), table1, 0, 0, 0, 0, true, by decide +kernel⟩⟩

/-- The hypotheses of `RowsMoveCopyAndRelease` can be met, clause by clause. -/
theorem witness_RowsMoveCopyAndRelease :
    (∃ (p : Pkt) (s : State) (b : Table) (e : DirEnt) (r : Nat) (j : Nat),
      s.starts opRowMigrate p = true ∧ p.arg 12 2 < 1024 ∧ s.work.table p.fn (p.arg 12 2) = some b ∧ b.id = p.arg 12 2 ∧ p.arg 24 2 = 1 ∧ isTileAddr (p.arg 16 6) = true ∧ s.work.listBad p.fn (p.arg 16 6) 1 = none ∧ s.work.carrierFault p.fn b.listTiles = none ∧ (DirEnt.read ((List.range 32).map fun i => BitVec.ofNat 8 (s.work.streamNum p.fn (p.arg 16 6) i 1))).1 = e ∧ s.work.ownerOf p.fn b e.row = some (r, j) ∧ s.work.isSelf b r = true ∧ b.folding j = false ∧ e.newRank ∈ s.work.groupRanks p.fn b ∧ (s.work.isSelf b e.newRank = true → e.newLocal < b.localRows) ∧ b.dir = [] ∧ b.dirLog2 ≠ 0)
    ∧ (∃ (n : Nat) (i : Nat) (b : Table) (m : RowMove) (s : State),
      s.work.table n i = some b ∧ b.id = i ∧ b.stalled = false ∧ b.moves.find? (fun m => !m.copied && decide (m.epoch ≤ b.applied + 1)) = some m ∧ (∀ e ∈ m.rows, ∃ y, s.work.readRow n b e.oldLocal = some (y, false) ∧ b.checksOk y = true))
    ∧ (∃ (n : Nat) (i : Nat) (b : Table) (m : RowMove) (s : State),
      s.work.table n i = some b ∧ b.moves.find? (fun m => m.flipped && !(b.held.any fun h => m.rows.any fun e => e.row == h.row)) = some m) := by
  refine ⟨⟨pk [(12, 2, 1023), (24, 2, 1)], dev (tabled table1 ∘ mapped 0 0), table1, { row := 0, state := .home, oldLocal := 0, oldRank := 0, newLocal := 0, newRank := 0 }, 0, 0, by decide +kernel⟩,
    ⟨0, 1023, { table1 with moves := [rowMove [moving1]] }, rowMove [moving1], rows0, by exact ⟨by decide +kernel, by decide +kernel, by decide +kernel, by decide +kernel, rows0_ok⟩⟩,
    ⟨0, 1023, { table1 with moves := [{ rowMove [moving1] with flipped := true }] }, { rowMove [moving1] with flipped := true }, dev (tabled { table1 with moves := [{ rowMove [moving1] with flipped := true }] } ∘ withCmds [0]), by decide +kernel⟩⟩

/-- The hypotheses of `EpochsCloseApplyServeAndStall` can be met, clause by clause. -/
theorem witness_EpochsCloseApplyServeAndStall :
    (∃ (n : Nat) (i : Nat) (b : Table) (s : State),
      s.work.table n i = some b ∧ b.id = i ∧ s.work.mayClose n b = true ∧ s.work.carrierFault n b.listTiles = none)
    ∧ (∃ (n : Nat) (i : Nat) (e : Nat) (b : Table) (s : State),
      s.work.table n i = some b ∧ b.applying = some e ∧ b.voids = [])
    ∧ (∃ (n : Nat) (i : Nat) (k : Nat) (b : Table) (h : HeldLook) (y : List Byte) (pz : Bool) (g : Bool) (bad : Bool) (s : State),
      s.work.table n i = some b ∧ b.held[k]? = some h ∧ s.work.isSelf b h.src = false ∧ s.work.lookUp n b h.epoch h.update h.row = .row y pz g)
    ∧ (∃ (n : Nat) (i : Nat) (r : Nat) (b : Table) (s : State),
      s.work.table n i = some b ∧ b.stalled = false ∧ b.held = [] ∧ s.work.silentRank n b = some r ∧ (∀ x ∈ s.dev.step.steps, x.phase ≠ .commit)) := by
  refine ⟨⟨0, 1023, { table1 with closes := [(1, 0)] }, dev (tabled { table1 with closes := [(1, 0)] } ∘ mapped 0 0), by decide +kernel⟩,
    ⟨0, 1023, 4294967295, { table1 with applied := 4294967294, applying := some 4294967295 }, dev (tabled { table1 with applied := 4294967294, applying := some 4294967295 } ∘ mapped 0 0), by decide +kernel⟩,
    ⟨0, 1023, 0, { table1 with group := 2, held := [{ id := 0, epoch := 0, update := false, row := 0, src := 1, span := 63 }] }, { id := 0, epoch := 0, update := false, row := 0, src := 1, span := 63 }, List.replicate 80 0, false, false, false, dev (tabled { table1 with group := 2, held := [{ id := 0, epoch := 0, update := false, row := 0, src := 1, span := 63 }] } ∘ mapped 0 0 ∘ fabric), by decide +kernel⟩,
    ⟨0, 1023, 0, { table1 with ticket := 1 }, dev (tabled { table1 with ticket := 1 }), by decide +kernel⟩⟩

/-- The hypotheses of `DataFramesTakeEffectInTurn` can be met, clause by clause. -/
theorem witness_DataFramesTakeEffectInTurn :
    (∃ (f : Arrival) (pa : Nat) (s : State),
      s.due f = true ∧ f.ty = tyPut ∧ isDelta f.toFrame = false ∧ isCopy f.ty f.arg = false ∧ f.payload.length = tileBytes ∧ s.work.writeFault f.dstSpan f.arg = none ∧ (Tile.ofBytes f.payload).keystoneOk = true ∧ s.work.hotAt f.dstSpan f.arg = none ∧ s.work.traceOf f.dstSpan = none ∧ s.work.locate f.dstSpan [] f.arg = .home pa true)
    ∧ (∃ (f : Arrival) (pa : Nat) (wr : Bool) (x : Tile) (g : Flow) (s : State),
      s.due f = true ∧ f.ty = tyGetReq ∧ f.payload = [] ∧ isTileAddr f.arg = true ∧ s.work.locate f.dstSpan (s.work.currentBinds f.dstSpan) f.arg = .home pa wr ∧ s.work.rowTile f.dstSpan f.arg = some x ∧ x.keystoneOk = true ∧ s.dev.vdt.flows.find? (fun g => g.span == f.dstSpan && g.rank == f.srcRank && g.dstSpan == f.srcSpan && g.key == f.key
      && g.ctrl == false) = some g)
    ∧ (∃ (f : Arrival) (g : InFlight) (q : Nat × Nat × Nat) (x : Step) (s : State),
      s.due f = true ∧ f.ty = tyGetResp ∧ f.payload.length = tileBytes ∧ f.arg ≠ lookArg ∧ s.dev.step.inflight.find? (fun g => g.gets.any fun q => q.1 == f.srcRank && q.2.1 == f.arg) = some g ∧ g.gets.find? (fun q => q.1 == f.srcRank && q.2.1 == f.arg) = some q ∧ s.work.stepOf g.step = some x ∧ (Tile.ofBytes f.payload).keystoneOk = true)
    ∧ (∃ (f : Arrival) (r : RowRecord) (b : Table) (rk : Nat) (j : Nat) (s : State),
      s.due f = true ∧ f.ty = tyRowRec ∧ f.payload.length ≠ 4096 ∧ RowRecord.ofBody (f.arg % 2 ^ 32) (s.message f) = r ∧ r.table < 1024 ∧ s.work.table f.dstSpan r.table = some b ∧ s.work.ownerOf f.dstSpan b r.row = some (rk, j) ∧ s.work.isSelf b rk = true ∧ j < s.work.rowsHere f.dstSpan b ∧ r.sums.length = b.dim ∧ b.applied < r.epoch ∧ r.epoch ∉ b.voids ∧ b.applying ≠ some r.epoch ∧ s.work.carrierFault f.dstSpan (b.mapTiles r.row) = none ∧ (b.determ = true ∨ ∀ q ∈ b.records, ¬ (q.epoch = r.epoch ∧ q.row = r.row)) ∧ b.records.length < b.coalEntries)
    ∧ (∃ (f : Arrival) (s : State),
      s.due f = true ∧ f.ty = tyColl ∧ isPart f.ty f.arg = false ∧ f.payload.length ≠ 4096 ∧ (∀ g ∈ s.dev.step.inflight, g.coll = none))
    ∧ (∃ (f : Arrival) (s : State),
      s.due f = true ∧ f.payload.length = 4096 ∧ (f.ty = tyRowRec ∨ (f.ty = tyColl ∧ isPart f.ty f.arg = false)))
    ∧ (∃ (f : Arrival) (s : State),
      s.due f = true ∧ f.payload.length = 4096 ∧ (f.ty = tyRowRec ∨ (f.ty = tyColl ∧ isPart f.ty f.arg = false)))
    ∧ (∃ (f : Arrival) (c : Instr) (s : State),
      (c = .putFrame f ∨ c = .getResp f ∨ c = .rowRec f ∨ c = .coll f ∨ c = .getReq ⟨f, false⟩) ∧ f.port < 9 ∧ (s.work.port f.port).state = .up ∧ (s.dev.pwr.standby = false ∨ f.ctrl = true) ∧ f.check = .good ∧ s.work.rank ≠ some f.dstRank)
    ∧ (∃ (f : Arrival) (c : Instr) (s : State),
      (c = .putFrame f ∨ c = .getResp f ∨ c = .rowRec f ∨ c = .coll f ∨ c = .getReq ⟨f, false⟩) ∧ f.port < 9 ∧ (s.work.port f.port).state = .up ∧ (s.dev.pwr.standby = false ∨ f.ctrl = true) ∧ f.check = .good ∧ s.work.rank ≠ some f.dstRank)
    ∧ (∃ (f : Arrival) (s : State),
      f.ty = tyRowRec ∧ f.port < 9 ∧ (s.work.port f.port).state = .up ∧ (s.dev.pwr.standby = false ∨ f.ctrl = true) ∧ f.check = .failed) := by
  refine ⟨⟨frame tyPut 0 (Tile.bytes []), 0, dev (mapped 0 0 ∘ fabric), by exact ⟨by decide +kernel, rfl, by decide +kernel, by decide +kernel, blank_length _ _, by decide +kernel, blank_ok _ _, by decide +kernel, by decide +kernel, by decide +kernel⟩⟩,
    ⟨frame tyGetReq (480 * 4352), 480 * 4352, true, [], flow 16383 [sent0], dev (mapped 0 0 ∘ withFlows [flow 16383 [sent0]] ∘ fabric), by decide +kernel⟩,
    ⟨frame tyGetResp 0 (Tile.bytes []), { flight0 with gets := [(16383, 0, 4352)] }, (16383, 0, 4352), { step0 with phase := .compute, tasks := [task0] }, dev ((fun d => { d with step := { d.step with inflight := [{ flight0 with gets := [(16383, 0, 4352)] }] } }) ∘ withSteps [{ step0 with phase := .compute, tasks := [task0] }] ∘ fabric), by exact ⟨by decide +kernel, rfl, blank_length _ _, by decide +kernel, by decide +kernel, by decide +kernel, by decide +kernel, blank_ok _ _⟩⟩,
    ⟨frame tyRowRec 1 (RowRecord.body ⟨1023, 1, 0, ⟨0, 0, 0, 0, 0⟩, List.replicate 16 0x3F800000, []⟩), ⟨1023, 1, 0, ⟨0, 0, 0, 0, 0⟩, List.replicate 16 0x3F800000, []⟩, table1, 0, 0, dev (tabled table1 ∘ fabric), by decide +kernel⟩,
    ⟨frame tyColl 0, dev fabric, by decide +kernel⟩,
    ⟨frame tyRowRec 1 (List.replicate 4096 0), dev fabric, by exact ⟨by decide +kernel, List.length_replicate, .inl rfl⟩⟩,
    ⟨frame tyColl 1 (List.replicate 4096 0), dev fabric, by exact ⟨by decide +kernel, List.length_replicate, .inr ⟨rfl, by decide +kernel⟩⟩⟩,
    ⟨{ frame tyPut 0 with dstRank := 16383 }, .putFrame { frame tyPut 0 with dstRank := 16383 }, dev fabric, by exact ⟨.inl rfl, by decide +kernel⟩⟩,
    ⟨{ frame tyGetReq 0 with dstRank := 5 }, .getReq ⟨{ frame tyGetReq 0 with dstRank := 5 }, false⟩, dev fabric, by exact ⟨.inr (.inr (.inr (.inr rfl))), by decide +kernel⟩⟩,
    ⟨{ frame tyRowRec 0 with check := .failed }, dev fabric, by decide +kernel⟩⟩

/-- The hypotheses of `BarrierMessagesTakeEffectInTurn` can be met, clause by clause. -/
theorem witness_BarrierMessagesTakeEffectInTurn :
    (∃ (f : Arrival) (b : Table) (s : State),
      s.due f = true ∧ f.ty = tyClose ∧ s.work.table f.dstSpan (rd f.payload 0 2) = some b ∧ f.payload.drop 5 = b.canon ∧ b.applied < f.arg ∧ (f.arg, f.srcRank) ∉ b.closes)
    ∧ (∃ (f : Arrival) (b : Table) (s : State),
      s.due f = true ∧ f.ty = tyVoid ∧ s.work.table f.dstSpan (rd f.payload 0 2) = some b ∧ b.applied < f.arg ∧ b.applying ≠ some f.arg ∧ (∀ v ∈ b.voidBy, v.1 ≠ f.arg) ∧ (∀ x ∈ s.dev.step.steps, x.phase ≠ .commit))
    ∧ (∃ (f : Arrival) (x : Step) (k : Ticket) (s : State),
      s.due f = true ∧ f.ty = tyAccept ∧ x ∈ s.dev.step.steps ∧ x.span = f.dstSpan ∧ k ∈ x.tickets ∧ k.table = rd f.payload 0 2 ∧ k.epoch = f.arg ∧ k.update = true)
    ∧ (∃ (f : Arrival) (b : Table) (s : State),
      s.due f = true ∧ f.ty = tyDir ∧ s.work.table f.dstSpan (rd f.payload 0 2) = some b)
    ∧ (∃ (f : Arrival) (i : Nat) (again : Bool) (d : InFlight) (k : Look) (b : Table) (x : Step) (g : Flow) (s : State),
      s.due f = true ∧ f.ty = tyRedirect ∧ s.work.lookOf (rd f.payload 0 8) = some d ∧ d.look = some k ∧ k.pend.find? (fun q => q.1 == rd f.payload 0 8) = some (rd f.payload 0 8, i, again) ∧ s.work.stepOf d.step = some x ∧ s.work.table x.span k.table = some b ∧ s.work.isSelf b (rd f.payload 8 2) = false ∧ s.dev.vdt.flows.find? (fun g => g.span == x.span && g.rank == rd f.payload 8 2 && g.dstSpan == x.span && g.key == 0
      && g.ctrl == false) = some g) := by
  refine ⟨⟨frame tyClose 1 (leBytes 2 1023 ++ [0, 0, 0] ++ table1.canon), table1, dev (tabled table1 ∘ fabric), by decide +kernel⟩,
    ⟨frame tyVoid 1 (leBytes 2 1023), table1, dev (tabled table1 ∘ fabric), by decide +kernel⟩,
    ⟨frame tyAccept 1 (leBytes 2 1023), { step0 with phase := .commit, tickets := [⟨1023, 1, true⟩] }, ⟨1023, 1, true⟩, dev (tabled table1 ∘ withSteps [{ step0 with phase := .commit, tickets := [⟨1023, 1, true⟩] }] ∘ fabric), by decide +kernel⟩,
    ⟨frame tyDir 0 (leBytes 2 1023 ++ moving1.body false), table1, dev (tabled table1 ∘ fabric), by decide +kernel⟩,
    ⟨frame tyRedirect 0 (leBytes 8 9 ++ leBytes 2 16383), 0, false, { flight0 with look := some look0 }, look0, table0, { step0 with phase := .compute, tasks := [task0] }, flow 16383 [], withTable table0 (dev ((fun d => { d with step := { d.step with inflight := [{ flight0 with look := some look0 }] } }) ∘ withSteps [{ step0 with phase := .compute, tasks := [task0] }] ∘ withFlows [flow 16383 []] ∘ fabric)), by decide +kernel⟩⟩

/-- The hypotheses of `FlowsAcknowledgeAndRetransmit` can be met, clause by clause. -/
theorem witness_FlowsAcknowledgeAndRetransmit :
    (∃ (f : Arrival) (a : AckInfo) (g : Flow) (s : State),
      s.takes f = true ∧ s.work.flow f.flow = some g ∧ f.ty = tyAck ∧ g.rank = f.srcRank ∧ s.dev.tables = [] ∧ s.dev.vdt.waiting = [])
    ∧ (∃ (f : Arrival) (reason : Nat) (id : Nat) (g : Flow) (p : SentPkt) (x : Step) (s : State),
      s.takes f = true ∧ s.work.flow f.flow = some g ∧ f.ty = tyNack ∧ g.rank = f.srcRank ∧ g.sent.find? (fun p => p.frame.psn == f.arg) = some p ∧ p.step = some id ∧ s.work.stepOf id = some x ∧ x.phase ≠ .ended)
    ∧ (∃ (i : Nat) (psn : Nat) (g : Flow) (p : SentPkt) (s : State),
      s.work.flow i = some g ∧ g.sent.find? (fun p => p.frame.psn == psn) = some p)
    ∧ (∃ (rank : Nat) (i : Nat) (r : RxFlow) (s : State),
      r ∈ s.dev.vdt.rxs ∧ r.rank = rank ∧ r.flow = i ∧ r.unacked ≠ 0 ∧ (∀ q ∈ s.dev.vdt.rxs, q.rank = rank → q.flow = i → (s.work.sp q.span).stopVdt = false) ∧ s.work.reaches rank = true)
    ∧ (∃ (i : Nat) (g : Flow) (s : State),
      s.work.flow i = some g) := by
  refine ⟨⟨frame tyAck 0, { cum := 16777215, ranges := [(0, 0)], ce1024 := 1024, rtt := 900, marks := 1 }, flow 16383 [sent0, { sent0 with frame := { sent0.frame with psn := 16777215 } }], dev (withFlows [flow 16383 [sent0, { sent0 with frame := { sent0.frame with psn := 16777215 } }]] ∘ withSteps [step0] ∘ fabric), by decide +kernel⟩,
    ⟨frame tyNack 0, 0, 0, flow 16383 [sent0], sent0, { step0 with phase := .compute }, dev (withFlows [flow 16383 [sent0]] ∘ withSteps [{ step0 with phase := .compute }] ∘ withCmds [0] ∘ fabric), by decide +kernel⟩,
    ⟨4095, 0, flow 16383 [sent0] 63, sent0, dev (withFlows [flow 16383 [sent0] 63] ∘ fabric), by decide +kernel⟩,
    ⟨16383, 4095, { rank := 16383, flow := 4095, ctrl := false, next := 16777215, held := [(frame tyPut 0).toFrame], unacked := 1 }, dev ((fun d => { d with vdt := { d.vdt with rxs := [{ rank := 16383, flow := 4095, ctrl := false, next := 16777215, held := [(frame tyPut 0).toFrame], unacked := 1 }] } }) ∘ fabric), by decide +kernel⟩,
    ⟨4095, flow 16383 [], dev (withFlows [flow 16383 []]), by decide +kernel⟩⟩

/-- The hypotheses of `FlowsAndPortsComeAndGo` can be met, clause by clause. -/
theorem witness_FlowsAndPortsComeAndGo :
    (∃ (f : Arrival) (s : State),
      s.due f = true ∧ f.ty = tyFlowReset ∧ f.ctrl = true)
    ∧ (∃ (f : Arrival) (s : State),
      s.due f = true ∧ f.ty = tyRankMoved)
    ∧ (∃ (i : Nat) (id : Nat) (g : Flow) (p : SentPkt) (x : Step) (s : State),
      s.work.flow i = some g ∧ p ∈ g.sent ∧ p.step = some id ∧ s.work.stepOf id = some x ∧ x.phase ≠ .ended)
    ∧ (∃ (i : Nat) (g : Flow) (s : State),
      s.work.flow i = some g ∧ g.sent = [] ∧ s.dev.vdt.waiting = [])
    ∧ (∃ (p : Nat) (k : Nat) (s : State),
      p < 9 ∧ (s.work.port p).state ≠ .retired) := by
  refine ⟨⟨frame tyFlowReset 4095, dev ((fun d => { d with vdt := { d.vdt with rxs := [{ rank := 16383, flow := 4095, ctrl := false, next := 5, held := [], unacked := 1 }] } }) ∘ fabric), by decide +kernel⟩,
    ⟨frame tyRankMoved 5 (leBytes 16 (2 ^ 127)), dev (withFlows [flow 5 [sent0]] ∘ fabric), by decide +kernel⟩,
    ⟨4095, 0, flow 16383 [sent0], sent0, { step0 with phase := .compute }, dev (withFlows [flow 16383 [sent0]] ∘ withSteps [{ step0 with phase := .compute }] ∘ withCmds [0] ∘ fabric), by decide +kernel⟩,
    ⟨4095, flow 16383 [], dev (withFlows [flow 16383 []] ∘ fabric), by decide +kernel⟩,
    ⟨8, 3, ready, by decide +kernel⟩⟩

/-- The hypotheses of `SavesAndRestoresRun` can be met, clause by clause. -/
theorem witness_SavesAndRestoresRun :
    (∃ (p : Pkt) (s : State),
      s.starts opSpanSave p = true ∧ p.arg 12 1 ≤ 63 ∧ s.work.migrationKey (p.arg 14 2) = true ∧ (((s.work.sp (p.arg 12 1)).mode = .active ∧ p.opflag8 = false) ∨ (s.work.sp (p.arg 12 1)).mode = .frozen) ∧ (s.work.sp (p.arg 12 1)).save.bind (·.job) = none)
    ∧ (∃ (n : Nat) (cmd : Nat) (host : Nat) (len : Nat) (key : Nat) (v : Save) (s : State),
      (s.work.sp n).save = some v ∧ v.job = some (cmd, host, len, key, false) ∧ (s.work.sp n).stopHost = false ∧ (s.work.sp 0).stopHost = false ∧ s.work.ending n = false)
    ∧ (∃ (n : Nat) (cmd : Nat) (host : Nat) (len : Nat) (key : Nat) (v : Save) (s : State),
      (s.work.sp n).save = some v ∧ v.job = some (cmd, host, len, key, true) ∧ (s.work.sp n).mode = .frozen ∧ v.dirty = [] ∧ (s.work.sp n).stopHost = false ∧ (s.work.sp 0).stopHost = false ∧ 4096 * 65538 + 4 * (s.dev.deck.adapters.filter fun a => a.span == n).length + 4096 ≤ len)
    ∧ (∃ (p : Pkt) (s : State),
      s.starts opSpanRestore p = true ∧ p.arg 12 1 ≤ 63 ∧ s.work.migrationKey (p.arg 14 2) = true ∧ (s.work.sp (p.arg 12 1)).mode = .active ∧ (s.work.sp (p.arg 12 1)).restore = none ∧ s.work.emptySpan (p.arg 12 1) = true)
    ∧ (∃ (p : Pkt) (r : RestoreJob) (s : State),
      s.starts opSpanRestore p = true ∧ p.arg 12 1 ≤ 63 ∧ s.work.migrationKey (p.arg 14 2) = true ∧ (s.work.sp (p.arg 12 1)).mode ≠ .absent ∧ (s.work.sp (p.arg 12 1)).restore = some r ∧ r.cmd = none)
    ∧ (∃ (n : Nat) (cmd : Nat) (q : List SaveRec) (r : RestoreJob) (r' : RestoreJob) (s : State),
      (s.work.sp n).restore = some r ∧ r.cmd = some cmd ∧ (s.work.sp n).stopHost = false ∧ (s.work.sp 0).stopHost = false ∧ (s.work.sp n).mode = .restoring ∧ takeRecords r q = .ok (r', none))
    ∧ (∃ (n : Nat) (cmd : Nat) (x : SaveRec) (q : List SaveRec) (r : RestoreJob) (s : State),
      (s.work.sp n).restore = some r ∧ r.cmd = some cmd ∧ (s.work.sp n).stopHost = false ∧ (s.work.sp 0).stopHost = false ∧ (s.work.sp n).mode = .restoring ∧ (s.work.sp n).reset = none ∧ x.holds = false)
    ∧ (∃ (n : Nat) (cmd : Nat) (q : List SaveRec) (r : RestoreJob) (r' : RestoreJob) (e : SaveRec) (st : StateRec) (s : State),
      (s.work.sp n).restore = some r ∧ r.cmd = some cmd ∧ (s.work.sp n).stopHost = false ∧ (s.work.sp 0).stopHost = false ∧ (s.work.sp n).mode = .restoring ∧ takeRecords r q = .ok (r', some e) ∧ r'.stateRec = some st ∧ (s.work.modSp n fun x => { x with restore := none }).restoreFault n st e r' = none) := by
  refine ⟨⟨pk [(12, 1, 63), (16, 8, 4096), (24, 8, 2^30)], dev (spanIs 63 (fun x => { x with mode := .active }) ∘ vfs ∘ withKey), by decide +kernel⟩,
    ⟨0, 0, 4096, 2101248, 0, save0 false 2101248 [0, 1], dev (mapped 0 0 ∘ spanIs 0 (fun x => { x with save := some (save0 false 2101248 [0, 1]) }) ∘ withCmds [0]), by decide +kernel⟩,
    ⟨0, 0, 4096, 268447744, 0, save0 true 268447744 [], dev (spanIs 0 (fun x => { x with mode := .frozen, save := some (save0 true 268447744 []) }) ∘ withCmds [0]), by decide +kernel⟩,
    ⟨pk [(12, 1, 63), (16, 8, 4096), (24, 8, 2^30)], dev (spanIs 63 (fun x => { x with mode := .active }) ∘ vfs ∘ withKey), by decide +kernel⟩,
    ⟨pk [(12, 1, 63), (16, 8, 4096), (24, 8, 2^30)], { restore0 with cmd := none }, dev (spanIs 63 (fun x => { x with mode := .restoring, restore := some { restore0 with cmd := none } }) ∘ vfs ∘ withKey), by decide +kernel⟩,
    ⟨63, 0, [saveRec 2], restore0, { restore0 with records := 1, unit := 1, pages := [(0, [])] }, dev (spanIs 63 (fun x => { x with mode := .restoring, restore := some restore0 }) ∘ vfs ∘ withCmds [0]), by exact ⟨by decide +kernel, by decide +kernel, by decide +kernel, by decide +kernel, by decide +kernel, takes_page⟩⟩,
    ⟨63, 0, badRec, [saveRec 3], restore0, dev (spanIs 63 (fun x => { x with mode := .restoring, restore := some restore0 }) ∘ vfs ∘ withCmds [0]), by exact ⟨by decide +kernel, by decide +kernel, by decide +kernel, by decide +kernel, by decide +kernel, by decide +kernel, badRec_bad⟩⟩,
    ⟨0, 0, [saveRec 1 (some (ready.work.stateRecord 0)), saveRec 3], restore0, { restore0 with records := 2, unit := 2, stateRec := some (ready.work.stateRecord 0) }, saveRec 3, ready.work.stateRecord 0, dev (spanIs 0 (fun x => { x with mode := .restoring, restore := some restore0 }) ∘ withCmds [0]), by exact ⟨by decide +kernel, by decide +kernel, by decide +kernel, by decide +kernel, by decide +kernel, takes_end _, by decide +kernel, by decide +kernel⟩⟩⟩

/-- The hypotheses of `PoliciesAndSecurePointsRun` can be met, clause by clause. -/
theorem witness_PoliciesAndSecurePointsRun :
    (∃ (p : Pkt) (s : State),
      s.starts opSecurePolicy p = true ∧ policyOk p.block (s.work.regv 0 0x7000 % 65536) = false)
    ∧ (∃ (p : Pkt) (s : State),
      s.starts opSecurePolicy p = true ∧ policyOk p.block (s.work.regv 0 0x7000 % 65536) = true ∧ rd p.block 30 2 = 0 ∧ s.work.secOf p.fn = none ∧ s.work.tilesWritable p.fn (rd p.block 16 6) (rd p.block 12 4 * pageTiles) = true ∧ (bit (rd p.block 2 1) 1 = true → s.work.tilesWritable p.fn (rd p.block 80 6) (rd p.block 86 2) = true) ∧ s.work.ownKey p.fn (rd p.block 22 2) = true)
    ∧ (∃ (p : Pkt) (x : SecState) (s : State),
      s.starts opSecureNow p = true ∧ s.work.secOf p.fn = some x)
    ∧ (∃ (p : Pkt) (s : State),
      s.starts opSecureNow p = true ∧ s.work.secOf p.fn = none)
    ∧ (∃ (n : Nat) (us : Nat) (x : SecState) (s : State),
      s.work.secOf n = some x ∧ x.due = true ∧ s.work.mayCapture n = true ∧ (s.work.pointEntries n x).2 = [] ∧ (cutSegments (s.work.pointEntries n x).1).length ≤ x.policy.dataRows.length ∧ (∀ g ∈ x.segs, ∀ i < (cutSegments (s.work.pointEntries n x).1).length, g.row ≠ x.policy.rowOf (x.nextSeg + i)))
    ∧ (∃ (n : Nat) (us : Nat) (x : SecState) (s : State),
      s.work.secOf n = some x ∧ x.due = true ∧ s.work.mayCapture n = true ∧ (s.work.pointEntries n x).2 ≠ [])
    ∧ (∃ (n : Nat) (p : Nat) (k : Nat) (l : List (Nat × Nat)) (x : SecState) (s : State),
      s.work.secOf n = some x ∧ x.pointN = (p, k) :: l ∧ x.pointAcked p = true)
    ∧ (∃ (n : Nat) (k : Nat) (g : Segment) (l : List Segment) (x : SecState) (s : State),
      s.work.secOf n = some x ∧ x.segs = g :: l ∧ x.policy.drainAddr ≠ 0 ∧ s.work.ending n = false ∧ x.isSealed g = true ∧ g.acked = true ∧ (s.work.sp n).stopHost = false ∧ (s.work.keySlot x.policy.secKey).state = .installed ∧ k ≤ x.produced ∧ x.produced + drainRecBytes ≤ k + (x.policy.drainBytes - 4096)) := by
  refine ⟨⟨pk [(56, 8, 4096)] 1 (blk 128 []), ready, by decide +kernel⟩,
    ⟨pk [(56, 8, 4096)] 1 (blk 128 [(0, 2, 65535), (2, 1, 3), (12, 4, 64), (50, 30, 2 ^ 240 - 1), (86, 2, 30784)]), dev (pages64 ∘ fabric ∘ withKey), by decide +kernel⟩,
    ⟨pk [], SecState.start policy0 none, dev (withSec (SecState.start policy0 none)), by decide +kernel⟩,
    ⟨pk [], ready, by decide +kernel⟩,
    ⟨0, 250, { SecState.start policy0 none with due := true, nowCmds := [0] }, dev (mapped 0 0 ∘ withSec { SecState.start policy0 none with due := true, nowCmds := [0] } ∘ withCmds [0]), by decide +kernel⟩,
    ⟨0, 250, { SecState.start policy0 none with due := true, touched := [0], nowCmds := [0] }, damaged, by exact ⟨by decide +kernel, by decide +kernel, by decide +kernel, damaged_bad⟩⟩,
    ⟨0, 1, 65535, [], { SecState.start policy0 none with pointN := [(1, 65535)], sealCmds := [(1, 0)], segs := [segment0] }, dev (withSec { SecState.start policy0 none with pointN := [(1, 65535)], sealCmds := [(1, 0)], segs := [segment0] } ∘ withCmds [0]), by decide +kernel⟩,
    ⟨0, 0, segment0, [], { SecState.start policy0 none with segs := [segment0] }, dev (withSec { SecState.start policy0 none with segs := [segment0] } ∘ withKey), by decide +kernel⟩⟩

/-- The hypotheses of `RestoresAdoptionsAndParityRun` can be met, clause by clause. -/
theorem witness_RestoresAdoptionsAndParityRun :
    (∃ (p : Pkt) (s : State),
      s.starts opRestore p = true ∧ rd p.block 0 1 = 0 ∧ restoreRecOk p.block = true ∧ rd p.block 4 2 ≤ 16383 ∧ s.work.programsOf p.fn = [] ∧ (∀ r ∈ s.dev.deck.requests, r.span ≠ p.fn) ∧ (s.work.sp p.fn).mode = .active ∧ (s.work.sp p.fn).run = none ∧ s.work.keyUsable p.fn (rd p.block 6 2) = true)
    ∧ (∃ (p : Pkt) (s : State),
      s.starts opRankAdopt p = true ∧ p.arg 14 1 ≤ 63 ∧ p.arg 12 2 ≤ 16383 ∧ (16383 < s.work.regv 0 0x7000 % 65536 ∨ s.work.regv 0 0x7000 % 65536 = p.arg 12 2) ∧ rd p.block 0 1 = 0 ∧ rd p.block 4 2 = p.arg 12 2 ∧ restoreRecOk p.block = true ∧ s.work.programsOf (p.arg 14 1) = [] ∧ (∀ r ∈ s.dev.deck.requests, r.span ≠ p.arg 14 1) ∧ (s.work.sp (p.arg 14 1)).mode = .active ∧ (s.work.sp (p.arg 14 1)).run = none ∧ s.work.keyUsable (p.arg 14 1) (rd p.block 6 2) = true)
    ∧ (∃ (p : Pkt) (b : Table) (s : State),
      s.starts opReshard p = true ∧ p.arg 12 2 < 1024 ∧ s.work.table p.fn (p.arg 12 2) = some b ∧ b.id = p.arg 12 2 ∧ p.arg 14 2 ∈ s.work.rankList p.fn b ∧ s.work.isSelf b (p.arg 14 2) = false ∧ b.fold = none ∧ s.work.regionFault p.fn b.addrRows
      ({ b with localRows := s.work.rowsHere p.fn { b with fold := some (p.arg 14 2, false) } } : Table).rowTiles = none)
    ∧ (∃ (n : Nat) (a : Nat) (b : Nat) (l : List Nat) (un : List Nat) (rs : List DrainRec) (r : RestoreRun) (s : State),
      (s.work.sp n).run = some r ∧ (s.work.sp n).reset = none ∧ (s.work.sp n).mode ≠ .absent ∧ s.work.ending n = false ∧ un.filter (chainOf r.ranks r.srcRank).contains = a :: b :: l)
    ∧ (∃ (n : Nat) (p : Nat) (records : List DrainRec) (drained : List DrainRec) (rs : List DrainRec) (un : List Nat) (es : List LogEntry) (r : RestoreRun) (s : State),
      (s.work.sp n).run = some r ∧ r.image = true ∧ s.work.ending n = false ∧ (un.filter (chainOf r.ranks r.srcRank).contains).length < 2 ∧ drained = (records.filter fun q => q.row.isNone).take (if r.hostAddr = 0 then 0 else r.length / drainRecBytes) ∧ rs = (drained ++ records.filter fun q => q.row.isSome).foldr insertDrain [] ∧ (∀ q ∈ rs, q.holds = true) ∧ (∀ q ∈ drained, q.magic = 0x56533242 ∧ q.ty = 4) ∧ upToMark r.point rs = some (es, p) ∧ (∀ e ∈ es, s.work.entryFault n true r.table e = none))
    ∧ (∃ (f : Arrival) (pa : Nat) (x : SecState) (s : State),
      s.due f = true ∧ isDelta f.toFrame = true ∧ s.work.secOf f.dstSpan = some x ∧ x.policy.group ≠ 1 ∧ f.arg / 512 % x.policy.group = x.policy.index ∧ f.arg / 512 < x.policy.bearPages ∧ f.srcRank ∈ x.policy.ranks ∧ f.arg / 512 ∈ x.used ∧ s.work.bearAt f.dstSpan x.policy (f.arg / 512) = some pa ∧ f.arg % 512 * 4096 + f.payload.length ≤ pageBytes)
    ∧ (∃ (f : Arrival) (x : SecState) (g : Flow) (order : List Nat) (here : Nat) (dest : Nat) (nxt : Nat) (s : State),
      s.due f = true ∧ isPart f.ty f.arg = true ∧ f.payload ≠ [] ∧ s.work.secOf f.dstSpan = some x ∧ order = chainOf x.policy.ranks (f.arg / 2 ^ 46 % 2 ^ 14) ∧ here = x.policy.ranks.getD x.policy.index 0 ∧ dest = f.arg / 2 ^ 32 % 2 ^ 14 ∧ (order.drop (order.idxOf here + 1)).headD dest = nxt ∧ nxt ≠ here ∧ ¬ (s.work.rank = some dest ∧ order.getLast? = some f.srcRank) ∧ s.dev.vdt.flows.find? (fun g => g.span == f.dstSpan && g.rank == nxt && g.dstSpan == f.dstSpan && g.key == f.key
      && g.ctrl == false) = some g) := by
  refine ⟨⟨pk [(56, 8, 4096)] 1 (blk 64 [(4, 2, 16383), (8, 4, 0xFFFFFFFF)]), dev withKey, by decide +kernel⟩,
    ⟨pk [(12, 2, 16383), (14, 1, 63), (56, 8, 4096)] 1 (blk 64 [(4, 2, 16383), (8, 4, 0xFFFFFFFF)]), dev (spanIs 63 (fun x => { x with mode := .active, keyCount := 1 }) ∘ vfs ∘ withKey), by decide +kernel⟩,
    ⟨pk [(12, 2, 1023), (14, 2, 16383)], { table1 with group := 2, addrMap := 4352 }, { dev (tabled { table1 with group := 2, addrMap := 4352 } ∘ mapped 0 0 ∘ fabric) with mem := [(4354, 0xFF), (4355, 0x3F)] }, by decide +kernel⟩,
    ⟨63, 16382, 1, [2], [9, 16382, 1, 2], [], { cmd := 0, image := true, table := 0, srcRank := 16383, point := 1, ranks := [16382, 1, 2, 16383] }, dev (spanIs 63 (fun x => { x with mode := .restoring, run := some { cmd := 0, image := true, table := 0, srcRank := 16383, point := 1, ranks := [16382, 1, 2, 16383] } }) ∘ vfs ∘ withCmds [0]), by decide +kernel⟩,
    ⟨63, 7, [{ ty := 4, va := 1, dlen := 0, pass := 7, row := some 1, entries := [.mark 7 1] }, { ty := 4, va := 0, dlen := 0, pass := 0, row := some 0, entries := [.tile 7 0 []] }], [], [{ ty := 4, va := 0, dlen := 0, pass := 0, row := some 0, entries := [.tile 7 0 []] }, { ty := 4, va := 1, dlen := 0, pass := 7, row := some 1, entries := [.mark 7 1] }], [16383], [.tile 7 0 []], { cmd := 0, image := true, table := 0, srcRank := 16383, point := 0xFFFFFFFF, ranks := [] }, dev (spanIs 63 (fun x => { x with mode := .restoring, run := some { cmd := 0, image := true, table := 0, srcRank := 16383, point := 0xFFFFFFFF, ranks := [] } }) ∘ (fun d => { d with hbm := { d.hbm with pages := [(134217728 * 63, some { frame := some 3, writable := true, deck := false, gone := false })] } }) ∘ vfs ∘ withCmds [0]), by decide +kernel⟩,
    ⟨delta0, 2097152, { SecState.start policy2 none with used := [1] }, dev (mapped 1 1 ∘ withSec { SecState.start policy2 none with used := [1] } ∘ fabric), by exact ⟨by decide +kernel, delta0_is, by decide +kernel, by decide +kernel, by decide +kernel, by decide +kernel, by decide +kernel, by decide +kernel, by decide +kernel, delta0_length⟩⟩,
    ⟨frame tyColl (partArg 5 16382 512) [1, 2], { SecState.start policy2 none with used := [1] }, flow 5 [], [16383, 0], 0, 5, 5, dev (mapped 1 1 ∘ withFlows [flow 5 []] ∘ withSec { SecState.start policy2 none with used := [1] } ∘ fabric), by decide +kernel⟩⟩

/-- The hypotheses of `TestsStartAndEnd` can be met, clause by clause. -/
theorem witness_TestsStartAndEnd :
    (∃ (p : Pkt) (s : State),
      s.starts opLoadtestPack p = true)
    ∧ (∃ (p : Pkt) (s : State),
      s.starts opLoadtestRun p = true ∧ p.arg 12 1 = 0 ∧ p.arg 14 2 ≤ 143 ∧ ((s.work.phys (p.arg 14 2)).state = .active ∨ (s.work.phys (p.arg 14 2)).state = .spare) ∧ (∀ l, s.work.logOf (p.arg 14 2) = some l → ∀ e ∈ (s.work.core' l).tiles, e.pin ≠ .hot))
    ∧ (∃ (p : Pkt) (cs : List Nat) (s : State),
      s.starts opLoadtestRun p = true ∧ p.arg 12 1 = 1 ∧ s.work.testTarget 1 (p.arg 14 2) = .ok cs)
    ∧ (∃ (p : Pkt) (k : Nat) (s : State),
      s.starts opKatRun p = true ∧ p.arg 14 2 ≤ 127 ∧ s.work.owner (p.arg 14 2) = 0 ∧ s.work.physOf (p.arg 14 2) = some k)
    ∧ (∃ (c : Nat) (s : State),
      bit (s.work.regv 0 0x5444) 0 = true ∧ s.dev.pwr.alive = true ∧ 3 ≤ s.dev.pwr.phase ∧ s.dev.pwr.standby = false ∧ c < 144 ∧ ((s.work.phys c).state = .active ∨ (s.work.phys c).state = .spare) ∧ (∀ l, s.work.logOf c = some l → (s.work.cluster (c / 9)).asleep = false ∧ s.work.hostsWork l = false ∧ ∀ e ∈ (s.work.core' l).tiles, e.pin = .none))
    ∧ (∃ (c : Nat) (cmd : Nat) (j : TestJob) (s : State),
      s.dev.core.tests.find? (fun j => s.work.testEnds j [(c, none)]) = some j ∧ j.kind = 0 ∧ j.cmd = some cmd ∧ (s.work.phys c).state = .testing ∧ (∀ k ∈ s.dev.core.tests, k ≠ j → c ∉ k.cores))
    ∧ (∃ (c : Nat) (cmd : Nat) (f : Nat) (j : TestJob) (s : State),
      s.dev.core.tests.find? (fun j => s.work.testEnds j [(c, some f)]) = some j ∧ j.kind = 0 ∧ j.cmd = some cmd ∧ (s.work.phys c).state = .testing ∧ (∀ x ∈ s.dev.step.steps, x.phase ≠ .staged))
    ∧ (∃ (c : Nat) (cmd : Nat) (j : TestJob) (b : Bool) (s : State),
      s.dev.core.tests.find? (fun j => s.work.testEnds j [(c, none)]) = some j ∧ j.kind = 2 ∧ j.cmd = some cmd ∧ j.bad = none ∧ (j.cores.filter fun k => (s.work.phys k).state != .retired) = [c])
    ∧ (∃ (c : Nat) (l : Nat) (cmd : Nat) (f : Nat) (j : TestJob) (b : Bool) (s : State),
      s.dev.core.tests.find? (fun j => s.work.testEnds j [(c, some f)]) = some j ∧ j.kind = 2 ∧ j.cmd = some cmd ∧ j.bad = none ∧ (j.cores.filter fun k => (s.work.phys k).state != .retired) = [c] ∧ s.work.logOf c = some l ∧ (∀ x ∈ s.dev.step.steps, x.phase ≠ .staged))
    ∧ (∃ (c : Nat) (s : State),
      (s.work.phys c).state = .quarantined ∧ (∀ l, s.work.logOf c = some l → s.work.busyCore l = false) ∧ (∀ j ∈ s.dev.core.tests, ¬ (j.kind = 5 ∧ j.cores = [c])))
    ∧ (∃ (c : Nat) (s : State),
      (s.work.phys c).state = .quarantined ∧ (∀ l, s.work.logOf c = some l → s.work.busyCore l = false) ∧ (∀ j ∈ s.dev.core.tests, ¬ (j.kind = 5 ∧ j.cores = [c])))
    ∧ (∃ (c : Nat) (l : Nat) (k : Nat) (s : State),
      c < 144 ∧ s.work.logOf c = some l ∧ (s.work.phys c).state = .retired ∧ s.work.busyCore l = false ∧ (s.work.cluster (c / 9)).dead = false ∧ (∀ j ∈ s.dev.core.tests, j.kind ≠ 3) ∧ s.work.spareOf (c / 9) = some k) := by
  refine ⟨⟨pk [(24, 4, 67108865)], ready, by decide +kernel⟩,
    ⟨pk [(14, 2, 143)], ready, by exact ⟨by decide +kernel, by decide +kernel, by decide +kernel, by decide +kernel, fun l h => by
      have e : ready.work.logOf 143 = none := by decide +kernel
      exact absurd (e.symm.trans h) (by simp)⟩⟩,
    ⟨pk [(12, 1, 1), (14, 2, 15)], (List.range 9).map (135 + ·), ready, by exact ⟨by decide +kernel, by decide +kernel, rfl⟩⟩,
    ⟨pk [(14, 2, 127)], 142, ready, by decide +kernel⟩,
    ⟨143, dev (withRegs [(0x5444, 1#32)]), by exact ⟨by decide +kernel, by decide +kernel, by decide +kernel, by decide +kernel, by decide +kernel, by decide +kernel, fun l h => by
      have e : (dev (withRegs [(0x5444, 1#32)])).work.logOf 143 = none := by decide +kernel
      exact absurd (e.symm.trans h) (by simp)⟩⟩,
    ⟨143, 0, test0 0 143, dev (withTests [test0 0 143] ∘ coreIn 143 .testing ∘ withCmds [0]), by exact ⟨by decide +kernel, by decide +kernel, by decide +kernel, by decide +kernel, fun k h n => absurd (List.mem_singleton.1 h) n⟩⟩,
    ⟨142, 0, 4294967295, test0 0 142, dev (withTests [test0 0 142] ∘ coreIn 142 .testing ∘ withCmds [0]), by decide +kernel⟩,
    ⟨142, 0, test0 2 142, false, dev (withTests [test0 2 142] ∘ withCmds [0]), by decide +kernel⟩,
    ⟨142, 127, 0, 4294967295, test0 2 142, false, dev (withTests [test0 2 142] ∘ withCmds [0]), by decide +kernel⟩,
    ⟨142, dev (coreIn 142 .quarantined), by exact ⟨by decide +kernel, fun l h => by
      have e : (dev (coreIn 142 .quarantined)).work.logOf 142 = some 127 := by decide +kernel
      cases e.symm.trans h; decide +kernel, by decide +kernel⟩⟩,
    ⟨143, dev (coreIn 143 .quarantined), by exact ⟨by decide +kernel, fun l h => by
      have e : (dev (coreIn 143 .quarantined)).work.logOf 143 = none := by decide +kernel
      exact absurd (e.symm.trans h) (by simp), by decide +kernel⟩⟩,
    ⟨142, 127, 143, dev (coreIn 142 .retired), by decide +kernel⟩⟩

/-- The hypotheses of `FaultsAreCountedAndActedOn` can be met, clause by clause. -/
theorem witness_FaultsAreCountedAndActedOn :
    (∃ (k : BktClass) (i : Nat) (s : State),
      s.dev.pwr.alive = true ∧ 0 < (s.work.bucket k.num i).level ∧ i < k.instances)
    ∧ (∃ (s : State),
      s.dev.pwr.alive = true)
    ∧ (∃ (c : Nat) (l : Nat) (k : Nat) (b : Nat) (r : Nat) (o : List Nat) (e : TileEnt) (s : State),
      c < 144 ∧ b < 16 ∧ r < 384 ∧ s.work.logOf c = some l ∧ (s.work.core' l).tiles.find? (fun e => e.slot == k) = some e ∧ e.state = .clean)
    ∧ (∃ (c : Nat) (l : Nat) (s : State),
      c < 144 ∧ s.work.logOf c = some l ∧ (s.work.phys c).state = .active)
    ∧ (∃ (d : Nat) (s : State),
      s.dev.pwr.alive = true ∧ 2 ≤ s.dev.pwr.phase ∧ d < 4 ∧ (s.work.die d).resetting = false ∧ s.dev.pwr.standby = false)
    ∧ (∃ (d : Nat) (s : State),
      s.dev.pwr.alive = true ∧ 2 ≤ s.dev.pwr.phase)
    ∧ (∃ (d : Nat) (s : State),
      (s.work.die d).resetting = true)
    ∧ (∃ (e : Nat) (s : State),
      e < 36)
    ∧ (∃ (c : Nat) (b : Bool) (s : State),
      c < 16 ∧ (s.work.cluster c).dead = false ∧ 2 * c + (s.work.cluster c).pll ∉ s.dev.integ.plls ∧ 2 * c + (1 - (s.work.cluster c).pll) ∉ s.dev.integ.plls)
    ∧ (∃ (c : Nat) (b : Bool) (s : State),
      c < 16 ∧ (s.work.cluster c).dead = false ∧ 2 * c + (s.work.cluster c).pll ∉ s.dev.integ.plls ∧ 2 * c + (1 - (s.work.cluster c).pll) ∉ s.dev.integ.plls)
    ∧ (∃ (c : Nat) (b : Bool) (s : State),
      c < 16 ∧ (s.work.cluster c).dead = false ∧ (s.work.cluster c).pll ≤ 1 ∧ 2 * c + (s.work.cluster c).pll ∉ s.dev.integ.plls ∧ 2 * c + (1 - (s.work.cluster c).pll) ∉ s.dev.integ.plls)
    ∧ (∃ (k : Nat) (s : State),
      k < 56 ∧ k ∉ s.dev.integ.phases)
    ∧ (∃ (c : Nat) (s : State),
      c < 16)
    ∧ (∃ (r : Nat) (d : Nat) (s : State),
      s.dev.pwr.alive = true ∧ 2 ≤ s.dev.pwr.phase ∧ d < 4 ∧ (s.work.die d).resetting = false ∧ s.dev.pwr.standby = false)
    ∧ (∃ (r : Nat) (s : State),
      s.dev.pwr.alive = true ∧ 2 ≤ s.dev.pwr.phase) := by
  refine ⟨⟨.hbmRow, 94568447, dev (bucketAt (2 * 2 ^ 28 + 94568447) 255), by decide +kernel⟩,
    ⟨dev (bucketAt 143 255), by decide +kernel⟩,
    ⟨142, 127, 0, 15, 383, [], ent 0, dev (holding 127 [ent 0] ∘ mapped 0 0), by decide +kernel⟩,
    ⟨142, 127, dev (withSteps [{ step0 with phase := .compute, tasks := [task0 (some 127)] }] ∘ withCmds [0]), by decide +kernel⟩,
    ⟨3, dev (withSteps [{ step0 with phase := .compute, tasks := [task0 (some 127)] }] ∘ withCmds [0]), by decide +kernel⟩,
    ⟨3, dev withKey, by decide +kernel⟩,
    ⟨3, dev (fun d => { d with core := { d.core with dies := [(3, { resetting := true, pins := [] })] } }), by decide +kernel⟩,
    ⟨35, dev (bucketAt (5 * 2 ^ 28 + 35) 254), by decide +kernel⟩,
    ⟨15, true, ready, by decide +kernel⟩,
    ⟨0, false, dev (clusterIn 0 { pll := 1 }), by decide +kernel⟩,
    ⟨15, true, ready, by decide +kernel⟩,
    ⟨55, dev (bucketAt (7 * 2 ^ 28 + 55) 1), by decide +kernel⟩,
    ⟨15, ready, by decide +kernel⟩,
    ⟨13, 3, ready, by decide +kernel⟩,
    ⟨13, ready, by decide +kernel⟩⟩

/-- The hypotheses of `SuppliesGovernorAndStandbyActOnPower` can be met, clause by clause. -/
theorem witness_SuppliesGovernorAndStandbyActOnPower :
    (∃ (s : State),
      s.dev.pwr.alive = true ∧ s.dev.pwr.auxOk = true)
    ∧ (∃ (s : State),
      s.dev.pwr.alive = true ∧ s.dev.pwr.mainLost = false ∧ (s.dev.pwr.mainOk = true ∨ 2 ≤ s.dev.pwr.phase))
    ∧ (∃ (s : State),
      s.dev.pwr.alive = true ∧ s.dev.pwr.mainLost = true)
    ∧ (∃ (s : State),
      s.dev.pwr.alive = true ∧ s.dev.pwr.auxOk = false ∧ s.dev.pwr.mainOk = false ∧ (s.dev.pwr.mainLost = true ∨ s.dev.pwr.phase ≤ 1))
    ∧ (∃ (watts : Nat) (volts : Nat) (bs : List Nat) (hs : List (Nat × Int)) (os : List (Nat × Nat)) (s : State),
      s.dev.pwr.alive = true ∧ 2 ≤ s.dev.pwr.phase ∧ bs.Nodup ∧ (∀ q ∈ hs, q.2 < 92) ∧ (∀ q ∈ os, q.2 ≤ s.work.allowance q.1))
    ∧ (∃ (watts : Nat) (volts : Nat) (bs : List Nat) (hs : List (Nat × Int)) (os : List (Nat × Nat)) (s : State),
      s.dev.pwr.alive = true ∧ 2 ≤ s.dev.pwr.phase ∧ bs.Nodup ∧ (∀ q ∈ hs, q.2 < 92) ∧ (∀ q ∈ os, q.2 ≤ s.work.allowance q.1))
    ∧ (∃ (watts : Nat) (volts : Nat) (d : Nat) (temp : Int) (bs : List Nat) (hs : List (Nat × Int)) (os : List (Nat × Nat)) (s : State),
      s.dev.pwr.alive = true ∧ 2 ≤ s.dev.pwr.phase ∧ d < 4 ∧ (d, temp) ∈ hs ∧ 95 < temp ∧ watts ≤ s.work.capNow volts)
    ∧ (∃ (c : Nat) (up : List Nat) (down : List Nat) (s : State),
      s.dev.pwr.alive = true ∧ 3 ≤ s.dev.pwr.phase ∧ c < 16 ∧ (s.work.cluster c).asleep = false)
    ∧ (∃ (c : Nat) (up : List Nat) (down : List Nat) (s : State),
      s.dev.pwr.alive = true ∧ 3 ≤ s.dev.pwr.phase ∧ c < 16 ∧ (s.work.cluster c).asleep = false)
    ∧ (∃ (s : State),
      s.dev.pwr.alive = true ∧ 2 ≤ s.dev.pwr.phase ∧ s.dev.pwr.standby = false)
    ∧ (∃ (s : State),
      s.dev.pwr.alive = true ∧ 2 ≤ s.dev.pwr.phase ∧ s.dev.pwr.standby = false)
    ∧ (∃ (h : Int) (s : State),
      s.dev.pwr.hot = true ∧ h < 85)
    ∧ (∃ (h : Int) (s : State),
      s.work.busUp = true ∧ s.dev.pwr.standby = true ∧ s.dev.pwr.tripped = true ∧ h < 85 ∧ (∀ j ∈ s.dev.cmd.parJobs, j.later = []))
    ∧ (∃ (v : Word) (s : State),
      s.work.busUp = true)
    ∧ (∃ (v : Word) (s : State),
      s.work.busUp = true)
    ∧ (∃ (s : State),
      s.work.mayStandBy = true)
    ∧ (∃ (s : State),
      s.dev.pwr.standby = true ∧ s.dev.pwr.tripped = false ∧ s.dev.pwr.exiting = true ∧ (∀ j ∈ s.dev.cmd.parJobs, j.later = [])) := by
  refine ⟨⟨dev (pwr fun p => { p with standby := true }), by decide +kernel⟩,
    ⟨dev (bucketAt 143 255), by decide +kernel⟩,
    ⟨dev (pwr fun p => { p with mainLost := true, mainOk := false, phase := 1 }), by decide +kernel⟩,
    ⟨dev (bucketAt 143 255 ∘ pwr fun p => { p with mainLost := true, mainOk := false, auxOk := false, phase := 1 }), by decide +kernel⟩,
    ⟨4096, 512, [15, 0], [(0, 91)], [(3, 350)], dev (clusterIn 15 { lowered := 31 }), by decide +kernel⟩,
    ⟨581, 600, [3], [], [], dev (clusterIn 15 { lowered := 31 } ∘ withRegs [(0x5500, 600#32)]), by decide +kernel⟩,
    ⟨600, 600, 3, 96, [0], [(0, 80), (3, 96)], [(3, 351)], dev (withRegs [(0x5500, 600#32)]), by decide +kernel⟩,
    ⟨15, [15], [], dev (clusterIn 15 { millivolts := 899 }), by decide +kernel⟩,
    ⟨15, [3], [15, 15], dev (clusterIn 15 { millivolts := 601 }), by decide +kernel⟩,
    ⟨ready, by decide +kernel⟩,
    ⟨dev (pwr fun p => { p with auxOk := false }), by decide +kernel⟩,
    ⟨84, dev (pwr fun p => { p with hot := true, phase := 1 }), by decide +kernel⟩,
    ⟨84, dev (pwr fun p => { p with standby := true, tripped := true }), by decide +kernel⟩,
    ⟨1, ready, by decide +kernel⟩,
    ⟨0, dev (pwr fun p => { p with standby := true, standbyReq := true }), by decide +kernel⟩,
    ⟨dev (holding 127 [ent 0 .clean .stay] ∘ mapped 0 0 ∘ pwr fun p => { p with standbyReq := true }), by decide +kernel⟩,
    ⟨dev (mapped 0 0 ∘ pwr fun p => { p with standby := true, standbyReq := true, exiting := true, pins := [(127, 0, .stay, none)] }), by decide +kernel⟩⟩

/-- The hypotheses of `BringUpRunsItsPhases` can be met, clause by clause. -/
theorem witness_BringUpRunsItsPhases :
    (∃ (s : State),
      s.dev.pwr.alive = true ∧ s.dev.pwr.phase = 0)
    ∧ (∃ (s : State),
      s.dev.pwr.alive = true ∧ s.dev.pwr.bootFailed = false ∧ s.dev.pwr.hot = false ∧ s.dev.pwr.mainLost = false ∧ s.dev.pwr.phase = 1 ∧ s.dev.pwr.mainOk = true ∧ s.dev.pwr.standby = false)
    ∧ (∃ (s : State),
      s.dev.pwr.alive = true ∧ s.dev.pwr.perst = false ∧ s.dev.pwr.mainLost = false ∧ s.dev.pwr.bootFailed = false ∧ 2 ≤ s.dev.pwr.phase ∧ s.dev.pwr.linkUp = false)
    ∧ (∃ (s : State),
      s.dev.pwr.alive = true ∧ s.dev.pwr.phase = 2 ∧ s.dev.pwr.b2Done = true ∧ s.dev.pwr.perst = false ∧ s.dev.pwr.standby = false)
    ∧ (∃ (k : Nat) (s : State),
      s.dev.pwr.alive = true ∧ 3 ≤ s.dev.pwr.phase ∧ k < 8 ∧ (s.work.stackState k = .training ∨ s.work.stackState k = .retry))
    ∧ (∃ (k : Nat) (s : State),
      s.dev.pwr.alive = true ∧ 3 ≤ s.dev.pwr.phase ∧ k < 8 ∧ (s.work.stackState k = .training ∨ s.work.stackState k = .retry))
    ∧ (∃ (k : Nat) (s : State),
      s.dev.pwr.alive = true ∧ 3 ≤ s.dev.pwr.phase ∧ k < 9 ∧ ((s.work.port k).state = .training ∨ (s.work.port k).state = .down))
    ∧ (∃ (s : State),
      s.dev.pwr.alive = true ∧ 3 ≤ s.dev.pwr.phase ∧ s.dev.pwr.phase < 6 ∧ s.dev.pwr.standby = false ∧ (∀ k, k < 8 → s.work.stackState k = .joined ∨ s.work.stackState k = .lost))
    ∧ (∃ (s : State),
      s.dev.pwr.alive = true ∧ s.dev.pwr.linkUp = true ∧ s.dev.pwr.perst = false)
    ∧ (∃ (c : Nat) (s : State),
      s.allows c .operator = true ∧ 2 ≤ s.dev.pwr.phase) := by
  refine ⟨⟨dev (pwr fun p => { p with phase := 0, trestle := true }), by decide +kernel⟩,
    ⟨dev (pwr fun p => { p with phase := 1, linkUp := false }), by decide +kernel⟩,
    ⟨dev (pwr fun p => { p with phase := 2, linkUp := false, wake := true }), by decide +kernel⟩,
    ⟨dev (pwr fun p => { p with phase := 2, b2Done := true, trestle := true, linkUp := false }), by decide +kernel⟩,
    ⟨7, dev ((fun d => { d with hbm := { d.hbm with stackSt := [(7, .retry)] } }) ∘ pwr fun p => { p with phase := 3, trestle := true }), by decide +kernel⟩,
    ⟨0, State.reset, by decide +kernel⟩,
    ⟨8, State.reset, by decide +kernel⟩,
    ⟨dev (joined ∘ pwr fun p => { p with phase := 3, trestle := true }), by decide +kernel⟩,
    ⟨dev (withKey ∘ mapped 0 0), by decide +kernel⟩,
    ⟨5, dev managed, by decide +kernel⟩⟩

/-- The hypotheses of `FirmwareIsStagedAndActivated` can be met, clause by clause. -/
theorem witness_FirmwareIsStagedAndActivated :
    (∃ (p : Pkt) (s : State),
      s.starts opFwStage p = true ∧ s.dev.fw.stageCmd = none ∧ s.work.activating = false ∧ p.arg 24 4 ≤ 50331648)
    ∧ (∃ (c : Nat) (s : State),
      s.dev.fw.stageCmd = some (some c) ∧ (s.work.sp 0).stopHost = false)
    ∧ (∃ (p : Pkt) (s : State),
      s.starts opFwActivate p = true ∧ s.work.activating = false ∧ p.arg 12 1 ≤ 1 ∧ (p.arg 12 1 == 1) ≠ s.dev.fw.runB)
    ∧ (∃ (p : Pkt) (s : State),
      s.starts opFwActivate p = true ∧ s.work.activating = true)
    ∧ (∃ (s : State),
      s.dev.fw.act = 1 ∧ (∀ x ∈ s.dev.step.steps, x.phase ≠ .compute))
    ∧ (∃ (c : Nat) (s : State),
      s.dev.fw.act = 2 ∧ s.dev.fw.actCmd = some (some c) ∧ (∀ j ∈ s.dev.cmd.parJobs, j.later = []))
    ∧ (∃ (c : Nat) (s : State),
      s.dev.fw.act = 1 ∧ s.dev.fw.actCmd = some (some c))
    ∧ (∃ (c : Nat) (b : List Byte) (s : State),
      s.allows c .administrator = true ∧ s.dev.fw.stageCmd = none ∧ s.work.activating = false)
    ∧ (∃ (c : Nat) (s : State),
      s.allows c .administrator = true ∧ s.work.activating = false)
    ∧ (∃ (c : Nat) (i : FwImage) (s : State),
      s.allows c .administrator = true ∧ s.work.runImage = some i) := by
  refine ⟨⟨pk [(16, 8, 4096), (24, 4, 50331648)], ready, by decide +kernel⟩,
    ⟨0, dev (withCmds [0] ∘ fw fun f => { f with stage := 1, stageCmd := some (some 0), stageImage := [1] }), by decide +kernel⟩,
    ⟨pk [(12, 1, 1)], dev (fw fun f => { f with slotB := some FwImage.atReset }), by decide +kernel⟩,
    ⟨pk [(12, 1, 1)], dev (fw fun f => { f with act := 1, actCmd := some none }), by decide +kernel⟩,
    ⟨dev (fw fun f => { f with act := 1, actCmd := some none }), by decide +kernel⟩,
    ⟨0, dev (withCmds [0] ∘ fw fun f => { f with act := 2, actCmd := some (some 0), slotB := some FwImage.atReset }), by decide +kernel⟩,
    ⟨0, dev (withCmds [0] ∘ fw fun f => { f with act := 1, actCmd := some (some 0) }), by decide +kernel⟩,
    ⟨5, [1], dev managed, by decide +kernel⟩,
    ⟨5, dev managed, by decide +kernel⟩,
    ⟨5, FwImage.atReset, dev managed, by decide +kernel⟩⟩

/-- The hypotheses of `KeysAreInstalledAndSpdmAnswers` can be met, clause by clause. -/
theorem witness_KeysAreInstalledAndSpdmAnswers :
    (∃ (p : Pkt) (s : State),
      s.starts opKeyInstall p = true ∧ s.work.ownKey p.fn (p.arg 12 2) = true ∧ (s.work.keySlot (p.arg 12 2)).state = .empty ∧ keyBlockOk (padTo 256 (p.block.take 256)) (p.arg 12 2) p.fn = true)
    ∧ (∃ (p : Pkt) (s : State),
      s.starts opKeyInstall p = true ∧ s.work.ownKey p.fn (p.arg 12 2) = true ∧ (s.work.keySlot (p.arg 12 2)).state ≠ .empty)
    ∧ (∃ (p : Pkt) (req : List Byte) (a : Nat × List (Nat × List Byte) × List Byte) (s : State),
      s.starts opAttest p = true ∧ req = padTo (p.arg 32 4) (p.block.take (p.arg 32 4)) ∧ (s.work.spdmAnswer (rd req 1 1) req (if rd req 3 1 = 0xFF then List.range 26 else [rd req 3 1])).1 = a)
    ∧ (∃ (path : SpdmPath) (req : List Byte) (s : State),
      s.work.pathOpen path = true)
    ∧ (∃ (path : SpdmPath) (req : List Byte) (ix : List Nat) (s : State),
      s.work.pathOpen path = true ∧ s.dev.fw.act ≠ 2 ∧ bit (rd req 2 1) 0 = true)
    ∧ (∃ (path : SpdmPath) (req : List Byte) (ix : List Nat) (s : State),
      s.work.pathOpen path = true ∧ s.dev.fw.act ≠ 2 ∧ bit (rd req 2 1) 0 = false)
    ∧ (∃ (path : SpdmPath) (req : List Byte) (ix : List Nat) (s : State),
      s.work.pathOpen path = true ∧ s.dev.fw.act = 2) := by
  refine ⟨⟨pk [(12, 2, 4095), (56, 8, 4096)] 1 (blk 256 [(0, 4, 0x594B5742), (4, 2, 4095)]), ready, by decide +kernel⟩,
    ⟨pk [(56, 8, 4096)] 1 (blk 256 []), dev withKey, by decide +kernel⟩,
    ⟨pk [(16, 8, 4096), (24, 8, 8192), (32, 4, 4), (36, 4, 65536)] 0 [0x13, 0xE0, 0, 0xFF], padTo 4 [0x13, 0xE0, 0, 0xFF], (ready.work.spdmAnswer 0xE0 (padTo 4 [0x13, 0xE0, 0, 0xFF]) (List.range 26)).1, ready, by exact ⟨by decide +kernel, by decide +kernel, rfl⟩⟩,
    ⟨.mctp, [0x13, 0x84], dev (pwr fun p => { p with phase := 1 }), by decide +kernel⟩,
    ⟨.ring 63, [0x13, 0xE0, 1, 1], [1, 25], ready, by decide +kernel⟩,
    ⟨.ring 63, [0x13, 0xE0, 0, 0], [], ready, by decide +kernel⟩,
    ⟨.doe, [0x13, 0xE0, 1, 1], [1], dev (fw fun f => { f with act := 2, actCmd := some none }), by decide +kernel⟩⟩

/-- The hypotheses of `TheParapetLaneActsAtOnce` can be met, clause by clause. -/
theorem witness_TheParapetLaneActsAtOnce :
    (∃ (m : MboxCmd) (s : State),
      s.parapet m (m.packet 0x0F00 (some 0)) = true)
    ∧ (∃ (m : MboxCmd) (s : State),
      s.parapet m (m.packet 0x0F00 (some 1)) = true)
    ∧ (∃ (m : MboxCmd) (s : State),
      s.parapet m (m.packet 0x0F01 none) = true)
    ∧ (∃ (m : MboxCmd) (s : State),
      s.parapet m (m.packet 0x0F01 none) = true)
    ∧ (∃ (m : MboxCmd) (s : State),
      s.parapet m (m.packet 0x0F02 (some 0)) = true)
    ∧ (∃ (m : MboxCmd) (s : State),
      s.parapet m (m.packet 0x0F02 (some 1)) = true)
    ∧ (∃ (m : MboxCmd) (s : State),
      s.parapet m (m.packet 0x0F03 none) = true ∧ (s.work.sp m.span.toNat).reset = none)
    ∧ (∃ (fn : Nat) (s : State),
      s.work.busUp = true ∧ fn < 64 ∧ (s.work.sp fn).mode ≠ .absent ∧ (s.work.sp fn).reset = none ∧ (∀ j ∈ s.dev.cmd.parJobs, j.later = []))
    ∧ (∃ (fn : Nat) (k : Nat) (o : Nat) (d : List Byte) (s : State),
      s.slotOpen fn k = true ∧ d ≠ [] ∧ o + d.length ≤ 64 ∧ ¬ (o ≤ 60 ∧ o + d.length = 64) ∧ (s.work.mbox fn k).busy = none)
    ∧ (∃ (fn : Nat) (k : Nat) (o : Nat) (d : List Byte) (b : List Byte) (s : State),
      s.slotOpen fn k = true ∧ o ≤ 60 ∧ o + d.length = 64 ∧ (s.work.mbox fn k).busy = none ∧ (s.work.mbox fn k).bytes.length = 64 ∧ b = (s.work.mbox fn k).bytes.take o ++ d ∧ (parapetOk b = false ∨ (fn ≠ 0 ∧ rd b 4 1 ≠ fn) ∨ 63 < rd b 4 1 ∨ (s.work.sp (rd b 4 1)).mode = .absent))
    ∧ (∃ (fn : Nat) (k : Nat) (o : Nat) (d : List Byte) (s : State),
      s.slotOpen fn k = true ∧ d ≠ [] ∧ o + d.length ≤ 64 ∧ (s.work.mbox fn k).busy ≠ none) := by
  refine ⟨⟨mbox0 [], dev (span63 id), by decide +kernel⟩,
    ⟨mbox0 [], dev (span63 fun x => { x with halted := true, stopHost := true, stopVdt := true }), by decide +kernel⟩,
    ⟨{ mbox0 [(12, 1, 15), (13, 1, 2), (16, 3, 16777215)] with span := 0 }, dev (withSteps [{ step0 with phase := .compute, ring := 15, seq := 16777215 }] ∘ withCmds [0]), by decide +kernel⟩,
    ⟨{ mbox0 [(12, 1, 15), (13, 1, 0), (16, 3, 0)] with span := 0 }, dev ((fun d => { d with step := { d.step with inflight := [{ flight0 with dseq := 0 }, { flight0 with dseq := 1 }] } }) ∘ withSteps [{ step0 with phase := .compute, ring := 15, seq := 0, tasks := [task0] }] ∘ withCmds [0]), by decide +kernel⟩,
    ⟨mbox0 [(13, 1, 3)], dev (span63 id), by decide +kernel⟩,
    ⟨mbox0 [], dev (span63 fun x => { x with halted := true, stopHost := true, stopVdt := true }), by decide +kernel⟩,
    ⟨mbox0 [], dev (span63 id), by decide +kernel⟩,
    ⟨63, dev (span63 id), by decide +kernel⟩,
    ⟨63, 3, 59, [1, 2, 3, 4], dev (span63 id), by decide +kernel⟩,
    ⟨63, 3, 0, List.replicate 64 0xFF, List.replicate 64 0xFF, dev (span63 id), by decide +kernel⟩,
    ⟨63, 3, 60, [1, 2, 3, 4], dev (span63 id ∘ fun d => { d with cmd := { d.cmd with mboxes := [(255, { busy := some 4 })] } }), by decide +kernel⟩⟩

/-- The hypotheses of `CountersAndEventsAreObserved` can be met, clause by clause. -/
theorem witness_CountersAndEventsAreObserved :
    (∃ (p : Pkt) (s : State),
      s.starts opHealthQuery p = true)
    ∧ (∃ (x : Sensors) (s : State),
      s.dev.pwr.alive = true)
    ∧ (∃ (s : State),
      s.dev.pwr.alive = true ∧ s.dev.obs.flushDue = true ∧ s.dev.obs.refused = 0)
    ∧ (∃ (s : State),
      s.dev.pwr.alive = true ∧ 0 < s.dev.obs.refused)
    ∧ (∃ (fn : Nat) (v : Word) (s : State),
      s.work.busUp = true ∧ fn < 64)
    ∧ (∃ (fn : Nat) (r : EvRec) (s : State),
      (s.work.latch fn).busy = true ∧ (s.dev.obs.ring.find? (fun r => r.seq == (s.work.latch fn).sel) = some r
      ∨ (s.dev.obs.ring.find? (fun r => r.seq == (s.work.latch fn).sel) = none
      ∧ s.dev.obs.flash.find? (fun r => r.seq == (s.work.latch fn).sel) = some r)))
    ∧ (∃ (fn : Nat) (s : State),
      (s.work.latch fn).busy = true ∧ (∀ r ∈ s.dev.obs.ring ++ s.dev.obs.flash, r.seq ≠ (s.work.latch fn).sel))
    ∧ (∃ (s : State),
      s.work.busUp = true)
    ∧ (∃ (fn : Nat) (s : State),
      fn ≠ 0)
    ∧ (∃ (fn : Nat) (off : Nat) (s : State),
      s.work.busUp = true ∧ fn < 64 ∧ 0x4000 ≤ off ∧ off < 0x5000 ∧ isCounter (off % 0x1000) = true)
    ∧ (∃ (v : Word) (s : State),
      s.work.busUp = true ∧ bit (s.work.regv 0 0x40FC) 0 ≠ bit v.toNat 0) := by
  refine ⟨⟨pk [(16, 8, 4096)], ready, by decide +kernel⟩,
    ⟨sensors0, dev (obs fun o => { o with hlt := [(0x600C, 0xFFFFFFFF)] }), by decide +kernel⟩,
    ⟨dev (obs fun o => { o with ring := [event0, { event0 with seq := 1 }], unflushed := 1, flushDue := true, flash := [event0], nextSeq := 2 }), by decide +kernel⟩,
    ⟨dev (obs fun o => { o with refused := 3 }), by decide +kernel⟩,
    ⟨63, 0xFFFFFFFF, ready, by decide +kernel⟩,
    ⟨63, event0, dev (obs fun o => { o with ring := [event0], nextSeq := 1, latches := [(63, { sel := 0, busy := true })] }), by decide +kernel⟩,
    ⟨63, dev (obs fun o => { o with ring := [event0], nextSeq := 1, latches := [(63, { sel := 7, busy := true })] }), by decide +kernel⟩,
    ⟨dev (obs fun o => { o with ring := [event0], nextSeq := 1, flash := [event0] }), by decide +kernel⟩,
    ⟨63, dev (obs fun o => { o with ring := [event0], nextSeq := 1, flash := [event0] }), by decide +kernel⟩,
    ⟨63, 0x4298, dev (obs fun o => { o with cnt := [(4096 * 63 + 0x298, 0xFFFFFFFFFFFFFFFF)] }), by decide +kernel⟩,
    ⟨1, dev (obs fun o => { o with hi := [(0x4298, some 7)] }), by decide +kernel⟩⟩

/-- The hypotheses of `RegistersAndTracesAreSetUp` can be met, clause by clause. -/
theorem witness_RegistersAndTracesAreSetUp :
    (∃ (fn : Nat) (v : Word) (s : State),
      s.work.busUp = true ∧ fn < 64 ∧ bit (s.work.regv fn 0x8020) 0 = false ∧ (s.work.regv fn 0x8024 + 2 ^ 32 * s.work.regv fn 0x8028) % pageBytes = 0 ∧ 128 ≤ s.work.regv fn 0x802C % 4096 ∧ s.work.regv fn 0x802C % 4096 ≤ 2048 ∧ (s.work.regv fn 0x8024 + 2 ^ 32 * s.work.regv fn 0x8028) / pageBytes + s.work.regv fn 0x802C % 4096 ≤ 2 ^ 27 ∧ s.work.coresOf fn ≠ [] ∧ s.work.traceRegion fn (s.work.regv fn 0x8024 + 2 ^ 32 * s.work.regv fn 0x8028) (s.work.regv fn 0x802C % 4096) = true)
    ∧ (∃ (fn : Nat) (v : Word) (s : State),
      s.work.busUp = true ∧ fn < 64 ∧ bit (s.work.regv fn 0x8020) 0 = false ∧ ((s.work.regv fn 0x8024 + 2 ^ 32 * s.work.regv fn 0x8028) % pageBytes ≠ 0 ∨ s.work.regv fn 0x802C % 4096 < 128
      ∨ 2048 < s.work.regv fn 0x802C % 4096 ∨ s.work.coresOf fn = []
      ∨ s.work.traceRegion fn (s.work.regv fn 0x8024 + 2 ^ 32 * s.work.regv fn 0x8028) (s.work.regv fn 0x802C % 4096) = false))
    ∧ (∃ (fn : Nat) (s : State),
      s.work.busUp = true ∧ fn < 64 ∧ bit (s.work.regv fn 0x8020) 0 = true)
    ∧ (∃ (v : Word) (s : State),
      s.work.busUp = true)
    ∧ (∃ (v : Word) (s : State),
      s.work.busUp = true)
    ∧ (∃ (fn : Nat) (off : Nat) (v : Word) (s : State),
      0 < fn ∧ fn < 64 ∧ 0x5000 ≤ off ∧ off < 0x6000 ∧ s.work.busUp = true)
    ∧ (∃ (v : Word) (s : State),
      s.work.busUp = true) := by
  refine ⟨⟨0, 1, dev (pages128 ∘ withRegs [(0x802C, 128#32)]), by decide +kernel⟩,
    ⟨63, 1, dev (withRegs [(65536 * 63 + 0x802C, 127#32)]), by decide +kernel⟩,
    ⟨63, dev (withRegs [(65536 * 63 + 0x8020, 1#32)]), by decide +kernel⟩,
    ⟨0, ready, by decide +kernel⟩,
    ⟨0xFFFF, ready, by decide +kernel⟩,
    ⟨63, 0x5FFF, 0xFFFFFFFF, dev vfs, by decide +kernel⟩,
    ⟨0xFFFFFFFF, dev (withRegs [(0x7020, 0x3FFF#32), (0x7024, 1#32)]), by decide +kernel⟩⟩

/-- The hypotheses of `ManagementActsByRole` can be met, clause by clause. -/
theorem witness_ManagementActsByRole :
    (∃ (a : List Byte) (s : State),
      s.work.mgmtUp = true ∧ s.dev.fw.act ≠ 2 ∧ s.dev.pwr.bootFailed = false)
    ∧ (∃ (a : List Byte) (s : State),
      s.work.mgmtUp = true ∧ s.dev.fw.act ≠ 2 ∧ s.dev.pwr.bootFailed = false)
    ∧ (∃ (c : Instr) (u : Nat) (x : Nat) (y : Nat) (z : Nat) (k : Nat) (v : Word) (g : Bool) (h : Bool) (l : List Byte) (as : List (List Byte)) (rs : List (Nat × Role)) (cl : BktClass) (s : State),
      s.work.mgmtUp = true ∧ s.dev.fw.act ≠ 2 ∧ s.dev.fw.anchors = [] ∧ c ∈ [Instr.mgmtRead u x, .mgmtDebugRead u x y z k, .mgmtModuleReset u, .mgmtLoadtestRun u x y, .mgmtTraceConfig u x y z v,
      .mgmtFwUpload u l, .mgmtFwActivate u, .mgmtSvnCommit u, .mgmtCosignEnrol u l, .mgmtPartReturn u cl x, .mgmtPackUpload u l,
      .mgmtCredentials u as rs, .mgmtEventClear u g h, .mgmtDisableMctp u g, .mgmtDisableWindow u g])
    ∧ (∃ (u : Nat) (s : State),
      s.allows u .reader = true)
    ∧ (∃ (u : Nat) (what : Nat) (d : List Byte) (s : State),
      s.allows u .reader = true ∧ s.work.readout what = some d)
    ∧ (∃ (u : Nat) (fn : Nat) (off : Nat) (k : Nat) (s : State),
      s.allows u .operator = true ∧ fn < 64 ∧ off < 65536)
    ∧ (∃ (u : Nat) (l : Nat) (slot : Nat) (k : Nat) (s : State),
      s.allows u .operator = true ∧ l < 128 ∧ slot ≤ 2879 ∧ k ≤ 4352 ∧ s.dev.obs.unflushed = 0)
    ∧ (∃ (u : Nat) (what : Nat) (a : Nat) (b : Nat) (k : Nat) (d : List Byte) (o : Option Nat) (s : State),
      s.allows u .operator = true ∧ (s.work.debug what a b k).1 = some (d, o))
    ∧ (∃ (u : Nat) (what : Nat) (a : Nat) (b : Nat) (k : Nat) (s : State),
      s.allows u .operator = true ∧ (s.work.debug what a b k).1 = none)
    ∧ (∃ (u : Nat) (scope : Nat) (unit : Nat) (cs : List Nat) (s : State),
      s.allows u .operator = true ∧ s.work.busUp = true ∧ s.dev.pwr.standby = false ∧ s.work.testTarget scope unit = .ok cs)
    ∧ (∃ (u : Nat) (n : Nat) (a : Nat) (k : Nat) (v : Word) (s : State),
      s.allows u .operator = true ∧ n ≤ 63 ∧ bit v.toNat 0 = false)
    ∧ (∃ (u : Nat) (n : Nat) (a : Nat) (k : Nat) (v : Word) (s : State),
      s.allows u .operator = true ∧ n ≤ 63 ∧ bit v.toNat 0 = true ∧ bit (s.work.regv n 0x8020) 0 = false ∧ a % pageBytes = 0 ∧ 128 ≤ k ∧ k ≤ 2048 ∧ a / pageBytes + k ≤ 2 ^ 27 ∧ s.work.coresOf n ≠ [] ∧ s.work.traceRegion n a k = true)
    ∧ (∃ (u : Nat) (b : Bool) (s : State),
      s.allows u .operator = true)
    ∧ (∃ (u : Nat) (l : List Byte) (s : State),
      s.allows u .administrator = true)
    ∧ (∃ (u : Nat) (c : Nat) (s : State),
      s.allows u .administrator = true ∧ c < 144 ∧ (s.work.phys c).state = .retired ∧ s.work.logOf c = none ∧ (s.work.cluster (c / 9)).dead = false)
    ∧ (∃ (u : Nat) (k : Nat) (s : State),
      s.allows u .administrator = true ∧ k < 9 ∧ (s.work.port k).state = .retired)
    ∧ (∃ (u : Nat) (k : Nat) (s : State),
      s.allows u .administrator = true ∧ k < 256 ∧ (s.work.chan k).state = .retired)
    ∧ (∃ (u : Nat) (k : Nat) (s : State),
      s.allows u .administrator = true ∧ k < 36 ∧ k ∈ s.dev.integ.crypto)
    ∧ (∃ (u : Nat) (k : Nat) (s : State),
      s.allows u .administrator = true ∧ k < 32 ∧ k ∈ s.dev.integ.plls)
    ∧ (∃ (u : Nat) (k : Nat) (s : State),
      s.allows u .administrator = true ∧ k < 56 ∧ k ∈ s.dev.integ.phases)
    ∧ (∃ (u : Nat) (k : Nat) (cl : BktClass) (s : State),
      s.allows u .administrator = true ∧ (cl.instances ≤ k ∨ s.work.returnPart cl k = none))
    ∧ (∃ (u : Nat) (k : Nat) (cl : BktClass) (s : State),
      s.allows u .administrator = true ∧ (cl.instances ≤ k ∨ s.work.returnPart cl k = none))
    ∧ (∃ (u : Nat) (b : List Byte) (s : State),
      s.allows u .administrator = true)
    ∧ (∃ (u : Nat) (as : List (List Byte)) (rs : List (Nat × Role)) (s : State),
      s.allows u .administrator = true)
    ∧ (∃ (u : Nat) (a : Bool) (b : Bool) (s : State),
      s.allows u .administrator = true)
    ∧ (∃ (u : Nat) (b : Bool) (s : State),
      s.allows u .administrator = true) := by
  refine ⟨⟨[1], ready, by decide +kernel⟩,
    ⟨[1], dev managed, by decide +kernel⟩,
    ⟨.mgmtDisableWindow 5 true, 5, 0, 0, 0, 0, 0, true, true, [], [], [], .core, ready, by decide +kernel⟩,
    ⟨5, dev managed, by decide +kernel⟩,
    ⟨5, 5, ready.work.retirementMap, dev managed, by exact ⟨by decide +kernel, by rfl⟩⟩,
    ⟨5, 63, 65535, 0, dev managed, by decide +kernel⟩,
    ⟨5, 127, 2879, 4352, dev managed, by decide +kernel⟩,
    ⟨5, 3, 127, 2879, 1, [Config.staleByte 127 2879 0], some ((dev managed).work.owner 127), dev managed, by exact ⟨by rfl, by rfl⟩⟩,
    ⟨5, 2, 64, 0, 8, dev managed, by decide +kernel⟩,
    ⟨5, 1, 15, (List.range 9).map (135 + ·), dev managed, by exact ⟨by decide +kernel, by decide +kernel, by decide +kernel, rfl⟩⟩,
    ⟨5, 63, 0, 4095, 0, dev (managed ∘ withRegs [(65536 * 63 + 0x8020, 1#32)]), by decide +kernel⟩,
    ⟨5, 0, 0, 128, BitVec.ofNat 32 1, dev (managed ∘ pages128), by decide +kernel⟩,
    ⟨5, true, dev managed, by decide +kernel⟩,
    ⟨5, [1], dev managed, by decide +kernel⟩,
    ⟨5, 143, dev (managed ∘ coreIn 143 .retired), by decide +kernel⟩,
    ⟨5, 8, dev (managed ∘ fun d => { d with vdt := { d.vdt with ports := [(8, { state := .retired })] } }), by decide +kernel⟩,
    ⟨5, 255, dev (managed ∘ fun d => { d with hbm := { d.hbm with chans := [(255, { Chan.atReset with state := .retired })] } }), by decide +kernel⟩,
    ⟨5, 35, dev (managed ∘ fun d => { d with integ := { d.integ with crypto := [35] } }), by decide +kernel⟩,
    ⟨5, 31, dev (managed ∘ fun d => { d with integ := { d.integ with plls := [31] } }), by decide +kernel⟩,
    ⟨5, 55, dev (managed ∘ fun d => { d with integ := { d.integ with phases := [55] } }), by decide +kernel⟩,
    ⟨5, 0, .core, dev managed, by decide +kernel⟩,
    ⟨5, 884736, .sramRow, dev managed, by decide +kernel⟩,
    ⟨5, [1], dev managed, by decide +kernel⟩,
    ⟨5, [[2]], [(5, .reader)], dev managed, by decide +kernel⟩,
    ⟨5, true, true, dev (managed ∘ obs fun o => { o with ring := [event0], nextSeq := 1 }), by decide +kernel⟩,
    ⟨5, true, dev managed, by decide +kernel⟩⟩

/-- The hypotheses of `ElementsLieInPayloadByteOrder` can be met, clause by clause. -/
theorem witness_ElementsLieInPayloadByteOrder :
    (∃ (t : Tile) (f : Fmt) (i : Nat),
      f.width = 8)
    ∧ (∃ (t : Tile) (f : Fmt) (i : Nat),
      f.width = 4) := by
  refine ⟨⟨[], .e4m3, 4095, by decide +kernel⟩,
    ⟨[], .int4, 8191, by decide +kernel⟩⟩

/-- The hypotheses of `ConvertingNanGivesTheCanonicalResult` can be met, clause by clause. -/
theorem witness_ConvertingNanGivesTheCanonicalResult :
    (∃ (c : Nat),
      c % 128 = 127) := by
  refine ⟨255, by decide +kernel⟩

/-- The hypotheses of `SealedTilesVerify` can be met, clause by clause. -/
theorem witness_SealedTilesVerify :
    (∃ (b : List Byte),
      b.length = tileBytes)
    ∧ (∃ (a : Nat) (j : Nat),
      isTileAddr a = true)
    ∧ (∃ (a : Nat) (j : Nat),
      isTileAddr a = true ∧ tileAfter a j < 2 ^ 48) := by
  refine ⟨⟨Tile.bytes [], by simp [Tile.bytes, Tile.slice]⟩,
    ⟨480 * 4352, 1, by decide +kernel⟩,
    ⟨480 * 4352, 1, by decide +kernel⟩⟩

/-- The hypotheses of `FramesOfCommandsThatTouchLittle` can be met, clause by clause. -/
theorem witness_FramesOfCommandsThatTouchLittle :
    (∃ (c : Instr) (p : Pkt) (f : Nat) (r : Nat) (s : State),
      c ∈ [Instr.nop p, .fence p, .query p, .healthQuery p, .fenceComplete f r, .ringDisable f r, .ringDisabled f r, .intModTimer f r])
    ∧ (∃ (c : Instr) (q : SpdmPath) (b : List Byte) (ix : List Nat) (s : State),
      c ∈ [Instr.getVersion q b, .getCapabilities q b, .negotiateAlgorithms q b, .getDigests q b, .getCertificate q b, .challenge q b,
      .getMeasurements q b ix])
    ∧ (∃ (f : Arrival) (pa : Nat) (t : State) (s : State) (a : Nat),
      s.due f = true ∧ isDelta f.toFrame = false ∧ f.payload.length = tileBytes ∧ isTileAddr f.arg = true ∧ s.work.hotAt f.dstSpan f.arg = none ∧ s.work.traceOf f.dstSpan = none ∧ s.work.locate f.dstSpan [] f.arg = .home pa true ∧ exec (.putFrame f) s = .next t ∧ (a < pa ∨ pa + tileBytes ≤ a))
    ∧ (∃ (f : Arrival) (pa : Nat) (row : Nat) (x : SecState) (t : State) (s : State) (a : Nat),
      s.due f = true ∧ s.work.secOf f.dstSpan = some x ∧ f.arg / 512 ∈ x.used ∧ s.work.bearAt f.dstSpan x.policy (f.arg / 512) = some pa ∧ f.arg % 512 * 4096 + f.payload.length ≤ pageBytes ∧ exec (.parityDelta f row) s = .next t ∧ (a < pa + f.arg % 512 * 4096 ∨ pa + f.arg % 512 * 4096 + f.payload.length ≤ a)) := by
  refine ⟨⟨.intModTimer 63 15, pk [], 63, 15, ready, by decide +kernel⟩,
    ⟨.challenge .mctp [1], .mctp, [1], [], ready, by decide +kernel⟩,
    ⟨frame tyPut 0 (Tile.bytes []), 0, after (exec (.putFrame (frame tyPut 0 (Tile.bytes []))) (dev (mapped 0 0 ∘ fabric))), dev (mapped 0 0 ∘ fabric), 4352, by exact ⟨by decide +kernel, blank_plain, blank_length _ _, by decide +kernel, by decide +kernel, by decide +kernel, by decide +kernel, after_put _ _, by decide +kernel⟩⟩,
    ⟨delta0, 2097152, 1, { SecState.start policy2 none with used := [1] }, after (exec (.parityDelta delta0 1) deltas), deltas, 2097151, by exact ⟨by decide +kernel, by decide +kernel, by decide +kernel, by decide +kernel, delta0_length, after_delta _ _ _, by decide +kernel⟩⟩⟩

end Sys2Proof.Tests
end

section
/-! PROOFS. The number formats: where an element lies in a tile's payload (R67), and what converting and reading NaN
gives (R74). -/

namespace Sys2Proof.Machine

/-! ### Numbers read from the bytes of a tile (R6) -/

/-- The first byte is the least significant. -/
theorem Tile.num_succ (t : Tile) (o n : Nat) : t.num o (n + 1) = (t.byte o).toNat + 256 * t.num (o + 1) n := by
  simp only [Tile.num, List.range_succ_eq_map, List.foldr_cons, List.foldr_map, Nat.add_zero, Nat.add_comm, Nat.add_left_comm,
    Nat.succ_eq_add_one]

@[simp] theorem Tile.num_one (t : Tile) (o : Nat) : t.num o 1 = (t.byte o).toNat := by
  simp [Tile.num]

theorem Tile.num_lt (t : Tile) (o n : Nat) : t.num o n < 256 ^ n := by
  induction n generalizing o with
  | zero => simp [Tile.num]
  | succ n ih =>
    have hb := (t.byte o).isLt
    have hn := ih (o + 1)
    rw [Tile.num_succ, Nat.pow_succ]
    omega

/-- Digit `j` in base 256 is the `j`-th byte. -/
theorem Tile.num_digit (t : Tile) (o : Nat) {n j : Nat} (hj : j < n) :
    t.num o n / 256 ^ j % 256 = (t.byte (o + j)).toNat := by
  induction n generalizing o j with
  | zero => omega
  | succ n ih =>
    have hb := (t.byte o).isLt
    rw [Tile.num_succ]
    cases j with
    | zero => simp only [Nat.pow_zero, Nat.div_one, Nat.add_zero]; omega
    | succ j =>
      have hdrop : ((t.byte o).toNat + 256 * t.num (o + 1) n) / 256 = t.num (o + 1) n := by omega
      rw [Nat.pow_succ', ← Nat.div_div_eq_div_mul, hdrop, ih (o + 1) (by omega), Nat.add_assoc, Nat.add_comm 1 j]

/-! ### Elements in the payload (R67) -/

/-- An element takes half a byte or a whole number of bytes. -/
theorem Fmt.width_four_or_bytes (f : Fmt) : f.width = 4 ∨ f.width = 8 * (f.width / 8) := by
  cases f <;> decide

theorem Tile.elem_of_four (t : Tile) {f : Fmt} (i : Nat) (h : f.width = 4) :
    t.elem f i = if i % 2 = 0 then (t.byte (i / 2)).toNat % 16 else (t.byte (i / 2)).toNat / 16 := by
  have hb := (t.byte (i / 2)).isLt
  simp only [Tile.elem, Fmt.four, h, beq_self_eq_true, if_true, Tile.num_one]
  split
  · simp [bits]
  · simp only [bits]; omega

theorem Tile.elem_of_bytes (t : Tile) {f : Fmt} (i : Nat) (h : f.width ≠ 4) :
    t.elem f i = t.num (i * (f.width / 8)) (f.width / 8) := by
  simp [Tile.elem, Fmt.four, h]

theorem Tile.elem_of_eight (t : Tile) {f : Fmt} (i : Nat) (h : f.width = 8) : t.elem f i = (t.byte i).toNat := by
  rw [t.elem_of_bytes i (by omega), h]
  simp

theorem Tile.elem_lt (t : Tile) {f : Fmt} (i : Nat) (h : f.width ≠ 4) : t.elem f i < 2 ^ f.width := by
  have hw : f.width = 8 * (f.width / 8) := f.width_four_or_bytes.resolve_left h
  calc t.elem f i = t.num (i * (f.width / 8)) (f.width / 8) := t.elem_of_bytes i h
    _ < (2 ^ 8) ^ (f.width / 8) := t.num_lt _ _
    _ = 2 ^ f.width := by rw [← Nat.pow_mul, ← hw]

/-- How many elements a row of 64 bytes holds, by width. -/
theorem Fmt.rowElems_mem (f : Fmt) : f.rowElems ∈ [128, 64, 32, 16, 8] := by
  cases f <;> decide

theorem Fmt.rowElems_mul_width (f : Fmt) : f.rowElems * f.width = 512 := by
  cases f <;> rfl

/-- The first and the last bit of element `i` lie in row `i / rowElems`: its bits begin `i % rowElems` widths into the
row's 512 bits. -/
theorem Fmt.elem_within_row (f : Fmt) (i : Nat) :
    64 * (i / f.rowElems) ≤ i * f.width / 8 ∧ (i * f.width + f.width - 1) / 8 ≤ 64 * (i / f.rowElems) + 63 := by
  have hrow := f.rowElems_mul_width
  have hpos : 0 < f.rowElems := Nat.pos_of_ne_zero fun h => by simp [h] at hrow
  have hbits : i * f.width = 512 * (i / f.rowElems) + i % f.rowElems * f.width := by
    conv_lhs => rw [← Nat.div_add_mod i f.rowElems, Nat.add_mul, Nat.mul_right_comm, hrow]
  have hfit : i % f.rowElems * f.width + f.width ≤ 512 := by
    rw [← hrow, ← Nat.succ_mul]
    exact Nat.mul_le_mul_right _ (Nat.mod_lt i hpos)
  omega

/-- Settles O56: the digits of a tile's numbers are its bytes, and an element's bits stay inside its row. -/
theorem elementsLieInPayloadByteOrder : Obligations.ElementsLieInPayloadByteOrder := by
  unfold Obligations.ElementsLieInPayloadByteOrder
  refine ⟨fun t f i h => t.elem_of_eight i h, fun t f i h => ⟨t.elem_lt i (by omega), fun j hj => ?_⟩,
    fun t f i h => t.elem_of_four i h, fun f => ⟨f.rowElems_mem, f.rowElems_mul_width, f.elem_within_row⟩⟩
  rw [t.elem_of_bytes i (by omega), t.num_digit _ hj]

/-! ### NaN (R74) -/

section
variable (m : Rounding) (k : Int) (z : Option Int)

/-- A floating format that has NaN takes its canonical code. -/
theorem Fmt.convert_nan_float {f : Fmt} {g : FloatFmt} {c : Nat} (hg : f.float? = some g) (hne : f ≠ .e2m1)
    (hc : g.nanCode = c) : f.convert m k z .nan = .code c {} := by
  cases f <;> simp_all [Fmt.convert, Fmt.float?, Fmt.girder]

theorem Fmt.convert_nan_girder {f : Fmt} (hf : f.girder = true) : f.convert m k z .nan = .escape 0x7FC0 {} := by
  simp [Fmt.convert, hf]

/-- A format without NaN and without escapes drops it. -/
theorem Fmt.convert_nan_dropped {f : Fmt} (hf : f.int = true ∨ f = .e2m1) :
    f.convert m k z .nan = .code 0 { nanDrop := true } := by
  cases f <;> simp_all [Fmt.convert, Fmt.int, Fmt.girder]

end

theorem FloatFmt.infs_and_fields_pos :
    ∀ f ∈ [FloatFmt.fp64, .fp32, .bf16, .fp16, .e5m2], f.infs = true ∧ 0 < f.expBits ∧ 0 < f.prec := by
  decide

/-- In a format with infinities, an exponent of all ones over a mantissa other than 0 reads as NaN, whatever the sign. -/
theorem FloatFmt.decode_nan {f : FloatFmt} (hinf : f.infs = true) (he : 0 < f.expBits) (hp : 0 < f.prec) {c : Nat}
    (htop : bits c (f.expBits + f.prec - 2) (f.prec - 1) = 2 ^ f.expBits - 1) (hman : c % 2 ^ (f.prec - 1) ≠ 0) :
    (f.decode c).1 = .nan := by
  have hexp : bits c (f.expBits + (f.prec - 1) - 1) (f.prec - 1) = 2 ^ f.expBits - 1 := by
    rw [← htop]; congr 1; omega
  have hnz : 2 ^ f.expBits - 1 ≠ 0 := by
    have := Nat.one_lt_two_pow (Nat.pos_iff_ne_zero.1 he)
    omega
  simp [FloatFmt.decode, hexp, hnz, hinf, hman]

/-- E4M3 has the one NaN S.1111.111 (R65). -/
theorem FloatFmt.e4m3_decode_nan {c : Nat} (h : c % 128 = 127) : (FloatFmt.e4m3.decode c).1 = .nan := by
  have hexp : bits c 6 3 = 15 := by simp only [bits]; omega
  have hman : c % 8 = 7 := by omega
  simp [FloatFmt.decode, FloatFmt.e4m3, hexp, hman]

/-- Settles O57: a conversion of NaN looks at the destination alone, and a read of a NaN code at its exponent and mantissa. -/
theorem convertingNanGivesTheCanonicalResult : Obligations.ConvertingNanGivesTheCanonicalResult := by
  unfold Obligations.ConvertingNanGivesTheCanonicalResult
  refine ⟨fun m k z => ⟨?fp64, ?fp32, ?bf16, ?fp16, ?e4m3, ?e5m2, ?girder8, ?girder4, ?int8, ?int4, ?e2m1⟩, ?codes,
    fun c h => FloatFmt.e4m3_decode_nan h⟩
  case fp64 | fp32 | bf16 | fp16 | e4m3 | e5m2 => exact Fmt.convert_nan_float m k z rfl (by decide) rfl
  case girder8 | girder4 => exact Fmt.convert_nan_girder m k z rfl
  case int8 | int4 => exact Fmt.convert_nan_dropped m k z (.inl rfl)
  case e2m1 => exact Fmt.convert_nan_dropped m k z (.inr rfl)
  case codes =>
    intro f hf c htop hman
    obtain ⟨hinf, he, hp⟩ := FloatFmt.infs_and_fields_pos f hf
    exact FloatFmt.decode_nan hinf he hp htop hman

end Sys2Proof.Machine
end

section
/-! PROOFS. Embedding tables (R180 to R199): HOTSET_REFRESH and the number of its command. -/

namespace Sys2Proof.Machine

/-- A table of this rank alone, as a descriptor of zero bytes gives it. -/
def idleTable : Table := Table.ofDesc []

/-- A command in progress on ring 0 of the PF under number 0, with TAG 1. -/
def staleCmd : Cmd := { id := 0, fn := 0, ring := 0, seq := 0, tag := 1#32, irq := false, op := 0 }

/-- The PF's ring 0 enabled with 64 entries and one packet waiting, the module in full service, table 0, and a command in progress
under number 0, the very number that the next command takes. -/
def staleNumber : State :=
  { State.reset with
    dev := { Dev.atReset with
      cmd := { Dev.atReset.cmd with rings := [(0, { en := true, sqTail := 1 })], cmds := [staleCmd] }
      tables := [(0, some idleTable)]
      regs := [(0x410, 6#32)]
      pwr := { Dev.atReset.pwr with phase := 6, trestle := false } } }

/-- A HOTSET_REFRESH of table 0 with an empty list, on ring 0 of the PF, with TAG 0. -/
def emptyRefresh : Pkt :=
  { fn := 0, ring := 0, flags := 0#16, span := 0#8, seq := 0#24, tag := 0#32, body := List.replicate 52 0#8, block := [] }

/-- The TAG of what goes out, where it is a reply to a ring (R261). -/
def Out.replyTag : Out → Option Word
  | .reply _ _ _ _ x => some x.tag
  | _ => none

/-- The TAGs of all replies that have gone out, and of those that a ring holds back (R256). -/
def State.replyTags (t : State) (fn r : Nat) : List Word :=
  t.dev.cmd.outbox.filterMap Out.replyTag ++ (t.work.ring fn r).held.map fun h => h.1.tag

/-- A reply that a ring has been given shows its TAG. -/
theorem Given.tag_mem {s t : State} {fn r : Nat} {x : Reply} (h : Given s t fn r x) : x.tag ∈ t.replyTags fn r := by
  rcases h with ⟨a, ph, l, hl, ho⟩ | ⟨now, hh⟩
  · refine List.mem_append_left _ (List.mem_filterMap.2 ⟨.reply fn r a ph x, ?_, rfl⟩)
    exact hl ▸ List.mem_append_left _ ho
  · exact List.mem_append_right _ (List.mem_map.2 ⟨_, hh, rfl⟩)

/-- The refresh ends with the stale command's number, and it is the stale command that has the reply. -/
theorem staleNumber_replies (t : State) (h : exec (.hotsetRefresh emptyRefresh) staleNumber = .next t) :
    t.replyTags 0 0 = [1#32] := by
  obtain rfl := Host.Outcome.next.inj h
  decide +kernel

/-- Refutes O36: nothing in the statement keeps the number of the next command free. In a state where a command in progress has that number
already, the reply of HOTSET_REFRESH ends the older command, and its own packet is never answered. -/
theorem not_tablesAreCreatedAndTheirHotSetReplaced : ¬ Obligations.TablesAreCreatedAndTheirHotSetReplaced := by
  unfold Obligations.TablesAreCreatedAndTheirHotSetReplaced
  rintro ⟨-, hrefresh, -⟩
  obtain ⟨t, ht, -, hans⟩ := hrefresh emptyRefresh staleNumber idleTable 0 (by decide +kernel) (by decide +kernel) (by decide +kernel)
    (by decide +kernel) (by decide +kernel) (by decide +kernel) (by decide +kernel) (by decide +kernel) (by decide +kernel) (by decide +kernel)
  have hmem := Given.tag_mem hans
  rw [show t.replyTags emptyRefresh.fn emptyRefresh.ring = [1#32] from staleNumber_replies t ht] at hmem
  exact absurd hmem (by decide)
end Sys2Proof.Machine
end

section
/-! PROOFS. What stands while bytes, tile maps, pages and fault accounts change: tables, steps, registers and received flows. -/

namespace Sys2Proof.Machine

/-- What the table barrier rests on: the tables, the steps, the registers, and what is held of received flows. -/
def W.barrier (w : W) : List (Nat × Option Table) × StepSys × List (Nat × Word) × List RxFlow :=
  (w.tables, w.step, w.regs, w.vdt.rxs)

theorem W.tables_of_barrier {a b : W} (h : a.barrier = b.barrier) : a.tables = b.tables := congrArg (·.1) h
theorem W.step_of_barrier {a b : W} (h : a.barrier = b.barrier) : a.step = b.step := congrArg (·.2.1) h
theorem W.regs_of_barrier {a b : W} (h : a.barrier = b.barrier) : a.regs = b.regs := congrArg (·.2.2.1) h
theorem W.rxs_of_barrier {a b : W} (h : a.barrier = b.barrier) : a.vdt.rxs = b.vdt.rxs := congrArg (·.2.2.2) h

theorem W.table_of_barrier {a b : W} (h : a.barrier = b.barrier) (n i : Nat) : a.table n i = b.table n i := by
  simp only [W.table, W.tables_of_barrier h]

theorem W.isSelf_of_barrier {a b : W} (h : a.barrier = b.barrier) (t : Table) (r : Nat) : a.isSelf t r = b.isSelf t r := by
  rw [W.isSelf, W.isSelf, W.rank, W.rank, W.regv, W.regv, W.regs_of_barrier h]

/-! ### Parts that the barrier does not rest on -/

section
variable (w : W)

@[simp] theorem W.barrier_cmd (x : CmdSys) : ({ w with cmd := x } : W).barrier = w.barrier := rfl
@[simp] theorem W.barrier_hbm (x : HbmSys) : ({ w with hbm := x } : W).barrier = w.barrier := rfl
@[simp] theorem W.barrier_core (x : CoreSys) : ({ w with core := x } : W).barrier = w.barrier := rfl
@[simp] theorem W.barrier_deck (x : DeckSys) : ({ w with deck := x } : W).barrier = w.barrier := rfl
@[simp] theorem W.barrier_integ (x : IntegSys) : ({ w with integ := x } : W).barrier = w.barrier := rfl
@[simp] theorem W.barrier_obs (x : ObsSys) : ({ w with obs := x } : W).barrier = w.barrier := rfl
@[simp] theorem W.barrier_free (x : Nat) : ({ w with free := x } : W).barrier = w.barrier := rfl
@[simp] theorem W.barrier_ops (x : List MemOp) : ({ w with ops := x } : W).barrier = w.barrier := rfl

@[simp] theorem W.modSp_barrier (n : Nat) (f : Span → Span) : (w.modSp n f).barrier = w.barrier := rfl
@[simp] theorem W.setFrame_barrier (f : Nat) (u : FrameUse) : (w.setFrame f u).barrier = w.barrier := rfl
@[simp] theorem W.modChan_barrier (c : Nat) (f : Chan → Chan) : (w.modChan c f).barrier = w.barrier := rfl
@[simp] theorem W.setPage_barrier (n vp : Nat) (e : Option PageEnt) : (w.setPage n vp e).barrier = w.barrier := rfl
@[simp] theorem W.modCore_barrier (l : Nat) (f : Core → Core) : (w.modCore l f).barrier = w.barrier := rfl
@[simp] theorem W.modPhys_barrier (c : Nat) (f : Phys → Phys) : (w.modPhys c f).barrier = w.barrier := rfl
@[simp] theorem W.modImage_barrier (i : Nat) (f : Image → Image) : (w.modImage i f).barrier = w.barrier := rfl
@[simp] theorem W.modSec_barrier (n : Nat) (f : SecState → SecState) : (w.modSec n f).barrier = w.barrier := rfl
@[simp] theorem W.putTile_barrier (a : Nat) (t : Tile) : (w.putTile a t).barrier = w.barrier := rfl
@[simp] theorem W.count_barrier (n o k : Nat) : (w.count n o k).barrier = w.barrier := rfl
@[simp] theorem W.modMove_barrier (m : PageMove) (f : PageMove → PageMove) : (w.modMove m f).barrier = w.barrier := rfl
@[simp] theorem W.startMove_barrier (n vp o k : Nat) (e : Bool) : (w.startMove n vp o k e).barrier = w.barrier := rfl
@[simp] theorem W.modEnt_barrier (l va : Nat) (g : Option Nat) (f : TileEnt → TileEnt) : (w.modEnt l va g f).barrier = w.barrier := rfl
@[simp] theorem W.dropEnts_barrier (l : Nat) (p : TileEnt → Bool) : (w.dropEnts l p).barrier = w.barrier := rfl
@[simp] theorem W.freeVal_barrier : (w.freeVal).2.barrier = w.barrier := rfl

end

/-- Changes of a list that each leave the barrier leave it together. -/
theorem W.each_barrier {α : Type} (w : W) (l : List α) (f : α → W → W) (hf : ∀ a w, (f a w).barrier = w.barrier) :
    (w.each l f).barrier = w.barrier := W.each_same W.barrier f l w hf

/-- A change that has to be possible leaves the barrier when the change does. -/
theorem W.with_barrier {α : Type} (w : W) (o : Option α) (f : α → W → W) (hf : ∀ a w, (f a w).barrier = w.barrier) :
    (w.with o f).barrier = w.barrier := by
  cases o
  · rfl
  · exact hf _ w

theorem W.OnlyEvents.barrier {a b : W} (h : a.OnlyEvents b) : b.barrier = a.barrier := by
  obtain ⟨⟨_, _, _, rfl⟩, -⟩ := h
  rfl

theorem W.OnlyCmd.barrier {a b : W} (h : a.OnlyCmd b) : b.barrier = a.barrier := h.events.barrier

section
variable (w : W)

@[simp] theorem W.event_barrier (ty : EvTy) (n : Nat) (b : Bool) (u : Nat) (p : Option (List Byte)) (x : Subject) :
    (w.event ty n b u p x).barrier = w.barrier := (w.event_only ..).barrier
@[simp] theorem W.health_barrier (n u : Nat) (x : Subject) : (w.health n u x).barrier = w.barrier := (w.health_only ..).barrier
@[simp] theorem W.healthAll_barrier (u : Nat) (x : Subject) : (w.healthAll u x).barrier = w.barrier := (w.healthAll_only ..).barrier
@[simp] theorem W.judged_barrier (u : Nat) (c : BktClass) (i : Nat) (k : BktEvent) : (w.judged u c i k).barrier = w.barrier :=
  (w.judged_only ..).barrier
@[simp] theorem W.answer_barrier (c : Cmd) (st : Status) (d : Detail) (r0 r1 : Nat) : (w.answer c st d r0 r1).barrier = w.barrier :=
  (w.answer_only ..).barrier
@[simp] theorem W.finish_barrier (i : Nat) (st : Status) (d : Detail) (r0 r1 : Nat) : (w.finish i st d r0 r1).barrier = w.barrier :=
  (w.finish_only ..).barrier

/-! ### Pages, channels and fault accounts -/

@[simp] theorem W.bucketAdd_barrier (c : BktClass) (i : Nat) (e : BktEvent) : (w.bucketAdd c i e).2.barrier = w.barrier := by
  unfold W.bucketAdd
  exact (apply_ite W.barrier _ _ _).trans (ite_self w.barrier)

@[simp] theorem W.drawPool_barrier : w.drawPool.2.barrier = w.barrier := by
  unfold W.drawPool
  dsimp only
  split
  · rfl
  · split
    · rfl
    · dsimp only; split <;> simp

@[simp] theorem W.newHome_barrier (f : Nat) (p : Bool) : (w.newHome f p).2.barrier = w.barrier := by
  have hd : (if p then w.drawPool else (none, w)).2.barrier = w.barrier := by split <;> simp
  unfold W.newHome
  dsimp only
  split
  · exact hd
  · split
    · dsimp only; split <;> simp
    · rfl

@[simp] theorem W.withdrawFree_barrier (f : Nat) : (w.withdrawFree f).barrier = w.barrier := by
  have hd := w.drawPool_barrier
  unfold W.withdrawFree
  split <;> next h => simpa [h] using hd

@[simp] theorem W.loseHome_barrier (n vp : Nat) : (w.loseHome n vp).barrier = w.barrier := by
  unfold W.loseHome
  split
  · exact W.each_barrier _ _ _ fun _ _ => by simp
  · simp

@[simp] theorem W.leaveOld_barrier (m : PageMove) : (w.leaveOld m).barrier = w.barrier := by
  unfold W.leaveOld
  split
  · rfl
  · have hd := (w.modMove m fun m => { m with evac := true }).drawPool_barrier
    dsimp only
    split <;> next h => simpa [h] using hd

@[simp] theorem W.redirectMove_barrier (m : PageMove) : (w.redirectMove m).barrier = w.barrier := by
  have hd := w.newHome_barrier m.new true
  unfold W.redirectMove
  split <;> next h => simpa [h] using hd

@[simp] theorem W.evacuate_barrier (f : Nat) : (w.evacuate f).barrier = w.barrier := by
  have hd := w.newHome_barrier f true
  unfold W.evacuate
  split
  · simp
  · simp
  · simp
  · rfl
  · split
    · simp
    · split
      · simp
      · split
        · simp
        · split <;> next h => simpa [h] using hd

@[simp] theorem W.settleChannel_barrier (c : Nat) : (w.settleChannel c).barrier = w.barrier := by
  unfold W.settleChannel
  split <;> simp

@[simp] theorem W.retireChannel_barrier (c : Nat) (e : BktEvent) : (w.retireChannel c e).barrier = w.barrier := by
  unfold W.retireChannel
  split
  · rfl
  · rw [W.settleChannel_barrier, W.event_barrier, W.judged_barrier, W.count_barrier, W.each_barrier _ _ _ fun _ _ => W.evacuate_barrier ..,
      W.modChan_barrier]

@[simp] theorem W.channelEvent_barrier (c : Nat) (e : BktEvent) : (w.channelEvent c e).barrier = w.barrier := by
  have hb := w.bucketAdd_barrier .hbmChannel c e
  unfold W.channelEvent
  split <;> next h => simpa [h] using hb

@[simp] theorem W.repairRow_barrier (f : Nat) : (w.repairRow f).barrier = w.barrier := by
  unfold W.repairRow
  dsimp only
  split
  · split <;> simp
  · simp

@[simp] theorem W.rowEvent_barrier (f k : Nat) (e : BktEvent) : (w.rowEvent f k e).barrier = w.barrier := by
  have hb := w.bucketAdd_barrier .hbmRow (f * pageTiles + k) e
  unfold W.rowEvent
  split <;> next h => simpa [h] using hb

@[simp] theorem W.retireCore_barrier (c : Nat) (e : BktEvent) : (w.retireCore c e).barrier = w.barrier := by
  unfold W.retireCore
  split <;> simp

@[simp] theorem W.coreEvent_barrier (c : Nat) (e : BktEvent) : (w.coreEvent c e).barrier = w.barrier := by
  have hb := w.bucketAdd_barrier .core c e
  unfold W.coreEvent
  split <;> next h => simpa [h] using hb

@[simp] theorem W.coreEventAt_barrier (l : Nat) (e : BktEvent) : (w.coreEventAt l e).barrier = w.barrier :=
  w.with_barrier _ _ fun _ _ => by simp

/-! ### Tiles in their HBM homes -/

@[simp] theorem W.markDirty_barrier (n vp : Nat) : (w.markDirty n vp).barrier = w.barrier := by
  unfold W.markDirty
  split <;> simp

@[simp] theorem W.touchSec_barrier (n va : Nat) : (w.touchSec n va).barrier = w.barrier := by
  unfold W.touchSec
  split <;> simp

@[simp] theorem W.storeTile_barrier (n va : Nat) (t : Tile) : (w.storeTile n va t).barrier = w.barrier := by
  unfold W.storeTile
  split <;> simp

@[simp] theorem W.rewriteTile_barrier (n va : Nat) (t : Tile) : (w.rewriteTile n va t).barrier = w.barrier := by
  unfold W.rewriteTile
  split <;> simp

@[simp] theorem W.poisonHome_barrier (n va : Nat) : (w.poisonHome n va).barrier = w.barrier := by
  unfold W.poisonHome
  split <;> simp

@[simp] theorem W.spoilTile_barrier (n va : Nat) : (w.spoilTile n va).barrier = w.barrier := by
  unfold W.spoilTile
  split <;> simp

@[simp] theorem W.trace_barrier (n l k c t q : Nat) (b : List Byte) : (w.trace n l k c t q b).barrier = w.barrier := by
  unfold W.trace
  split
  · rfl
  · dsimp only
    split
    · rfl
    · split
      · rfl
      · exact W.with_barrier _ _ _ fun _ _ => W.storeTile_barrier ..

@[simp] theorem W.resid_barrier (l e va : Nat) (a : Bool) : (w.resid l e va a).barrier = w.barrier := w.trace_barrier ..

/-! ### Tile maps and pins -/

@[simp] theorem W.invalidate_barrier (l va : Nat) : (w.invalidate l va).barrier = w.barrier := by
  unfold W.invalidate
  dsimp only
  split <;> simp

@[simp] theorem W.dropCopies_barrier (n va : Nat) : (w.dropCopies n va).barrier = w.barrier :=
  w.each_barrier _ _ fun _ _ => by simp

@[simp] theorem W.patchTile_barrier (n va o : Nat) (bs : List Byte) : (w.patchTile n va o bs).barrier = w.barrier := by
  unfold W.patchTile
  split
  · simp
  · exact w.with_barrier _ _ fun _ _ => by simp [W.each_barrier]

@[simp] theorem W.writeRow_barrier (n : Nat) (t : Table) (j : Nat) (r : List Byte) : (w.writeRow n t j r).barrier = w.barrier := by
  unfold W.writeRow
  refine W.each_barrier _ _ _ fun _ w => ?_
  dsimp only
  split
  · simp
  · exact W.with_barrier _ _ _ fun _ _ => by simp

@[simp] theorem W.poisonRow_barrier (n : Nat) (t : Table) (j : Nat) : (w.poisonRow n t j).barrier = w.barrier := by
  refine W.each_barrier _ _ _ fun _ w => ?_
  split <;> simp

@[simp] theorem W.listTileBad_barrier (n va : Nat) : (w.listTileBad n va).barrier = w.barrier := by
  unfold W.listTileBad
  split
  · simp
  · split <;> simp

@[simp] theorem W.carrierBad_barrier (n : Nat) (f : Status × Nat) : (w.carrierBad n f).barrier = w.barrier := by
  unfold W.carrierBad
  split <;> simp

@[simp] theorem W.touch_barrier (l va : Nat) (g : Option Nat) : (w.touch l va g).barrier = w.barrier := by simp [W.touch]

@[simp] theorem W.writeBackFree_barrier (n l : Nat) (e : TileEnt) : (w.writeBackFree n l e).barrier = w.barrier := by
  unfold W.writeBackFree
  split <;> simp

@[simp] theorem W.flush_barrier (n l : Nat) (p : TileEnt → Bool) : (w.flush n l p).barrier = w.barrier :=
  w.each_barrier _ _ fun _ _ => by simp

@[simp] theorem W.unpin_barrier (n l : Nat) (vas : List Nat) : (w.unpin n l vas).barrier = w.barrier := by
  simp [W.unpin, W.each_barrier]

@[simp] theorem W.dropLru_barrier (l : Nat) : (w.dropLru l).barrier = w.barrier := by
  unfold W.dropLru
  split <;> simp

@[simp] theorem W.shrinkPad_barrier (l k : Nat) : (w.shrinkPad l k).barrier = w.barrier := by
  induction k generalizing w with
  | zero => rfl
  | succ k ih =>
    unfold W.shrinkPad
    split <;> simp [ih]

@[simp] theorem W.takeSlot_barrier (l : Nat) : (w.takeSlot l).2.barrier = w.barrier := by
  unfold W.takeSlot
  dsimp only
  split
  · simp
  · split <;> simp

@[simp] theorem W.enter_barrier (l va : Nat) (g : Option Nat) (st : SlotState) (p : Pin) (b : Bool) (t : Tile) :
    (w.enter l va g st p b t).barrier = w.barrier := by
  have hs := w.takeSlot_barrier l
  unfold W.enter
  split <;> next h => simpa [h] using hs

@[simp] theorem W.startFetch_barrier (l va : Nat) (g : Option Nat) (p : Bool) : (w.startFetch l va g p).barrier = w.barrier := by
  unfold W.startFetch
  split
  · split
    · rw [if_pos rfl]
      split <;> simp
    · rfl
  · simp

@[simp] theorem W.fetchSpills_barrier (l va : Nat) (g : Option Nat) (t : Tile) (p : Bool) : (w.fetchSpills l va g t p).barrier = w.barrier :=
  w.each_barrier _ _ fun _ _ => by split <;> simp

@[simp] theorem W.pinFetch_barrier (n va : Nat) (bs : List Bind) : (w.pinFetch n va bs).2.2.barrier = w.barrier := by
  unfold W.pinFetch
  dsimp only
  split
  · split
    · rfl
    · split <;> simp
  · split
    · rfl
    · split
      · rfl
      · split <;> simp
  · rfl

/-- A HOT pin takes the other cores' copies away (R48). -/
theorem W.dropOthers_barrier (n l va : Nat) (g : Option Nat) :
    (w.each ((w.coresOf n).filter fun k => k != l) fun k w => (w.flush n k fun e => e.is va g).dropEnts k fun e => e.is va g).barrier
      = w.barrier := W.each_barrier _ _ _ fun _ _ => by simp

@[simp] theorem W.pinOne_barrier (n l : Nat) (c : Pin) (bs : List Bind) (va : Nat) : (w.pinOne n l c bs va).2.barrier = w.barrier := by
  unfold W.pinOne
  dsimp only
  split
  · rfl
  · generalize hv : (if c = Pin.hot then _ else w) = v
    have hb : v.barrier = w.barrier := by
      rw [← hv]
      split
      · exact w.dropOthers_barrier ..
      · rfl
    split
    · split <;> simp [hb]
    · simp [hb]

@[simp] theorem W.placePins_barrier (n : Nat) (c : Pin) (bs : List Bind) (l : List (Nat × Nat)) :
    (w.placePins n c bs l).2.2.barrier = w.barrier := by
  induction l generalizing w with
  | nil => rfl
  | cons q l ih =>
    unfold W.placePins
    dsimp only
    split <;> simp [ih]

@[simp] theorem W.settlePins_barrier : w.settlePins.barrier = w.barrier := by
  unfold W.settlePins
  refine W.each_barrier _ _ _ fun j w => ?_
  dsimp only
  split <;> simp

@[simp] theorem W.countFormats_barrier (n : Nat) (c : Counts) : (w.countFormats n c).barrier = w.barrier := by
  simp [W.countFormats]

end
end Sys2Proof.Machine
end

section
/-! PROOFS. Migrating rows (R197 to R199). -/

namespace Sys2Proof.Machine

/-! ### Sending (R311 to R313) -/

/-- `w'` differs from `w` in what has gone out, the open flows and what waits for one at most. -/
def W.OnlySends (w w' : W) : Prop :=
  ∃ c l u, w' = { w with toDev := { w.toDev with cmd := c, vdt := { w.vdt with flows := l, waiting := u } } }

theorem W.OnlySends.trans {a b c : W} (h : a.OnlySends b) (k : b.OnlySends c) : a.OnlySends c := by
  obtain ⟨_, _, _, rfl⟩ := h
  obtain ⟨_, _, _, rfl⟩ := k
  exact ⟨_, _, _, rfl⟩

theorem W.openFlow_only (w : W) (n r d k : Nat) (c : Bool) : w.OnlySends (w.openFlow n r d k c).2 := by
  unfold W.openFlow
  split
  · exact ⟨_, _, _, rfl⟩
  · split <;> exact ⟨_, _, _, rfl⟩

theorem W.sendPacket_only (w : W) (n r d k : Nat) (c : Bool) (ty a : Nat) (b : List Byte) (st : Option Nat) :
    w.OnlySends (w.sendPacket n r d k c ty a b st) := by
  have ho := w.openFlow_only n r d k c
  unfold W.sendPacket
  split
  · next h => exact (h ▸ ho).trans ⟨_, _, _, rfl⟩
  · next h =>
    refine (h ▸ ho).trans ?_
    dsimp only
    split <;> exact ⟨_, _, _, rfl⟩

/-- Sending concerns the flows and what goes out alone. -/
theorem W.send_only (w : W) (n r d k : Nat) (c : Bool) (ty a : Nat) (b : List Byte) (st : Option Nat) :
    w.OnlySends (w.send n r d k c ty a b st) := by
  unfold W.send
  split
  · exact W.each_ind (w.OnlySends ·) _ _ w ⟨_, _, _, rfl⟩ fun b _ v hv => hv.trans (v.sendPacket_only ..)
  · exact w.sendPacket_only ..

theorem W.OnlySends.barrier {a b : W} (h : a.OnlySends b) : b.barrier = a.barrier := by
  obtain ⟨_, _, _, rfl⟩ := h
  rfl

theorem W.OnlySends.obs {a b : W} (h : a.OnlySends b) : b.obs = a.obs := by
  obtain ⟨_, _, _, rfl⟩ := h
  rfl

section
variable (w : W)

@[simp] theorem W.send_barrier (n r d k : Nat) (c : Bool) (ty a : Nat) (b : List Byte) (st : Option Nat) :
    (w.send n r d k c ty a b st).barrier = w.barrier := (w.send_only ..).barrier
@[simp] theorem W.sendCtl_barrier (n r ty a : Nat) (b : List Byte) : (w.sendCtl n r ty a b).barrier = w.barrier := w.send_barrier ..
@[simp] theorem W.sendCtl_obs (n r ty a : Nat) (b : List Byte) : (w.sendCtl n r ty a b).obs = w.obs := (w.send_only ..).obs

/-! ### One table after a change -/

@[simp] theorem State.take_table (s : State) (n i : Nat) : (s.take w).work.table n i = w.table n i := rfl

@[simp] theorem W.setTable_table (n i : Nat) (t : Option Table) : (w.setTable n i t).table n i = t := by simp [W.table_setTable]

@[simp] theorem W.modTable_table (n i : Nat) (f : Table → Table) : (w.modTable n i f).table n i = (w.table n i).map f := by
  simp [W.table_modTable]

/-- Setting an entry of the directory changes the table's directory alone (R197). -/
theorem W.putDir_table (n i : Nat) (e : DirEnt) (free : Bool) :
    (w.putDir n i e free).table n i = (w.table n i).map fun t => t.setDir e free := by
  unfold W.putDir
  split
  · next h => simp [h]
  · next t h =>
    dsimp only
    split
    · simp [h]
    · rw [W.table_of_barrier (W.patchTile_barrier ..)]
      simp [h]

/-- Telling the group of it changes no table. -/
theorem W.sendDir_table (n i : Nat) (e : DirEnt) (free : Bool) :
    (w.sendDir n i e free).table n i = (w.table n i).map fun t => t.setDir e free := by
  unfold W.sendDir
  split
  · next h => simp [h]
  · next t h =>
    rw [← w.putDir_table]
    split
    · exact W.table_of_barrier (W.carrierBad_barrier ..) n i
    · exact W.table_of_barrier (W.each_barrier _ _ _ fun _ _ => by simp) n i

/-- Moves whose copies are acknowledged say so; the rest of the table stands. -/
theorem W.settleMoves_table (n i : Nat) {t : Table} (h : w.table n i = some t) :
    (w.settleMoves n i).table n i = some t
      ∨ (w.settleMoves n i).table n i
          = some { t with moves := t.moves.map fun m => if m.copied then { m with acked := true } else m } := by
  unfold W.settleMoves
  split
  · exact .inl h
  · exact .inr (by simp [h])

end

/-! ### What a started command reads is what its packet found -/

section
variable (w : W) (p : Pkt) (n : Nat)

@[simp] theorem W.taken_table (i : Nat) : (w.taken p).table n i = w.table n i := rfl
@[simp] theorem W.taken_isSelf (t : Table) (r : Nat) : (w.taken p).isSelf t r = w.isSelf t r := rfl
theorem W.taken_rank : (w.taken p).rank = w.rank := rfl
theorem W.taken_slotAt (v : Nat) (b : List Bind) : (w.taken p).slotAt n v b = w.slotAt n v b := rfl
theorem W.taken_hotCopy (va : Nat) : (w.taken p).hotCopy n va = w.hotCopy n va := rfl

theorem W.taken_locate (b : List Bind) (va : Nat) : (w.taken p).locate n b va = w.locate n b va := by
  simp only [W.locate, W.taken_slotAt]
  rfl

theorem W.taken_stored (va : Nat) : (w.taken p).stored n va = w.stored n va := by
  simp only [W.stored, W.taken_locate]
  rfl

theorem W.taken_rowTile (va : Nat) : (w.taken p).rowTile n va = w.rowTile n va := by
  simp only [W.rowTile, W.taken_stored, W.taken_hotCopy]

@[simp] theorem W.taken_listBad (a k : Nat) : (w.taken p).listBad n a k = w.listBad n a k := by
  simp only [W.listBad, W.taken_rowTile]

@[simp] theorem W.taken_carrierFault (l : List Nat) : (w.taken p).carrierFault n l = w.carrierFault n l := by
  simp only [W.carrierFault, W.taken_rowTile]

/-- The function is unfolded as a whole: the kernel cannot evaluate where the tile of one place of a list lies. -/
@[simp] theorem W.taken_streamNum (a o k : Nat) : (w.taken p).streamNum n a o k = w.streamNum n a o k := by
  obtain ⟨f, hf⟩ : ∃ f, f = W.streamNum := ⟨_, rfl⟩
  rw [← hf]
  delta W.streamNum at hf
  subst hf
  beta_reduce
  rw [W.taken_stored]

@[simp] theorem W.taken_groupRanks (t : Table) : (w.taken p).groupRanks n t = w.groupRanks n t := by
  simp only [W.groupRanks, W.rankList, W.taken_rank, W.taken_streamNum]

theorem W.taken_foldHome (t : Table) (h : Nat × Nat) : (w.taken p).foldHome n t h = w.foldHome n t h := by
  simp only [W.foldHome, W.taken_groupRanks]

@[simp] theorem W.taken_ownerOf (t : Table) (r : Nat) : (w.taken p).ownerOf n t r = w.ownerOf n t r := by
  simp only [W.ownerOf, W.taken_foldHome, W.taken_rank, W.taken_streamNum]

end

/-- A command that starts ends with what its body makes of the packet taken. -/
theorem State.act_starts {s : State} {o : OpInfo} {p : Pkt} (h : s.starts o p = true) (body : Cmd → W → W) :
    (s.act fun w => w.intake o p body) = .next (s.take (body (s.work.cmdOf o p) (s.work.taken p))) := by
  rw [State.act, s.starts_intake o p body h]

/-! ### ROW_MIGRATE (R198) -/

/-- The first entry of an empty directory takes its first place. -/
theorem Table.setDir_of_empty {t : Table} (h : t.dir = []) {e : DirEnt} (hp : e.place = 0) :
    t.setDir e false = { t with dir := [e] } := by
  have hplace : t.dirPlace e.row = e.place := by simp [Table.dirPlace, h, hp]
  simp [Table.setDir, hplace, h]

/-- The move of one row by a command: nothing of it is done yet (R198). -/
def RowMove.begun (id : Nat) (e : DirEnt) (b : Table) : RowMove :=
  { cmd := id, rows := [e], epoch := (b.applying.getD b.applied) + 1, copied := false, acked := false, flipped := false }

/-- The MOVING entry of a row with the old home that it leaves. -/
def DirEnt.leaving (e : DirEnt) (h : Nat × Nat) : DirEnt := { e with state := .moving, oldRank := h.1, oldLocal := h.2 }

/-- A ROW_MIGRATE of one row that passes its checks tells the group of the MOVING entry, notes the move and goes on. -/
theorem State.rowMigrate_one {s : State} {p : Pkt} {b : Table} {e : DirEnt} {h : Nat × Nat} (hs : s.starts opRowMigrate p = true)
    (hid : p.arg 12 2 < 1024) (hb : s.work.table p.fn (p.arg 12 2) = some b) (hk : p.arg 24 2 = 1)
    (ha : isTileAddr (p.arg 16 6) = true) (hlist : s.work.listBad p.fn (p.arg 16 6) 1 = none)
    (hcar : s.work.carrierFault p.fn b.listTiles = none)
    (he : (DirEnt.read ((List.range 32).map fun i => BitVec.ofNat 8 (s.work.streamNum p.fn (p.arg 16 6) i 1))).1 = e)
    (hown : s.work.ownerOf p.fn b e.row = some h) (hself : s.work.isSelf b h.1 = true) (hfold : b.folding h.2 = false)
    (hnew : e.newRank ∈ s.work.groupRanks p.fn b) (hroom : s.work.isSelf b e.newRank = true → e.newLocal < b.localRows)
    (hdir : b.dir = []) (hlog : b.dirLog2 ≠ 0) :
    exec (.rowMigrate p) s = .next (s.take
      ((((s.work.taken p).sendDir p.fn b.id (e.leaving h) false).modTable p.fn b.id fun t =>
          { t with moves := t.moves ++ [RowMove.begun s.dev.cmd.nextId (e.leaving h) b] }).begin (s.work.cmdOf opRowMigrate p))) := by
  have hfar : (s.work.isSelf b e.newRank && decide (b.localRows ≤ e.newLocal)) = false := by
    cases hn : s.work.isSelf b e.newRank
    · rfl
    · simpa using hroom hn
  have hc : (s.work.cmdOf opRowMigrate p).fn = p.fn := rfl
  have hci : (s.work.cmdOf opRowMigrate p).id = s.dev.cmd.nextId := rfl
  show execRowMigrate p s = _
  rw [execRowMigrate, State.act_starts hs]
  simp [hc, hci, hid, hb, hk, ha, hlist, hcar, he, hown, hself, hfold, hnew, hfar, hdir, hlog, ceilDiv, List.range_one,
    RowMove.begun, DirEnt.leaving]

/-! ### The copy step and the release (R198 steps 2 and 6) -/

/-- Copying a row to its new home leaves every table. -/
theorem W.copyRow_barrier (w : W) (n : Nat) (t : Table) (q : DirEnt × Option (List Byte × Bool)) :
    (w.with q.2 fun x w => if w.isSelf t q.1.newRank then w.writeRow n t q.1.newLocal x.1
      else w.send n q.1.newRank n 0 false tyPut (copyArg t.id q.1.newLocal) x.1 none).barrier = w.barrier :=
  W.with_barrier _ _ _ fun _ _ => by split <;> simp

/-- Copies that can all be made mark their move (R198 step 2). -/
theorem W.copyMove_marks {w : W} {n : Nat} {t : Table} {m : RowMove} (ht : w.table n t.id = some t)
    (hrows : ∀ e ∈ m.rows, ∃ y, w.readRow n t e.oldLocal = some (y, false) ∧ t.checksOk y = true) :
    ∃ b, (w.copyMove n t m).table n t.id = some b ∧ ∀ q ∈ b.moves, q.cmd = m.cmd → q.copied = true := by
  unfold W.copyMove
  dsimp only
  split
  · next hbad =>
    obtain ⟨q, hq, hf⟩ := List.any_eq_true.1 hbad
    obtain ⟨e, he, rfl⟩ := List.mem_map.1 hq
    obtain ⟨y, hy, hok⟩ := hrows e he
    simp [hy, hok] at hf
  · have hmark := ht
    rw [← W.table_of_barrier (w.each_barrier (m.rows.map fun e => (e, w.readRow n t e.oldLocal)) _ fun q v => v.copyRow_barrier n t q)] at hmark
    rcases W.settleMoves_table _ n t.id ((W.modTable_table _ n t.id _).trans (congrArg _ hmark)) with h | h <;> refine ⟨_, h, ?_⟩
    · simp only [List.mem_map]
      rintro _ ⟨q, -, rfl⟩
      split <;> simp_all
    · simp only [List.mem_map]
      rintro _ ⟨_, ⟨q, -, rfl⟩, rfl⟩
      split <;> split <;> simp_all

/-- A reply that is written goes out; what a signal adds comes after it. -/
theorem W.writeReply_sends (w : W) (fn r : Nat) (now : Bool) (x : Reply) :
    ∃ l, (w.writeReply fn r now x).cmd.outbox
      = l ++ .reply fn r (w.cqBase fn r + 32 * (w.ring fn r).cqTail) (w.ring fn r).cqPhase x :: w.cmd.outbox := by
  unfold W.writeReply
  dsimp only
  split
  · exact ((W.modRing_only ..).trans (W.signalRing_only ..)).2
  · exact ⟨[], rfl⟩

/-- A final reply to a ring that is enabled is given: written, or held back (R256). -/
theorem W.answer_given {s : State} {w : W} (hout : w.cmd.outbox = s.dev.cmd.outbox) (c : Cmd) (st : Status) (d : Detail) (r0 : Nat)
    (hen : (w.ring c.fn c.ring).en = true) :
    Given s (s.take (w.answer c st d r0)) c.fn c.ring { tag := c.tag, seq := c.seq, status := st, detail := d, result0 := r0 } := by
  unfold W.answer W.reply
  simp only [hen, Bool.not_true, Bool.false_and, Bool.false_eq_true, ↓reduceIte]
  split
  · refine .inr ⟨(c.irq, c.fenced), ?_⟩
    show _ ∈ (W.ring (w.modRing c.fn c.ring _) c.fn c.ring).held
    rw [W.ring_modRing_self]
    simp
  · obtain ⟨l, hl⟩ := w.writeReply_sends c.fn c.ring c.irq { tag := c.tag, seq := c.seq, status := st, detail := d, result0 := r0 }
    refine .inl ⟨w.cqBase c.fn c.ring + 32 * (w.ring c.fn c.ring).cqTail, (w.ring c.fn c.ring).cqPhase, l ++ [_], ?_,
      List.mem_append_right l (List.mem_singleton_self _)⟩
    rw [State.take_dev, hl, hout, List.append_assoc]
    rfl

/-- A command in progress that has its final reply has ended (R261). -/
theorem W.finish_finished {s : State} {w : W} (hw : w.cmd = s.dev.cmd) (i : Nat) (st : Status) (d : Detail) (r0 : Nat) :
    Finished s (s.take (w.finish i st d r0)) i st d r0 := by
  intro c hc
  refine ⟨fun x hx => ?_, fun hen => ?_⟩
  · rw [State.take_dev, W.finish_cmds] at hx
    simpa using (List.mem_filter.1 hx).2
  · have hring : w.ring c.fn c.ring = s.work.ring c.fn c.ring := by rw [W.ring, hw]; rfl
    rw [← hw] at hc
    unfold W.finish
    rw [hc]
    exact W.answer_given (congrArg (·.outbox) hw) c st d r0 ((congrArg (·.en) hring).trans hen)

/-- Settles O37: each of the three steps changes the table in its directory and its moves alone, whatever else it does. -/
theorem rowsMoveCopyAndRelease : Obligations.RowsMoveCopyAndRelease := by
  unfold Obligations.RowsMoveCopyAndRelease
  refine ⟨?migrate, ?copy, ?release⟩
  case migrate =>
    intro p s b e r j hs hid hb hbid hk ha hlist hcar he hown hself hfold hnew hroom hdir hlog
    refine ⟨_, State.rowMigrate_one hs hid hb hk ha hlist hcar he hown hself hfold hnew hroom hdir hlog, ?_, ?_⟩
    · exact List.mem_append_right _ (List.mem_singleton_self _)
    · have hbid' : s.work.table p.fn b.id = some b := by rw [hbid, hb]
      have hplace : (e.leaving (r, j)).place = 0 := by rw [← he]; rfl
      refine ⟨{ b with dir := [e.leaving (r, j)], moves := b.moves ++ [RowMove.begun s.dev.cmd.nextId (e.leaving (r, j)) b] }, ?_, rfl, rfl⟩
      show (W.modTable _ p.fn b.id _).table p.fn (p.arg 12 2) = _
      rw [← hbid, W.modTable_table, W.sendDir_table, W.taken_table, hbid', Option.map_some, Option.map_some,
        Table.setDir_of_empty hdir hplace]
  case copy =>
    intro n i b m s hb hi hst hm hrows
    subst hi
    refine ⟨_, rfl, ?_⟩
    beta_reduce
    rw [State.take_table, hb, W.with_some, hm, W.with_some, hst]
    exact W.copyMove_marks hb hrows
  case release =>
    intro n i b m s hb hm
    refine ⟨_, rfl, ?_⟩
    beta_reduce
    rw [hb, W.with_some, hm, W.with_some]
    refine ⟨?_, W.finish_finished rfl _ _ _ _⟩
    rw [State.take_table, W.table_of_barrier (W.finish_barrier ..), W.modTable_table, hb]
    rfl
end Sys2Proof.Machine
end

section
/-! PROOFS. The epochs of a table (R187 to R194). -/

namespace Sys2Proof.Machine

/-! ### What a closing epoch leaves of its table (R188, R193, R198) -/

/-- The table is there under its id, and this epoch is the last one applied. -/
def W.AppliedAt (w : W) (n i a : Nat) : Prop := ∃ t, w.table n i = some t ∧ t.id = i ∧ t.applied = a

section
variable {w v : W} {n i a : Nat}

theorem W.AppliedAt.of_barrier (h : w.AppliedAt n i a) (hb : v.barrier = w.barrier) : v.AppliedAt n i a := by
  obtain ⟨t, ht, hi, ha⟩ := h
  exact ⟨t, (W.table_of_barrier hb n i).trans ht, hi, ha⟩

theorem W.AppliedAt.modTable (h : w.AppliedAt n i a) {f : Table → Table} (hi : ∀ t, (f t).id = t.id) (ha : ∀ t, (f t).applied = t.applied) :
    (w.modTable n i f).AppliedAt n i a := by
  obtain ⟨t, ht, rfl, rfl⟩ := h
  exact ⟨f t, by rw [W.modTable_table, ht, Option.map_some], hi t, ha t⟩

theorem W.AppliedAt.restRow (h : w.AppliedAt n i a) (e : DirEnt) (r l : Nat) : (w.restRow n i e r l).AppliedAt n i a := by
  obtain ⟨t, ht, hi, ha⟩ := h
  unfold W.restRow
  rw [ht]
  exact ⟨t.setDir _ _, (W.sendDir_table ..).trans (congrArg _ ht), hi, ha⟩

/-- The flip changes the directory, the moves and the records, and tells the others (R198 step 4). -/
theorem W.AppliedAt.flipMoves (h : w.AppliedAt n i a) (e : Nat) : (w.flipMoves n i e).AppliedAt n i a := by
  unfold W.flipMoves
  split
  · exact h
  · refine W.AppliedAt.modTable (W.AppliedAt.of_barrier (W.each_ind (·.AppliedAt n i a) _ _ w h fun e _ v hv => hv.restRow e _ _)
      (W.each_barrier _ _ _ fun _ _ => W.with_barrier _ _ _ fun _ _ => W.send_barrier ..)) (fun _ => rfl) fun _ => rfl

/-- Applying an entry changes a row and counts, or counts the entry as discarded (R193, R194). -/
theorem W.AppliedAt.applyEntry (h : w.AppliedAt n i a) {t : Table} (ht : t.id = i) (snap : Tile) (e : Nat) (q : RowRecord) :
    (w.applyEntry n t snap e q).2.AppliedAt n i a := by
  subst ht
  have hlose (v : W) (hv : v.barrier = w.barrier) :
      ((v.modTable n t.id fun t => { t with discarded := t.discarded + 1 }).health n unitAbut (.table t.id)).AppliedAt n t.id a := by
    refine .of_barrier ?_ (W.health_barrier ..)
    exact .modTable (h.of_barrier hv) (fun _ => rfl) fun _ => rfl
  unfold W.applyEntry
  dsimp only
  split
  · exact hlose w rfl
  · split
    · exact h.of_barrier (W.send_barrier ..)
    · split
      · exact hlose w rfl
      · split
        · exact hlose _ (W.poisonRow_barrier ..)
        · exact h.of_barrier (by simp)

theorem W.AppliedAt.applyAll (h : w.AppliedAt n i a) {t : Table} (ht : t.id = i) (snap : Tile) (e : Nat) (es : List RowRecord) :
    (w.applyAll n t snap e es).1.AppliedAt n i a := by
  unfold W.applyAll
  generalize (Num.zero false, false) = x
  induction es generalizing w x with
  | nil => exact h
  | cons q es ih => exact ih (h.applyEntry ht snap e q) _

end

/-- Sending the CLOSE messages that a table owes changes the list of those alone (R319). -/
theorem W.settleCloses_table (w : W) {n i : Nat} {t : Table} (h : w.table n i = some t) :
    ∃ l, (w.settleCloses n i).table n i = some { t with closing := l } := by
  unfold W.settleCloses
  rw [h]
  dsimp only
  cases w.ending n
  · rw [Bool.not_false, W.if_true, W.table_of_barrier (W.each_barrier _ _ _ fun _ _ => W.sendCtl_barrier ..), W.setTable_table]
    exact ⟨_, rfl⟩
  · exact ⟨t.closing, h⟩

/-- An epoch that closes is being applied, and none of its records is left (R188 step 2). -/
theorem W.closeNow_table {w : W} {n : Nat} {t : Table} (h : w.table n t.id = some t) :
    ∃ b, (w.closeNow n t).table n t.id = some b ∧ b.applying = some (t.applied + 1) ∧ b.applied = t.applied
      ∧ ∀ q ∈ b.records, q.epoch ≠ t.applied + 1 := by
  have hflip : ((w.flipMoves n t.id (t.applied + 1)).modTable n t.id fun t =>
      { t with foldFlipped := t.foldFlipped || (t.fold.map (·.2)).getD false }).AppliedAt n t.id t.applied :=
    (W.AppliedAt.flipMoves ⟨t, h, rfl, rfl⟩ _).modTable (fun _ => rfl) fun _ => rfl
  unfold W.closeNow
  dsimp only
  generalize W.modTable _ n t.id _ = v at hflip ⊢
  have hacc : (v.each (v.groupRanks n t) fun r w =>
      if w.isSelf t r then w.acceptFrom n t.id (t.applied + 1) r
      else w.sendCtl n r tyAccept (t.applied + 1) (barrierBody t.id false)).AppliedAt n t.id t.applied := by
    refine W.each_ind (·.AppliedAt n t.id t.applied) _ _ v hflip fun r _ u hu => ?_
    split
    · exact hu
    · exact hu.of_barrier (W.sendCtl_barrier ..)
  generalize W.each _ _ _ = u at hacc ⊢
  obtain ⟨x, hx, hxi, hxa⟩ := hacc
  rw [hx]
  dsimp only
  rw [hxi]
  have happ : (u.applyAll n x (u.snapOf n x (t.applied + 1)) (t.applied + 1) (x.entries (t.applied + 1))).1.AppliedAt n t.id t.applied :=
    W.AppliedAt.applyAll ⟨x, hx, hxi, hxa⟩ hxi ..
  generalize u.applyAll _ _ _ _ _ = z at happ ⊢
  obtain ⟨y, hy, -, hya⟩ := happ
  obtain ⟨l, hl⟩ := W.settleCloses_table _ ((W.modTable_table z.1 n t.id _).trans (congrArg _ hy))
  refine ⟨_, hl, rfl, hya, fun q hq => ?_⟩
  simpa using (List.mem_filter.1 hq).2

/-! ### The refreshes that an application held back (R196) -/

/-- A refresh changes the hot set of its table alone, whatever it does to pins. -/
theorem W.refreshHot_table {w : W} {n i : Nat} {t : Table} (h : w.table n i = some t) (r : Refresh) :
    ∃ l, (w.refreshHot n i r).table n i = some { t with hot := l } := by
  have hfree : (w.each t.hot fun (l, va) w => w.unpin n l [va]).table n i = some t :=
    (W.table_of_barrier (W.each_barrier _ _ _ fun _ _ => W.unpin_barrier ..) n i).trans h
  unfold W.refreshHot
  rw [h, W.with_some]
  dsimp only
  split
  · exact ⟨t.hot, (W.table_of_barrier (W.finish_barrier ..) n i).trans h⟩
  · rw [W.table_of_barrier (W.settlePins_barrier _)]
    exact ⟨_, (W.modTable_table _ n i _).trans (congrArg _ hfree)⟩

/-- What an application's end leaves through the refreshes that waited for it. -/
theorem W.refreshes_table {w : W} {n i : Nat} {t : Table} (h : w.table n i = some t) (rs : List Refresh) :
    ∃ l, (w.each rs fun r w => w.refreshHot n i r).table n i = some { t with hot := l } := by
  refine W.each_ind (fun v => ∃ l, v.table n i = some { t with hot := l }) _ rs w ⟨t.hot, h⟩ fun r _ v ⟨_, hv⟩ => ?_
  obtain ⟨l, hl⟩ := W.refreshHot_table hv r
  exact ⟨l, hl⟩

/-! ### Look-ups at the owner (R184, R189) -/

/-- Reading a row for a look-up leaves every table, whether the read is uncorrectable or not. -/
theorem W.lookUpAt_barrier (w : W) (n : Nat) (t : Table) (e : Nat) (u : Bool) (r : Nat) (bad : Bool) :
    (w.lookUpAt n t e u r bad).2.barrier = w.barrier := by
  unfold W.lookUpAt
  split
  · exact w.carrierBad_barrier ..
  · exact W.each_barrier _ _ _ fun _ _ => W.spoilTile_barrier ..
  · rfl

/-- A row that can be read is the answer, poisoned at most by the read itself. -/
theorem W.lookUpAt_row {w : W} {n : Nat} {t : Table} {e : Nat} {u : Bool} {r : Nat} {y : List Byte} {pz g : Bool}
    (h : w.lookUp n t e u r = .row y pz g) (bad : Bool) : ∃ p, (w.lookUpAt n t e u r bad).1 = .row y p g := by
  unfold W.lookUpAt
  rw [h]
  cases bad
  · exact ⟨pz, rfl⟩
  · exact ⟨_, rfl⟩

/-- An owner's answer to another rank leaves every table. -/
@[simp] theorem W.answerLook_barrier (w : W) (n src span num : Nat) (r : LookRes) : (w.answerLook n src span num r).barrier = w.barrier := by
  unfold W.answerLook
  cases r <;> simp

/-- So does giving a look-up of another rank its answer. -/
theorem W.deliverLook_table (w : W) (n i : Nat) (t : Table) {h : HeldLook} (hself : w.isSelf t h.src = false) (r : LookRes) :
    (w.deliverLook n t h r).table n i = w.table n i := by
  rw [W.deliverLook, hself, if_neg Bool.false_ne_true]
  exact W.table_of_barrier (W.answerLook_barrier ..) n i

/-- No step is found in its commit phase where none is in it. -/
theorem StepSys.filter_commit {m : StepSys} (h : ∀ x ∈ m.steps, x.phase ≠ .commit) (n : Nat) (p q : Step → Bool) :
    (m.steps.filter fun x => x.span == n && x.phase == .commit && p x && q x) = [] :=
  List.filter_eq_nil_iff.2 fun x hx => by simp [h x hx]

/-- A table without held look-ups stalls in its flag alone while no step is in its commit phase (R190). -/
theorem W.stall_table {w : W} {n i : Nat} {t : Table} (h : w.table n i = some t) (hst : t.stalled = false) (hheld : t.held = [])
    (hsteps : ∀ x ∈ w.step.steps, x.phase ≠ .commit) (r : Nat) : (w.stall n i r).table n i = some { t with stalled := true } := by
  unfold W.stall
  rw [h]
  simp only [hst, hheld, Bool.false_eq_true, ↓reduceIte, W.each_nil]
  rw [W.table_of_barrier (W.health_barrier ..), StepSys.filter_commit (m := (w.setTable n i _).step) hsteps, W.each_nil, W.setTable_table]

/-- Settles O38: each event changes its table as said, and what it does to rows, flows, pins and fault accounts leaves the table. -/
theorem epochsCloseApplyServeAndStall : Obligations.EpochsCloseApplyServeAndStall := by
  unfold Obligations.EpochsCloseApplyServeAndStall
  refine ⟨?close, ?apply, ?serve, ?stall⟩
  case close =>
    intro n i b s hb hi hmay hcar
    subst hi
    have hend : s.work.ending n = false := by
      cases h : s.work.ending n
      · rfl
      · simp [W.mayClose, h] at hmay
    refine ⟨_, rfl, ?_⟩
    beta_reduce
    rw [hb, W.with_some, hend, Bool.not_false, W.if_true, hcar]
    dsimp only
    rw [hmay, W.if_true]
    exact W.closeNow_table hb
  case apply =>
    intro n i e b s hb happ hv
    refine ⟨_, rfl, ?_⟩
    beta_reduce
    rw [hb, W.with_some, happ, W.with_some]
    dsimp only
    obtain ⟨l, hl⟩ := W.refreshes_table (W.setTable_table _ n i _) b.refresh
    refine ⟨_, hl, ?_⟩
    simp [hv, Table.pass]
  case serve =>
    intro n i k b h y pz g bad s hb hk hself hrow
    obtain ⟨p, hp⟩ := W.lookUpAt_row hrow bad
    have hbar := s.work.lookUpAt_barrier n b h.epoch h.update h.row bad
    refine ⟨_, rfl, ?_⟩
    beta_reduce
    rw [hb, W.with_some, hk, W.with_some]
    dsimp only
    generalize s.work.lookUpAt n b h.epoch h.update h.row bad = z at hp hbar ⊢
    obtain ⟨r, v⟩ := z
    subst hp
    refine (W.deliverLook_table _ n i b ?_ _).trans ((W.modTable_table ..).trans ?_)
    · exact (W.isSelf_of_barrier hbar b h.src).trans hself
    · rw [W.table_of_barrier hbar, hb, Option.map_some]
  case stall =>
    intro n i r b s hb hst hheld hsil hsteps
    refine ⟨_, rfl, ?_⟩
    beta_reduce
    rw [hb, W.with_some, hst, Bool.not_false, W.if_true, hsil, W.with_some]
    exact W.stall_table hb hst hheld hsteps r
end Sys2Proof.Machine
end

section
/-! PROOFS. Barrier messages that arrive (R188, R190, R197, R198, R312). -/

namespace Sys2Proof.Machine

/-! ### The next frame of a flow (R312, R317) -/

/-- The state with these received flows. -/
def W.withRxs (w : W) (l : List RxFlow) : W := { w with vdt.rxs := l }

/-- A frame that is due passed the checks of its arrival. -/
theorem State.arrived_of_due {s : State} {a : Arrival} (h : s.due a = true) (go : W → W) : s.work.arrived a go = go s.work := by
  simp only [State.due, State.takes, Bool.and_eq_true, Bool.or_eq_true, Bool.not_eq_true', decide_eq_true_eq, beq_iff_eq] at h
  obtain ⟨⟨⟨⟨⟨⟨⟨hport, hup⟩, hsb⟩, hgood⟩, hrank⟩, -⟩, -⟩, -⟩ := h
  have hquiet : ¬(s.dev.pwr.standby = true ∧ a.ctrl = false) := by
    rcases hsb with hs | hs <;> simp [hs]
  simp [W.arrived, W.arrives, Nat.not_le.2 hport, hup, hquiet, hgood, hrank]

/-- The flow just noted is the one found for its frames. -/
theorem W.rx_setRx (w : W) {f : Frame} {r : RxFlow} (h : r.rank = f.srcRank ∧ r.flow = f.flow ∧ r.ctrl = f.ctrl) :
    (w.setRx r).rx f = r := by
  obtain ⟨hr, hf, hc⟩ := h
  have hold : (w.vdt.rxs.filter fun q => !(q.rank == r.rank && q.flow == r.flow && q.ctrl == r.ctrl)).find?
      (fun q => q.rank == f.srcRank && q.flow == f.flow && q.ctrl == f.ctrl) = none :=
    List.find?_eq_none.2 fun q hq => by simpa [hr, hf, hc, or_iff_not_imp_left] using (List.mem_filter.1 hq).2
  rw [W.rx, W.setRx]
  dsimp only
  rw [List.find?_append, hold, Option.none_or]
  simp [hr, hf, hc]

/-- What is held of a flow is held under the flow's own names. -/
theorem W.rx_names (w : W) (f : Frame) : (w.rx f).rank = f.srcRank ∧ (w.rx f).flow = f.flow ∧ (w.rx f).ctrl = f.ctrl := by
  unfold W.rx
  cases h : w.vdt.rxs.find? _
  · exact ⟨rfl, rfl, rfl⟩
  · simpa [and_assoc] using List.find?_some h

/-- A frame of one part that comes in order on a flow with nothing held is applied, and no other after it. -/
theorem W.takeInOrder_one {w : W} {f : Frame} {got : W → W} (hp : inParts f.ty f.arg = false) (hheld : (w.rx f).held = []) (k : Nat)
    (happ : ∀ l, (w.withRxs l).applyFrame f = got (w.withRxs l)) (hrxs : ∀ l, (got (w.withRxs l)).vdt.rxs = l) :
    ∃ l, w.takeInOrder false (k + 1) f = got (w.withRxs l) := by
  obtain ⟨l, hl⟩ : ∃ l, w.setRx { w.rx f with next := ((w.rx f).next + 1) % 2 ^ 24, held := [] } = w.withRxs l := ⟨_, rfl⟩
  have hrx : (got (w.withRxs l)).rx f = { w.rx f with next := ((w.rx f).next + 1) % 2 ^ 24, held := [] } := by
    rw [← w.rx_setRx (f := f) (r := { w.rx f with next := _, held := [] }) (w.rx_names f), hl]
    simp only [W.rx, hrxs l]
    rfl
  refine ⟨l, ?_⟩
  unfold W.takeInOrder
  simp only [hheld, List.filter_nil, hl, W.takeFrame, hp, Bool.false_eq_true, ↓reduceIte, happ, hrx, List.find?_nil]

/-- A due frame that names no rank and no flow of its own is received by its application, and by an acknowledgement where one is called
for (R312). -/
theorem State.receive_of_due {s : State} {a : Arrival} {got : W → W} {Q : W → Prop} (h : s.due a = true)
    (hmoved : a.ty ≠ tyRankMoved) (hreset : a.ty ≠ tyFlowReset) (hp : inParts a.ty a.arg = false)
    (hgot : ∀ w : W, w.keyHeld a.toFrame = true → w.spanTakes a.toFrame = true → w.applyFrame a.toFrame = got w)
    (hrxs : ∀ l, (got (s.work.withRxs l)).vdt.rxs = l) (hQ : ∀ l, Q (got (s.work.withRxs l)))
    (hack : ∀ w r, Q w → Q (w.sendAck r)) : Q (s.work.receive a) := by
  rw [W.receive, State.arrived_of_due h]
  simp only [State.due, Bool.and_eq_true, Bool.or_eq_true, beq_iff_eq, hmoved, hreset, false_or, List.isEmpty_iff] at h
  obtain ⟨⟨⟨-, hnext⟩, hheld⟩, hkey, hspan⟩ := h
  have hfresh : s.work.restarts a.toFrame = false := by simp [W.restarts, hmoved, hreset]
  have hpos : psnPos a.psn (s.work.rx a.toFrame).next = 0 := by
    simp [psnPos, hnext]
  simp only [hfresh, Bool.false_eq_true, ↓reduceIte, hpos]
  have hnoted : (s.work.setRx ((s.work.rx a.toFrame).countOne a.ce)).rx a.toFrame = (s.work.rx a.toFrame).countOne a.ce :=
    s.work.rx_setRx (s.work.rx_names a.toFrame)
  obtain ⟨l, hl⟩ := W.takeInOrder_one (w := s.work.setRx ((s.work.rx a.toFrame).countOne a.ce)) (f := a.toFrame) (got := got) hp
    (by rw [hnoted]; exact hheld) 1024 (fun l => hgot _ hkey hspan) hrxs
  rw [hl]
  split
  · exact hack _ _ (hQ l)
  · exact hQ l

/-! ### What an acknowledgement leaves (R312) -/

section
variable (w : W) (r : RxFlow)

/-- An acknowledgement changes what has gone out and what is held of received flows, at most. -/
theorem W.sendAck_only : ∃ c x k f, w.sendAck r
    = { w with toDev := { w.toDev with cmd := c, vdt := { w.vdt with rxs := x, stripe := k }, free := f } } := by
  unfold W.sendAck
  split <;> exact ⟨_, _, _, _, rfl⟩

@[simp] theorem W.sendAck_table (n i : Nat) : (w.sendAck r).table n i = w.table n i := by
  obtain ⟨_, _, _, _, h⟩ := w.sendAck_only r
  rw [h]; rfl

@[simp] theorem W.sendAck_step : (w.sendAck r).step = w.step := by
  obtain ⟨_, _, _, _, h⟩ := w.sendAck_only r
  rw [h]

@[simp] theorem W.sendAck_obs : (w.sendAck r).obs = w.obs := by
  obtain ⟨_, _, _, _, h⟩ := w.sendAck_only r
  rw [h]

@[simp] theorem W.sendAck_flows : (w.sendAck r).vdt.flows = w.vdt.flows := by
  obtain ⟨_, _, _, _, h⟩ := w.sendAck_only r
  rw [h]

end

/-! ### What the messages do (R188, R190, R198) -/

theorem mem_insertNat (k : Nat) (l : List Nat) : k ∈ insertNat k l := by
  induction l with
  | nil => exact List.mem_singleton_self k
  | cons a l ih =>
    unfold insertNat
    split
    · exact List.mem_cons_self
    · split
      · next h => exact h ▸ List.mem_cons_self
      · exact List.mem_cons_of_mem a ih

/-- Passing the void epochs advances APPLIED alone. -/
theorem Table.pass_applied (k : Nat) (t : Table) : ∃ a, t.pass k = { t with applied := a } := by
  induction k generalizing t with
  | zero => exact ⟨t.applied, rfl⟩
  | succ k ih =>
    unfold Table.pass
    split
    · obtain ⟨a, h⟩ := ih { t with applied := t.applied + 1 }
      exact ⟨a, h⟩
    · exact ⟨t.applied, rfl⟩

/-- No step ends by a void epoch while none is in its commit phase. -/
theorem W.settleVoids_idle {w : W} (h : ∀ x ∈ w.step.steps, x.phase ≠ .commit) : w.settleVoids = w := by
  have hnone : (w.step.steps.filter fun x => x.phase == .commit) = [] :=
    List.filter_eq_nil_iff.2 fun x hx => by simp [h x hx]
  rw [W.settleVoids, hnone, W.each_nil]

theorem W.count_get (w : W) (n o k : Nat) : Sparse.get (fun _ => 0#64) (w.count n o k).obs.cnt (4096 * n + o)
    = Sparse.get (fun _ => 0#64) w.obs.cnt (4096 * n + o) + BitVec.ofNat 64 k :=
  Sparse.get_modify_self _ _ _ (· + BitVec.ofNat 64 k)

/-- An epoch that becomes void (R190): the table with it void and without its records, one counted, and messages to the others. -/
theorem W.voidEpoch_open {w : W} {n i e : Nat} {t : Table} (h : w.table n i = some t) (ha : t.applied < e) (hi : t.applying ≠ some e)
    (hv : ∀ v ∈ t.voidBy, v.1 ≠ e) (r : Nat) (o : Bool) :
    ∃ x, (w.voidEpoch n i e r o).barrier = (w.setTable n i (some x)).barrier
      ∧ (w.voidEpoch n i e r o).obs = (w.count n 0x1D8 1).obs ∧ e ∈ x.voids ∧ ∀ q ∈ x.records, q.epoch ≠ e := by
  have hnew : (t.voidBy.any fun v => v.1 == e) = false := by simpa using hv
  have hopen : (decide (e ≤ t.applied) || t.applying == some e) = false := by simp [Nat.not_le.2 ha, hi]
  unfold W.voidEpoch
  rw [h]
  dsimp only
  rw [hnew, if_neg Bool.false_ne_true, hopen, if_neg Bool.false_ne_true]
  obtain ⟨a, hpass⟩ := Table.pass_applied (insertNat e t.voids).length
    { t with voidBy := t.voidBy ++ [(e, r)], overflow := if o then insertNat e t.overflow else t.overflow
             voids := insertNat e t.voids, records := t.records.filter fun q => q.epoch != e }
  refine ⟨_, W.each_barrier _ _ _ fun _ _ => W.sendCtl_barrier .., W.each_same (·.obs) _ _ _ fun _ _ => W.sendCtl_obs .., ?_⟩
  rw [hpass]
  exact ⟨mem_insertNat e t.voids, fun q hq => by simpa using (List.mem_filter.1 hq).2⟩

theorem mem_updateWhere {α : Type} {p : α → Bool} {l : List α} {x : α} (h : x ∈ l) (hp : p x = true) (f : α → α) :
    f x ∈ updateWhere p f l :=
  List.mem_map.2 ⟨x, h, if_pos hp⟩

/-- A packet on an open flow is among those sent there, whether it may go out now or not. -/
theorem W.sendPacket_sent {w : W} {n r d k : Nat} {c : Bool} {g : Flow}
    (h : w.vdt.flows.find? (fun g => g.span == n && g.rank == r && g.dstSpan == d && g.key == k && g.ctrl == c) = some g)
    (ty a : Nat) (b : List Byte) (st : Option Nat) :
    ∃ h ∈ (w.sendPacket n r d k c ty a b st).vdt.flows, ∃ q ∈ h.sent, q.frame.ty = ty ∧ q.frame.dstRank = r ∧ q.frame.payload = b := by
  have hopen : w.openFlow n r d k c = (some g, w) := by rw [W.openFlow, h]
  have hflows (m : Bool) (v : W) (f : Frame) (p : Nat) : (if m then v.emitFrame f p else v).vdt.flows = v.vdt.flows := by
    cases m <;> rfl
  rw [W.sendPacket, hopen]
  dsimp only
  rw [hflows]
  exact ⟨_, mem_updateWhere (List.mem_of_find?_eq_some h) (beq_self_eq_true g.id) _, _, List.mem_append_right _ (List.mem_singleton_self _),
    rfl, rfl, rfl⟩

/-- A row asked of another rank is a single packet on the flow there. -/
theorem W.askRow_sent {w : W} {n r : Nat} {g : Flow}
    (h : w.vdt.flows.find? (fun g => g.span == n && g.rank == r && g.dstSpan == n && g.key == 0 && g.ctrl == false) = some g)
    (k : Look) (num i st : Nat) :
    ∃ h ∈ (w.askRow n k num i r st).vdt.flows, ∃ q ∈ h.sent, q.frame.ty = tyGetReq ∧ q.frame.dstRank = r
      ∧ q.frame.payload = lookBody num k.table k.epoch k.update (k.ids.getD i 0) := by
  have hparts : inParts tyGetReq 0 = false := by decide
  rw [W.askRow, W.send, hparts, if_neg Bool.false_ne_true]
  exact W.sendPacket_sent h ..

/-- Each barrier message as it is applied (R188, R190, R198, R321). -/
def W.gotMessage (w : W) (f : Frame) : W :=
  if f.ty = tyClose then w.gotClose f.dstSpan f
  else if f.ty = tyVoid then w.gotVoid f.dstSpan f
  else if f.ty = tyAccept then w.gotAccept f.dstSpan f
  else if f.ty = tyDir then w.gotDir f.dstSpan f
  else w.gotRedirect f

section
variable {w : W} {f : Frame}

theorem W.gotMessage_close (h : f.ty = tyClose) : w.gotMessage f = w.gotClose f.dstSpan f := if_pos h

theorem W.gotMessage_void (h : f.ty = tyVoid) : w.gotMessage f = w.gotVoid f.dstSpan f := by
  simp [W.gotMessage, h, tyClose, tyVoid]

theorem W.gotMessage_accept (h : f.ty = tyAccept) : w.gotMessage f = w.gotAccept f.dstSpan f := by
  simp [W.gotMessage, h, tyClose, tyVoid, tyAccept]

theorem W.gotMessage_dir (h : f.ty = tyDir) : w.gotMessage f = w.gotDir f.dstSpan f := by
  simp [W.gotMessage, h, tyClose, tyVoid, tyAccept, tyDir]

theorem W.gotMessage_redirect (h : f.ty = tyRedirect) : w.gotMessage f = w.gotRedirect f := by
  simp [W.gotMessage, h, tyClose, tyVoid, tyAccept, tyDir, tyRedirect]

/-- A frame of these types whose key and span are good is applied as its message. -/
theorem W.applyFrame_message (hty : f.ty ∈ [tyClose, tyVoid, tyAccept, tyDir, tyRedirect])
    (hk : w.keyHeld f = true) (hs : w.spanTakes f = true) : w.applyFrame f = w.gotMessage f := by
  simp only [List.mem_cons, List.not_mem_nil, or_false] at hty
  unfold W.applyFrame W.gotMessage
  rcases hty with h | h | h | h | h <;>
    simp [h, hk, hs, tyRankMoved, tyFlowReset, tyPut, tyGetReq, tyGetResp, tyRowRec, tyColl, tyClose, tyVoid, tyAccept, tyDir, tyRedirect]

end

theorem W.gotClose_open {w : W} {n : Nat} {f : Frame} {t : Table} (h : w.table n (rd f.payload 0 2) = some t)
    (hc : f.payload.drop 5 = t.canon) (ha : t.applied < f.arg) (hn : (f.arg, f.srcRank) ∉ t.closes) :
    w.gotClose n f = w.setTable n (rd f.payload 0 2) (some { t with closes := t.closes ++ [(f.arg, f.srcRank)] }) := by
  simp [W.gotClose, h, hc, Nat.not_le.2 ha, hn]

/-- A step notes an acceptance in its list alone. -/
theorem Step.accepted_names (x : Step) (i e r : Nat) :
    (x.accepted i e r).id = x.id ∧ (x.accepted i e r).phase = x.phase ∧ (i, e, r) ∈ (x.accepted i e r).accepts := by
  unfold Step.accepted
  split
  · next h => exact ⟨rfl, rfl, List.contains_iff_mem.1 h⟩
  · exact ⟨rfl, rfl, List.mem_append_right _ (List.mem_singleton_self _)⟩

/-- Setting an entry of the directory leaves what is held of received flows. -/
theorem W.putDir_rxs (w : W) (n i : Nat) (e : DirEnt) (free : Bool) : (w.putDir n i e free).vdt.rxs = w.vdt.rxs := by
  unfold W.putDir
  split
  · rfl
  · dsimp only
    split
    · rfl
    · exact (W.rxs_of_barrier (W.patchTile_barrier ..)).trans rfl

/-- An outstanding look-up of a row that has moved is asked of its new home, where that is another rank (R198). -/
theorem W.lookArrived_moved {w : W} {num i : Nat} {again : Bool} {d : InFlight} {k : Look} {x : Step} {t : Table} {r : Nat}
    (hd : w.lookOf num = some d) (hk : d.look = some k) (hq : k.pend.find? (fun q => q.1 == num) = some (num, i, again))
    (hx : w.stepOf d.step = some x) (ht : w.table x.span k.table = some t) (hself : w.isSelf t r = false) (src : Option Nat) :
    w.lookArrived num src (.moved r) = w.askRow x.span k num i r x.id := by
  rw [W.lookArrived, hd, W.with_some, hk, W.with_some, hq, W.with_some]
  dsimp only
  rw [hx, W.with_some, ht]
  dsimp only
  rw [hself, if_neg Bool.false_ne_true]

/-- A due barrier message is applied, and what holds then stands after an acknowledgement too. -/
theorem State.receive_message {s : State} {a : Arrival} (Q : W → Prop) (h : s.due a = true)
    (hty : a.ty ∈ [tyClose, tyVoid, tyAccept, tyDir, tyRedirect]) (hack : ∀ w r, Q w → Q (w.sendAck r))
    (hgot : ∀ l, ((s.work.withRxs l).gotMessage a.toFrame).vdt.rxs = l ∧ Q ((s.work.withRxs l).gotMessage a.toFrame)) :
    Q (s.work.receive a) := by
  have hty' := hty
  simp only [List.mem_cons, List.not_mem_nil, or_false, tyClose, tyVoid, tyAccept, tyDir, tyRedirect] at hty'
  refine State.receive_of_due h ?_ ?_ ?_ (fun _ => W.applyFrame_message hty) (fun l => (hgot l).1) (fun l => (hgot l).2) hack
  · rw [tyRankMoved]; omega
  · rw [tyFlowReset]; omega
  · rcases hty' with h | h | h | h | h <;> simp [inParts, isCopy, h, tyRowRec, tyPut, tyColl, tyGetResp]

/-- Settles O40: each message is the next of its flow, is applied alone, and neither its receipt nor an acknowledgement undoes it. -/
theorem barrierMessagesTakeEffectInTurn : Obligations.BarrierMessagesTakeEffectInTurn := by
  unfold Obligations.BarrierMessagesTakeEffectInTurn
  refine ⟨?close, ?void, ?accept, ?dir, ?redirect⟩
  case close =>
    intro f b s hd hty hb hc ha hn
    refine ⟨_, rfl, ?_⟩
    beta_reduce
    rw [hty, beq_self_eq_true, W.if_true, State.take_table]
    refine State.receive_message (·.table f.dstSpan (rd f.payload 0 2) = some { b with closes := b.closes ++ [(f.arg, f.srcRank)] })
      hd (by simp [hty]) (fun w r hw => (w.sendAck_table ..).trans hw) fun l => ?_
    rw [W.gotMessage_close hty, W.gotClose_open (w := s.work.withRxs l) hb hc ha hn]
    exact ⟨rfl, W.setTable_table ..⟩
  case void =>
    intro f b s hd hty hb ha hi hv hs
    refine ⟨_, rfl, ?_⟩
    beta_reduce
    rw [hty, beq_self_eq_true, W.if_true, State.take_table]
    refine State.receive_message (fun w => (∃ b', w.table f.dstSpan (rd f.payload 0 2) = some b' ∧ f.arg ∈ b'.voids
        ∧ ∀ q ∈ b'.records, q.epoch ≠ f.arg) ∧ Sparse.get (fun _ => 0#64) w.obs.cnt (4096 * f.dstSpan + 0x1D8)
          = Sparse.get (fun _ => 0#64) s.dev.obs.cnt (4096 * f.dstSpan + 0x1D8) + 1)
      hd (by simp [hty]) (fun w r hw => by simpa using hw) fun l => ?_
    obtain ⟨x, hbar, hobs, hvoid, hrec⟩ := W.voidEpoch_open (w := s.work.withRxs l) hb ha hi hv (rd f.payload 3 2) (rd f.payload 2 1 == 1)
    rw [W.gotMessage_void hty, W.gotVoid, W.settleVoids_idle]
    · refine ⟨W.rxs_of_barrier hbar, ⟨x, ?_, hvoid, hrec⟩, ?_⟩
      · exact (W.table_of_barrier hbar _ _).trans (W.setTable_table ..)
      · exact (congrArg (fun o : ObsSys => Sparse.get _ o.cnt _) hobs).trans (W.count_get ..)
    · rw [W.step_of_barrier hbar]
      exact hs
  case accept =>
    intro f x k s hd hty hx hn hk hi he hu
    refine ⟨_, rfl, ?_⟩
    beta_reduce
    rw [hty, beq_self_eq_true, W.if_true]
    refine State.receive_message (fun w => ∃ y ∈ w.step.steps, y.id = x.id ∧ y.phase = x.phase
        ∧ (rd f.payload 0 2, f.arg, f.srcRank) ∈ y.accepts)
      hd (by simp [hty]) (fun w r hw => by simpa using hw) fun l => ?_
    rw [W.gotMessage_accept hty]
    refine ⟨rfl, _, mem_updateWhere hx ?_ _, ?_⟩
    · simp only [Bool.and_eq_true, beq_iff_eq, List.any_eq_true]
      exact ⟨hn, k, hk, ⟨hi, he⟩, hu⟩
    · exact x.accepted_names ..
  case dir =>
    intro f b s hd hty hb
    refine ⟨_, rfl, ?_⟩
    beta_reduce
    rw [hty, beq_self_eq_true, W.if_true, State.take_table]
    refine State.receive_message (·.table f.dstSpan (rd f.payload 0 2)
        = some (b.setDir (DirEnt.read (f.payload.drop 2)).1 ((DirEnt.read (f.payload.drop 2)).2 == 0)))
      hd (by simp [hty]) (fun w r hw => (w.sendAck_table ..).trans hw) fun l => ?_
    rw [W.gotMessage_dir hty, W.gotDir]
    exact ⟨W.putDir_rxs .., (W.putDir_table ..).trans (congrArg _ hb)⟩
  case redirect =>
    intro f i again d k b x g s hd hty hd' hk hq hx hb hself hg
    refine ⟨_, rfl, ?_⟩
    beta_reduce
    rw [hty, beq_self_eq_true, W.if_true]
    refine State.receive_message (fun w => ∃ h ∈ w.vdt.flows, ∃ q ∈ h.sent, q.frame.ty = tyGetReq ∧ q.frame.dstRank = rd f.payload 8 2
          ∧ q.frame.payload = lookBody (rd f.payload 0 8) k.table k.epoch k.update (k.ids.getD i 0))
      hd (by simp [hty]) (fun w r hw => by simpa using hw) fun l => ?_
    rw [W.gotMessage_redirect hty, W.gotRedirect, W.lookArrived_moved (w := s.work.withRxs l) hd' hk hq hx hb hself]
    refine ⟨W.rxs_of_barrier (W.send_barrier ..), ?_⟩
    exact W.askRow_sent (w := s.work.withRxs l) hg ..
end Sys2Proof.Machine
end

section
/-! PROOFS. What goes out and which rings stand enabled while a command acts: replies, interrupts, events, and what ends with them
(R254, R256, R261). -/

namespace Sys2Proof.Machine

/-! ### Talking to the host -/

/-- On the way from `a` to `b` nothing that has gone out is lost, and no ring is enabled or disabled. -/
structure W.Talks (a b : W) : Prop where
  out : ∃ l, b.cmd.outbox = l ++ a.cmd.outbox
  en : ∀ fn r, (b.ring fn r).en = (a.ring fn r).en

theorem W.Talks.of_cmd {a b : W} (h : b.cmd = a.cmd) : a.Talks b := by
  refine ⟨⟨[], ?_⟩, fun fn r => ?_⟩
  · rw [h]; rfl
  · rw [W.ring, W.ring, h]

theorem W.Talks.refl (w : W) : w.Talks w := .of_cmd rfl

theorem W.Talks.trans {a b c : W} (h : a.Talks b) (k : b.Talks c) : a.Talks c := by
  obtain ⟨⟨l, hl⟩, he⟩ := h
  obtain ⟨⟨m, hm⟩, hf⟩ := k
  exact ⟨⟨m ++ l, by rw [hm, hl, List.append_assoc]⟩, fun fn r => (hf fn r).trans (he fn r)⟩

/-- Changes of a list that each only talk do so together. -/
theorem W.each_talks {α : Type} (w : W) (l : List α) (f : α → W → W) (h : ∀ a w, W.Talks w (f a w)) : w.Talks (w.each l f) :=
  W.each_ind (w.Talks ·) f l w (.refl w) fun a _ v hv => hv.trans (h a v)

/-- So does a change that has to be possible. -/
theorem W.with_talks {α : Type} (w : W) (o : Option α) (f : α → W → W) (h : ∀ a w, W.Talks w (f a w)) : w.Talks (w.with o f) := by
  cases o
  · exact .refl w
  · exact h _ w

section
variable (w : W)

theorem W.emit_talks (o : Out) : w.Talks (w.emit o) := ⟨⟨[o], rfl⟩, fun _ _ => rfl⟩

/-- A change of a ring that leaves it enabled or disabled. -/
theorem W.modRing_talks (fn r : Nat) (f : Ring → Ring) (h : ∀ g, (f g).en = g.en) : w.Talks (w.modRing fn r f) := by
  refine ⟨⟨[], rfl⟩, fun fn' r' => ?_⟩
  rw [W.ring_modRing]
  split
  · next e => rw [h, W.ring, W.ring, e]
  · rfl

theorem W.signal_talks (fn v : Nat) : w.Talks (w.signal fn v) := by
  unfold W.signal
  split
  · exact .refl w
  · split
    · exact ⟨⟨[], rfl⟩, fun _ _ => rfl⟩
    · exact w.emit_talks _

theorem W.signalRing_talks (fn r : Nat) : w.Talks (w.signalRing fn r) :=
  (w.modRing_talks fn r (fun g => { g with unsig := 0 }) fun _ => rfl).trans (W.signal_talks ..)

theorem W.writeReply_talks (fn r : Nat) (now : Bool) (x : Reply) : w.Talks (w.writeReply fn r now x) := by
  have h := fun o => (w.emit_talks o).trans ((w.emit o).modRing_talks fn r (fun g =>
    { g with cqTail := (g.cqTail + 1) % w.entries fn r, cqPhase := if g.cqTail + 1 = w.entries fn r then !g.cqPhase else g.cqPhase,
             cqUsed := g.cqUsed + 1, unsig := g.unsig + 1 }) fun _ => rfl)
  unfold W.writeReply
  dsimp only
  split
  · exact (h _).trans (W.signalRing_talks ..)
  · exact h _

theorem W.reply_talks (fn r : Nat) (now : Bool) (x : Reply) (f : Option Nat) : w.Talks (w.reply fn r now x f) := by
  unfold W.reply
  dsimp only
  split
  · exact .refl w
  · split
    · exact w.modRing_talks _ _ _ fun _ => rfl
    · exact w.writeReply_talks ..

theorem W.answer_talks (c : Cmd) (st : Status) (d : Detail) (r0 r1 : Nat) : w.Talks (w.answer c st d r0 r1) := w.reply_talks ..

theorem W.finish_talks (i : Nat) (st : Status) (d : Detail) (r0 r1 : Nat) : w.Talks (w.finish i st d r0 r1) := by
  unfold W.finish
  split
  · exact .refl w
  · refine W.Talks.trans ?_ (W.answer_talks ..)
    exact ⟨⟨[], rfl⟩, fun _ _ => rfl⟩

theorem W.finishAll_talks (l : List Nat) (st : Status) : w.Talks (w.finishAll l st) := w.each_talks _ _ fun _ w => w.finish_talks ..

/-- An event record tells of itself by interrupts alone. -/
theorem W.event_talks (ty : EvTy) (n : Nat) (b : Bool) (u : Nat) (p : Option (List Byte)) (x : Subject) : w.Talks (w.event ty n b u p x) := by
  have hnotice (v : W) (fn : Nat) : v.Talks (v.notice fn) := by
    unfold W.notice
    dsimp only
    split
    · exact v.signal_talks ..
    · exact .refl v
  have hnotices (v : W) : v.Talks (v.notices n b) := by
    unfold W.notices
    split
    · exact v.each_talks _ _ fun fn w => hnotice w fn
    · split
      · exact hnotice v 0
      · exact (hnotice v n).trans (hnotice _ 0)
  have hrecord (v : W) (ty : EvTy) (fl : Bool) (p : Option (List Byte)) (x : Subject) : v.Talks (v.record ty fl n b u p x) := by
    unfold W.record
    dsimp only
    split <;> exact .of_cmd rfl
  have hsnap (v : W) (q : Nat) (fl : Bool) : v.Talks (v.snapshot q fl n b) := by
    unfold W.snapshot W.record
    dsimp only
    split <;> split <;> exact .of_cmd rfl
  unfold W.event
  dsimp only
  split
  · exact ((hrecord ..).trans (hsnap ..)).trans (hnotices _)
  · exact (hrecord ..).trans (hnotices _)

/-- A packet that is taken moves its ring on. -/
theorem W.taken_talks (p : Pkt) : w.Talks (w.taken p) :=
  (w.modRing_talks p.fn p.ring (fun g => { g with sqHead := (g.sqHead + 1) % w.entries p.fn p.ring }) fun _ => rfl).trans
    ((W.modRing_talks _ p.fn p.ring (fun g => { g with nextSeq := (g.nextSeq + 1) % 2 ^ 24 }) fun _ => rfl).trans
      ⟨⟨[], rfl⟩, fun _ _ => rfl⟩)

end

/-! ### What has gone out by the end of a command -/

/-- What goes out and then stays out has gone out. -/
theorem Sent.of_talks {s : State} {a b : W} {o : Out} (ha : s.work.Talks a) (h : (a.emit o).Talks b) : Sent s (s.take b) o := by
  obtain ⟨l, hl⟩ := ha.out
  obtain ⟨m, hm⟩ := h.out
  refine ⟨m ++ o :: l, ?_, List.mem_append_right m List.mem_cons_self⟩
  show b.cmd.outbox = _
  rw [hm, List.append_assoc]
  exact congrArg (m ++ o :: ·) hl

/-- A reply given after other things went out has been given. -/
theorem Given.of_talks {s t : State} {w : W} {fn r : Nat} {x : Reply} (hw : s.work.Talks w) (h : Given (s.take w) t fn r x) :
    Given s t fn r x := by
  refine h.imp_left ?_
  rintro ⟨a, ph, m, hm, ho⟩
  obtain ⟨l, hl⟩ := hw.out
  refine ⟨a, ph, m ++ l, hm.trans ?_, List.mem_append_left l ho⟩
  rw [List.append_assoc]
  exact congrArg (m ++ ·) hl

/-- A command that was in progress when the command began, and has its final reply after other things went out, has ended. -/
theorem W.finish_finished_of_talks {s : State} {w : W} (hw : s.work.Talks w) (hc : w.cmd.cmds = s.dev.cmd.cmds) (i : Nat) (st : Status)
    (d : Detail) (r0 : Nat) : Finished s (s.take (w.finish i st d r0)) i st d r0 := by
  intro c hf
  obtain ⟨hgone, hgiven⟩ := W.finish_finished (s := s.take w) (w := w) rfl i st d r0 c (by rw [State.take_dev, hc]; exact hf)
  exact ⟨hgone, fun hen => .of_talks hw (hgiven ((hw.en c.fn c.ring).trans hen))⟩

/-- A packet is read from a ring that is enabled, holds no reply back and has room for one (R254, R256). -/
theorem State.ring_of_starts {s : State} {o : OpInfo} {p : Pkt} (h : s.starts o p = true) :
    (s.work.ring p.fn p.ring).en = true ∧ (s.work.ring p.fn p.ring).held = [] ∧ s.work.cqFree p.fn p.ring = true := by
  have hr := ((s.starts_iff o p).1 h).1
  simp only [W.canRead, Bool.and_eq_true, List.isEmpty_iff] at hr
  tauto

/-- The packet's own final reply is given, whatever else went out before it. -/
theorem State.answeredOk_of_talks {s : State} {o : OpInfo} {p : Pkt} {w : W} (h : s.starts o p = true) (hw : s.work.Talks w) :
    AnsweredOk s (s.take (w.answer (s.work.cmdOf o p) .ok)) p :=
  .of_talks hw (W.answer_given (s := s.take w) (w := w) rfl (s.work.cmdOf o p) .ok .none 0
    ((hw.en p.fn p.ring).trans (State.ring_of_starts h).1))

/-- The final reply of a command that has only taken its packet, of the command interface, is the next entry of its completion ring. -/
theorem State.answered_of_starts {s : State} {o : OpInfo} {p : Pkt} {w : W} (h : s.starts o p = true) (hc : w.cmd = (s.work.taken p).cmd)
    (hregs : w.regs = s.dev.regs) (st : Status) (d : Detail) (r0 r1 : Nat) :
    Answered s (s.take (w.answer (s.work.cmdOf o p) st d r0 r1)) p st d r0 r1 := by
  obtain ⟨hen, hheld, hfree⟩ := State.ring_of_starts h
  have hring : w.ring p.fn p.ring = (s.work.taken p).ring p.fn p.ring := by rw [W.ring, W.ring, hc]
  rw [W.taken_ring] at hring
  have hbase : w.cqBase p.fn p.ring = s.work.cqBase p.fn p.ring := by simp only [W.cqBase, W.regv, hregs]; rfl
  have hroom : w.cqFree p.fn p.ring = true := by
    rw [← hfree, W.cqFree, W.cqFree, hring, W.entries, W.entries, W.sizeLog2, W.sizeLog2, W.ringCfg, W.ringCfg, W.regv, W.regv, hregs]
    rfl
  obtain ⟨l, hl⟩ := w.writeReply_sends p.fn p.ring p.irqNow { tag := p.tag, seq := p.seq.toNat, status := st, detail := d, result0 := r0, result1 := r1 }
  refine ⟨l ++ [_], ?_, List.mem_append_right l (List.mem_singleton_self _)⟩
  have hnow : w.answer (s.work.cmdOf o p) st d r0 r1 = w.writeReply p.fn p.ring p.irqNow
      { tag := p.tag, seq := p.seq.toNat, status := st, detail := d, result0 := r0, result1 := r1 } := by
    show w.reply p.fn p.ring _ _ _ = _
    simp [W.reply, hring, hen, hheld, hroom, W.cmdOf]
  rw [State.take_dev, hnow, hl, hbase, hring, hc, List.append_assoc]
  rfl

end Sys2Proof.Machine
end

section
/-! PROOFS. Slots, generations and images while the BN2 gives them up (R203, R217 to R219). -/

namespace Sys2Proof.Machine

/-! ### What leaves the decks as they are -/

theorem W.OnlyEvents.deck {a b : W} (h : a.OnlyEvents b) : b.deck = a.deck := by
  obtain ⟨⟨_, _, _, rfl⟩, -⟩ := h
  rfl

theorem W.OnlyEvents.step {a b : W} (h : a.OnlyEvents b) : b.step = a.step := by
  obtain ⟨⟨_, _, _, rfl⟩, -⟩ := h
  rfl

section
variable (w : W)

@[simp] theorem W.answer_deck (c : Cmd) (st : Status) (d : Detail) (r0 r1 : Nat) : (w.answer c st d r0 r1).deck = w.deck :=
  (w.answer_only ..).events.deck
@[simp] theorem W.accepted_deck (c : Cmd) : (w.accepted c).deck = w.deck := (w.accepted_only c).events.deck
@[simp] theorem W.finish_deck (i : Nat) (st : Status) (d : Detail) (r0 r1 : Nat) : (w.finish i st d r0 r1).deck = w.deck :=
  (w.finish_only ..).events.deck
@[simp] theorem W.finishAll_deck (l : List Nat) (st : Status) : (w.finishAll l st).deck = w.deck := (w.finishAll_only ..).events.deck
@[simp] theorem W.event_deck (ty : EvTy) (n : Nat) (b : Bool) (u : Nat) (p : Option (List Byte)) (x : Subject) :
    (w.event ty n b u p x).deck = w.deck := (w.event_only ..).deck

/-- A create or resize that is looked at again changes its span, and ends at most (R289). -/
theorem W.settleResize_cases (n : Nat) :
    (∃ x, w.settleResize n = { w with span := x }) ∨ ∃ x i d, w.settleResize n = ({ w with span := x } : W).finish i .ok d := by
  unfold W.settleResize
  split
  · exact .inl ⟨w.span, rfl⟩
  · next r _ =>
    obtain ⟨cmd, create, cores, pages⟩ := r
    cases pages with
    | none =>
      dsimp only
      split
      · exact .inr ⟨_, _, _, rfl⟩
      · exact .inl ⟨_, rfl⟩
    | some q =>
      dsimp only
      by_cases hq : w.charged n ≤ q
      · rw [if_pos hq]
        dsimp only
        split
        · exact .inr ⟨_, _, _, rfl⟩
        · exact .inl ⟨_, rfl⟩
      · rw [if_neg hq]
        dsimp only
        split
        · exact .inr ⟨_, _, _, rfl⟩
        · exact .inl ⟨_, rfl⟩

@[simp] theorem W.settleResizes_deck : w.settleResizes.deck = w.deck := by
  unfold W.settleResizes
  refine W.each_same (·.deck) _ _ w fun n v => ?_
  obtain ⟨x, h⟩ | ⟨x, i, d, h⟩ := v.settleResize_cases n <;> rw [h]
  exact W.finish_deck ..

theorem W.settleResizes_talks : w.Talks w.settleResizes := by
  unfold W.settleResizes
  refine w.each_talks _ _ fun n v => ?_
  obtain ⟨x, h⟩ | ⟨x, i, d, h⟩ := v.settleResize_cases n <;> rw [h]
  · exact .of_cmd rfl
  · exact (W.Talks.of_cmd (a := v) (b := { v with span := x }) rfl).trans (W.finish_talks ..)

@[simp] theorem W.freePage_deck (f : Nat) : (w.freePage f).deck = w.deck := by
  unfold W.freePage
  split <;> rfl

@[simp] theorem W.freePage_cmd (f : Nat) : (w.freePage f).cmd = w.cmd := by
  unfold W.freePage
  split <;> rfl

@[simp] theorem W.dropGen_deck (n k g : Nat) : (w.dropGen n k g).deck = w.deck := W.each_same (·.deck) _ _ w fun _ _ => rfl

@[simp] theorem W.dropGen_cmd (n k g : Nat) : (w.dropGen n k g).cmd = w.cmd := W.each_same (·.cmd) _ _ w fun _ _ => rfl

/-! ### Freeing an image (R217) -/

@[simp] theorem W.freeImage_cmd (i : Nat) : (w.freeImage i).cmd = w.cmd := by
  unfold W.freeImage
  split
  · rfl
  · exact W.each_same (·.cmd) _ _ _ fun f v => v.freePage_cmd f

/-- An image that is freed is gone; the rest of the decks stands. -/
theorem W.freeImage_deck (i : Nat) : (w.freeImage i).deck = { w.deck with images := w.deck.images.filter fun x => x.id != i } := by
  unfold W.freeImage
  split
  · next h =>
    have hno := List.find?_eq_none.1 h
    rw [List.filter_eq_self.2 fun x hx => by simpa using hno x hx]
  · exact W.each_same (·.deck) _ _ _ fun f v => v.freePage_deck f

@[simp] theorem W.freeImage_slots (i : Nat) : (w.freeImage i).deck.slots = w.deck.slots := by rw [W.freeImage_deck]

@[simp] theorem W.freeImage_image (i : Nat) : (w.freeImage i).image i = none := by
  rw [W.image, W.freeImage_deck]
  exact List.find?_eq_none.2 fun x hx => by simpa using (List.mem_filter.1 hx).2

@[simp] theorem W.reap_cmd (i : Nat) : (w.reap i).cmd = w.cmd := by
  unfold W.reap
  split <;> simp

@[simp] theorem W.reap_slots (i : Nat) : (w.reap i).deck.slots = w.deck.slots := by
  unfold W.reap
  split
  · rfl
  · exact w.freeImage_slots i

/-! ### One slot -/

@[simp] theorem W.slot_modSlot_self (n k : Nat) (f : DeckSlot → DeckSlot) : (w.modSlot n k f).slot n k = f (w.slot n k) := by
  simp [W.slot_modSlot]

end

theorem W.slot_of_slots {a b : W} (h : b.deck.slots = a.deck.slots) (n k : Nat) : b.slot n k = a.slot n k := by rw [W.slot, W.slot, h]

/-- A slot stands as `x`, but for the retirements whose final replies it owes (R219). -/
def W.SlotIs (w : W) (n k : Nat) (x : DeckSlot) : Prop := ∃ rs, w.slot n k = { x with retiring := rs }

section
variable {a b : W} {n k : Nat} {x : DeckSlot}

theorem W.SlotIs.of_slot (h : a.slot n k = x) : a.SlotIs n k x := ⟨x.retiring, h⟩

theorem W.SlotIs.of_slots (h : a.SlotIs n k x) (hs : b.deck.slots = a.deck.slots) : b.SlotIs n k x := by
  obtain ⟨rs, hr⟩ := h
  exact ⟨rs, (W.slot_of_slots hs n k).trans hr⟩

/-- A retirement that waits for a generation no longer changes what the slot owes alone. -/
theorem W.SlotIs.settleRetired (h : a.SlotIs n k x) (g : Nat) : (a.settleRetired n k g).SlotIs n k x := by
  obtain ⟨rs, hr⟩ := h
  unfold W.settleRetired
  dsimp only
  refine W.SlotIs.of_slots ?_ (congrArg DeckSys.slots (W.finishAll_deck ..))
  exact ⟨_, (W.slot_modSlot_self ..).trans (by rw [hr])⟩

/-- An older generation that is released leaves the slot (R217). -/
theorem W.SlotIs.releaseGen (h : a.SlotIs n k x) (g : Nat) :
    (a.releaseGen n k g).SlotIs n k { x with olds := x.olds.filter fun o => o.gen != g } := by
  obtain ⟨rs, hr⟩ := h
  unfold W.releaseGen
  split
  · next hf =>
    refine ⟨rs, ?_⟩
    rw [hr] at hf ⊢
    have hno := List.find?_eq_none.1 hf
    rw [List.filter_eq_self.2 fun o ho => by simpa using hno o ho]
  · refine W.SlotIs.settleRetired (W.SlotIs.of_slots ⟨rs, ?_⟩ (W.reap_slots ..)) g
    rw [W.slot_modSlot_self, W.slot_of_slots (congrArg DeckSys.slots (W.dropGen_deck ..)), hr]

/-- Of the older generations those stay that are not released. -/
theorem W.SlotIs.releaseGens (h : a.SlotIs n k x) (gs : List Nat) :
    (a.each gs fun g w => w.releaseGen n k g).SlotIs n k { x with olds := x.olds.filter fun o => !gs.contains o.gen } := by
  induction gs generalizing a x with
  | nil => simpa using h
  | cons g gs ih =>
    have hg := ih (h.releaseGen g)
    rw [List.filter_filter] at hg
    rw [W.each_cons]
    convert hg using 4
    simp [bne, Bool.and_comm, beq_eq_decide]

end

section
variable (w : W) (n k : Nat)

theorem W.settleRetired_talks (g : Nat) : w.Talks (w.settleRetired n k g) := by
  unfold W.settleRetired
  exact (W.Talks.of_cmd (W.modSlot_cmd ..)).trans (W.finishAll_talks ..)

theorem W.releaseGen_talks (g : Nat) : w.Talks (w.releaseGen n k g) := by
  unfold W.releaseGen
  split
  · exact .refl w
  · refine W.Talks.trans (.of_cmd ?_) (W.settleRetired_talks ..)
    rw [W.reap_cmd, W.modSlot_cmd, W.dropGen_cmd]

theorem W.releaseGeneration_talks : w.Talks (w.releaseGeneration n k) :=
  (w.each_talks _ _ fun g v => v.releaseGen_talks n k g).trans (W.settleResizes_talks _)

/-- Releasing keeps the older generations that are bound, and those alone (R217). -/
theorem W.releaseGeneration_slot {x : DeckSlot} (h : w.SlotIs n k x) :
    (w.releaseGeneration n k).SlotIs n k { x with olds := x.olds.filter fun o => w.genBound n k o.gen } := by
  have holds : (w.slot n k).olds = x.olds := by
    obtain ⟨rs, hr⟩ := h
    rw [hr]
  have hgs := h.releaseGens ((x.olds.filter fun o => !w.genBound n k o.gen).map (·.gen))
  rw [W.releaseGeneration, holds]
  refine W.SlotIs.of_slots ?_ (congrArg DeckSys.slots (W.settleResizes_deck _))
  convert hgs using 2
  refine List.filter_congr fun o ho => ?_
  cases hb : w.genBound n k o.gen
  · have : o.gen ∈ (x.olds.filter fun o => !w.genBound n k o.gen).map (·.gen) := List.mem_map.2 ⟨o, List.mem_filter.2 ⟨ho, by simp [hb]⟩, rfl⟩
    simpa using this
  · have : o.gen ∉ (x.olds.filter fun o => !w.genBound n k o.gen).map (·.gen) := by
      rintro hm
      obtain ⟨q, hq, hg⟩ := List.mem_map.1 hm
      have hfree := (List.mem_filter.1 hq).2
      simp [hg, hb] at hfree
    simpa using this

/-- What binds a generation: the steps and the open requests (R217). -/
theorem W.genBound_congr {a b : W} (hs : b.step = a.step) (hr : b.deck.requests = a.deck.requests) (g : Nat) :
    b.genBound n k g = a.genBound n k g := by
  rw [W.genBound, W.genBound, W.boundBySteps, W.boundBySteps, W.boundByRequests, W.boundByRequests, hs, hr]

end

/-! ### A switch that takes effect (R218) -/

/-- A slot after a switch to an image (R204, R218). -/
def DeckSlot.switched (x : DeckSlot) (i : Nat) : DeckSlot :=
  { x with
    gen := nextGen x.gen
    current := some i
    olds := (x.current.map fun j => { gen := x.gen, image := j, window := x.window, pages := x.pages }).toList
    staged := if x.staged = some i then none else x.staged
    waiting := none }

/-- Copies of generations leave scratchpads alone. -/
theorem W.dropGens_deck (w : W) (n k : Nat) (l : List OldGen) : (w.each l fun o v => v.dropGen n k o.gen).deck = w.deck :=
  W.each_same (·.deck) _ l w fun o v => v.dropGen_deck n k o.gen

theorem W.dropGens_cmd (w : W) (n k : Nat) (l : List OldGen) : (w.each l fun o v => v.dropGen n k o.gen).cmd = w.cmd :=
  W.each_same (·.cmd) _ l w fun o v => v.dropGen_cmd n k o.gen

theorem W.switchNow_slot (w : W) (n k i : Nat) : (w.switchNow n k i).SlotIs n k ((w.slot n k).switched i) := by
  unfold W.switchNow
  dsimp only
  refine W.SlotIs.of_slots ?_ (congrArg DeckSys.slots (W.settleResizes_deck _))
  refine W.each_ind (·.SlotIs n k _) _ _ _ (.of_slot ?_) fun o _ v hv => (hv.of_slots (v.reap_slots o.image)).settleRetired o.gen
  rw [W.slot_modSlot_self, W.slot_of_slots (congrArg DeckSys.slots (w.dropGens_deck n k _))]
  rfl

theorem W.switchNow_talks (w : W) (n k i : Nat) : w.Talks (w.switchNow n k i) := by
  unfold W.switchNow
  dsimp only
  refine W.Talks.trans ?_ (W.settleResizes_talks _)
  refine W.Talks.trans ?_ (W.each_talks _ _ _ fun o v => (W.Talks.of_cmd (v.reap_cmd o.image)).trans (W.settleRetired_talks _ n k o.gen))
  exact .of_cmd (w.dropGens_cmd n k _)

section
variable {w : W} {n k : Nat}

/-- A switch of a slot whose older generations nothing binds takes effect at once. -/
theorem W.switchOrWait_now (h : w.olderFree n k = true) (c i : Nat) :
    w.switchOrWait c n k i = (w.switchNow n k i).finish c .ok (.count ((w.switchNow n k i).heldCount n k)) := if_pos h

/-- Another one waits. -/
theorem W.switchOrWait_waits (h : w.olderFree n k = false) (c i : Nat) :
    w.switchOrWait c n k i = w.modSlot n k fun s => { s with waiting := some (c, i) } := by
  simp [W.switchOrWait, h]

theorem W.switchOrWait_talks (c i : Nat) : w.Talks (w.switchOrWait c n k i) := by
  unfold W.switchOrWait
  split
  · exact (w.switchNow_talks n k i).trans (W.finish_talks ..)
  · exact .of_cmd rfl

theorem W.switchOrWait_slot (h : w.olderFree n k = true) (c i : Nat) :
    (w.switchOrWait c n k i).SlotIs n k ((w.slot n k).switched i) := by
  rw [W.switchOrWait_now h]
  exact (w.switchNow_slot n k i).of_slots (congrArg DeckSys.slots (W.finish_deck ..))

/-- Where nothing at all binds an older generation, no request does. -/
theorem W.olderHeld_of_olderFree (h : w.olderFree n k = true) : w.olderHeld n k = false := by
  simp only [W.olderFree, W.genBound, W.olderHeld, Bool.not_eq_true', List.any_eq_false, Bool.or_eq_true, not_or, Bool.not_eq_true] at h ⊢
  exact fun o ho => (h o ho).2

end

end Sys2Proof.Machine
end

section
/-! PROOFS. Switching, retiring and releasing (R202, R204, R217 to R219). -/

namespace Sys2Proof.Machine

/-! ### The decks of the state that a command leaves -/

section
variable (s : State) (w : W) (n k : Nat)

@[simp] theorem State.take_slot : (s.take w).work.slot n k = w.slot n k := rfl
@[simp] theorem State.take_image : (s.take w).work.image n = w.image n := rfl
@[simp] theorem State.take_adapter : (s.take w).work.adapter n = w.adapter n := rfl

end

/-! ### What a started command finds of the decks is what its packet found -/

section
variable {a b : W} {n k : Nat}

theorem W.page_of_pages (h : b.hbm.pages = a.hbm.pages) (n vp : Nat) : b.page n vp = a.page n vp := by rw [W.page, W.page, h]

theorem W.slotAt_congr (hs : b.deck.slots = a.deck.slots) (hp : b.hbm.pages = a.hbm.pages) (n vp : Nat) (l : List Bind) :
    b.slotAt n vp l = a.slotAt n vp l := by
  simp only [W.slotAt, W.slot_of_slots hs, W.page_of_pages hp]

/-- The size of a window rests on the slots and the pages (R202). -/
theorem W.windowSize_congr (hs : b.deck.slots = a.deck.slots) (hp : b.hbm.pages = a.hbm.pages) (n k base : Nat) :
    b.windowSize n k base = a.windowSize n k base := by
  have hpages (vp m : Nat) : b.windowPages n vp m = a.windowPages n vp m := by
    induction m generalizing vp with
    | zero => rfl
    | succ m ih => simp only [W.windowPages, W.page_of_pages hp, W.slotAt_congr hs hp, ih]
  simp only [W.windowSize, W.slot_of_slots hs, hpages, hp]

/-- Whether older generations may go rests on them, on the steps and on the requests (R217). -/
theorem W.olderFree_congr (ho : (b.slot n k).olds = (a.slot n k).olds) (hs : b.step = a.step) (hr : b.deck.requests = a.deck.requests) :
    b.olderFree n k = a.olderFree n k := by
  simp only [W.olderFree, ho, W.genBound_congr n k hs hr]

theorem W.olderHeld_congr (ho : (b.slot n k).olds = (a.slot n k).olds) (hr : b.deck.requests = a.deck.requests) :
    b.olderHeld n k = a.olderHeld n k := by
  simp only [W.olderHeld, ho, W.boundByRequests, hr]

end

section
variable (w : W) (p : Pkt)

@[simp] theorem W.taken_deck : (w.taken p).deck = w.deck := rfl
@[simp] theorem W.taken_image (i : Nat) : (w.taken p).image i = w.image i := rfl
@[simp] theorem W.taken_slot (n k : Nat) : (w.taken p).slot n k = w.slot n k := rfl
@[simp] theorem W.taken_windowSize (n k base : Nat) : (w.taken p).windowSize n k base = w.windowSize n k base :=
  W.windowSize_congr (a := w) (b := w.taken p) rfl rfl n k base
@[simp] theorem W.taken_olderHeld (n k : Nat) : (w.taken p).olderHeld n k = w.olderHeld n k :=
  W.olderHeld_congr (a := w) (b := w.taken p) rfl rfl

/-- The number of a command that a packet is. -/
@[simp] theorem W.cmdOf_fn (o : OpInfo) : (w.cmdOf o p).fn = p.fn := rfl
@[simp] theorem W.cmdOf_id (o : OpInfo) : (w.cmdOf o p).id = w.cmd.nextId := rfl

end

/-- A slot with its window fixed (R202). -/
def DeckSlot.fixed (x : DeckSlot) (base pages : Nat) : DeckSlot := { x with window := some base, pages := pages }

theorem W.fixWindow_slot (w : W) (n k base : Nat) :
    (w.fixWindow n k base).slot n k = (w.slot n k).fixed base (w.windowSize n k base) := W.slot_modSlot_self ..

/-! ### DECK_SWITCH (R218) -/

/-- The working copy in which a switch begins: the packet taken, the window fixed, the command in progress with its ring held. -/
def State.switching (s : State) (p : Pkt) (base : Nat) : W :=
  ((s.work.taken p).fixWindow p.fn (p.arg 12 1) base).beginHeld (s.work.cmdOf opDeckSwitch p)

theorem State.switching_slot (s : State) (p : Pkt) (base : Nat) : (s.switching p base).slot p.fn (p.arg 12 1)
    = (s.work.slot p.fn (p.arg 12 1)).fixed base (s.work.windowSize p.fn (p.arg 12 1) base) :=
  (W.fixWindow_slot ..).trans (congrArg (DeckSlot.fixed _ base) (W.taken_windowSize ..))

theorem State.switching_olderFree (s : State) (p : Pkt) (base : Nat) :
    (s.switching p base).olderFree p.fn (p.arg 12 1) = s.work.olderFree p.fn (p.arg 12 1) :=
  W.olderFree_congr (a := s.work) (b := s.switching p base) (by rw [s.switching_slot]; rfl) rfl rfl

/-- A DECK_SWITCH that none of its refusals meets switches, or waits to. -/
theorem State.deckSwitch_goes {s : State} {p : Pkt} {b : Nat} {im : Image} (hs : s.starts opDeckSwitch p = true) (hk : p.arg 12 1 ≤ 15)
    (him : (BitVec.ofNat 256 (p.arg 16 32) = 0#256 ∧ (s.work.slot p.fn (p.arg 12 1)).staged.bind (fun i => s.work.image i) = some im)
      ∨ (BitVec.ofNat 256 (p.arg 16 32) ≠ 0#256 ∧ s.dev.deck.images.find? (fun i => i.digest == BitVec.ofNat 256 (p.arg 16 32)
          && !i.loading && (i.shareable || i.owner == p.fn)) = some im))
    (hl : (s.work.slot p.fn (p.arg 12 1)).load = none) (hw : (s.work.slot p.fn (p.arg 12 1)).waiting = none)
    (hb : (s.work.slot p.fn (p.arg 12 1)).window = some b
      ∨ ((s.work.slot p.fn (p.arg 12 1)).window = none ∧ p.arg 48 6 ≠ 0 ∧ b = p.arg 48 6))
    (ha : b % pageBytes = 0) (hfit : im.tiles ≤ s.work.windowSize p.fn (p.arg 12 1) b * pageTiles)
    (hheld : s.work.olderHeld p.fn (p.arg 12 1) = false) :
    exec (.deckSwitch p) s = .next (s.take ((s.switching p b).switchOrWait s.dev.cmd.nextId p.fn (p.arg 12 1) im.id)) := by
  have himg : (if BitVec.ofNat 256 (p.arg 16 32) = 0#256 then (s.work.slot p.fn (p.arg 12 1)).staged.bind fun i => s.work.image i
      else s.dev.deck.images.find? fun i => i.digest == BitVec.ofNat 256 (p.arg 16 32) && !i.loading && (i.shareable || i.owner == p.fn))
      = some im := by
    rcases him with ⟨hd, h⟩ | ⟨hd, h⟩
    · rw [if_pos hd, h]
    · rw [if_neg hd, h]
  show execDeckSwitch p s = _
  rw [execDeckSwitch, State.act_starts hs]
  rcases hb with hb | ⟨hb, hne, rfl⟩
  · simp [Nat.not_lt.2 hk, hl, hw, himg, hb, ha, Nat.not_lt.2 hfit, hheld, State.switching]
  · simp [Nat.not_lt.2 hk, hl, hw, himg, hb, hne, ha, Nat.not_lt.2 hfit, hheld, State.switching]

/-! ### DECK_RETIRE (R219) -/

/-- A slot after its retirement: EMPTY, what was current one of its older generations. -/
def DeckSlot.retired (x : DeckSlot) : DeckSlot :=
  { x with
    gen := nextGen x.gen
    current := none
    staged := none
    waiting := none
    window := if x.load.isSome then x.window else none
    olds := (x.current.map fun i => { gen := x.gen, image := i, window := x.window, pages := x.pages }).toList ++ x.olds }

/-- The working copy in which a retirement has released what nothing binds and discarded the images of its staging and its switch. -/
def W.retire (w : W) (n k : Nat) : W :=
  let d := w.slot n k
  let w := w.modSlot n k DeckSlot.retired
  let w := w.with d.waiting fun q w => w.finish q.1 .squashed
  let w := w.releaseGeneration n k
  (w.each (d.staged.toList ++ (d.waiting.map (·.2)).toList) fun i w => w.reap i).settleResizes

theorem W.retire_talks (w : W) (n k : Nat) : w.Talks (w.retire n k) := by
  unfold W.retire
  dsimp only
  refine W.Talks.trans ?_ (W.settleResizes_talks _)
  refine W.Talks.trans ?_ (W.each_talks _ _ _ fun i v => .of_cmd (v.reap_cmd i))
  refine W.Talks.trans ?_ (W.releaseGeneration_talks _ n k)
  exact (W.Talks.of_cmd (a := w) (b := w.modSlot n k DeckSlot.retired) rfl).trans (W.with_talks _ _ _ fun q v => v.finish_talks ..)

/-- Of a retired slot's older generations, the former current one among them, those stay that something binds. -/
theorem W.retire_slot (w : W) (n k : Nat) : (w.retire n k).SlotIs n k
    { (w.slot n k).retired with olds := (w.slot n k).retired.olds.filter fun o => w.genBound n k o.gen } := by
  unfold W.retire
  dsimp only
  generalize hv : W.with _ _ _ = v
  have honly : (w.modSlot n k DeckSlot.retired).OnlyCmd v := by
    rw [← hv]
    cases (w.slot n k).waiting
    · exact .refl _
    · exact W.finish_only ..
  have hslot : v.SlotIs n k (w.slot n k).retired := .of_slot (by
    rw [W.slot_of_slots (congrArg DeckSys.slots honly.events.deck), W.slot_modSlot_self])
  have hfree := v.releaseGeneration_slot n k hslot
  have hbound (g : Nat) : v.genBound n k g = w.genBound n k g :=
    W.genBound_congr n k honly.events.step (congrArg DeckSys.requests honly.events.deck) g
  simp only [hbound] at hfree
  refine W.SlotIs.of_slots (W.SlotIs.of_slots hfree ?_) (congrArg DeckSys.slots (W.settleResizes_deck _))
  exact W.each_same (·.deck.slots) _ _ _ fun i v => v.reap_slots i

/-- A DECK_RETIRE of one of the 16 slots replies at once when no generation is left, and else goes on. -/
theorem State.deckRetire_ends {s : State} {p : Pkt} {P : State → Prop} {v : W} (hs : s.starts opDeckRetire p = true) (hk : p.arg 12 1 ≤ 15)
    (hv : (s.work.taken p).retire p.fn (p.arg 12 1) = v)
    (hdone : (v.slot p.fn (p.arg 12 1)).olds = [] → P (s.take (v.answer (s.work.cmdOf opDeckRetire p) .ok)))
    (hleft : ∀ f : DeckSlot → DeckSlot, (∀ x, ∃ rs, f x = { x with retiring := rs }) → (v.slot p.fn (p.arg 12 1)).olds ≠ [] →
      P (s.take (((v.modSlot p.fn (p.arg 12 1) f).begin (s.work.cmdOf opDeckRetire p)).accepted (s.work.cmdOf opDeckRetire p)))) :
    Ends (.deckRetire p) s P := by
  refine ⟨_, State.act_starts hs _, ?_⟩
  dsimp only
  rw [if_neg (Nat.not_lt.2 hk)]
  split
  · next h =>
    subst hv
    exact hdone (List.map_eq_nil_iff.1 h)
  · next h =>
    subst hv
    exact hleft _ (fun x => ⟨_, rfl⟩) fun hn => h (List.map_eq_nil_iff.2 hn)

/-- What was current is kept as an older generation while something binds it. -/
theorem DeckSlot.retired_keeps {x : DeckSlot} {i : Nat} (h : x.current = some i) {bound : Nat → Bool} (hb : bound x.gen = true) :
    { gen := x.gen, image := i, window := x.window, pages := x.pages } ∈ x.retired.olds.filter fun o => bound o.gen :=
  List.mem_filter.2 ⟨List.mem_append_left _ (by rw [h]; exact List.mem_singleton_self _), hb⟩

@[simp] theorem W.begin_slot (w : W) (c : Cmd) (n k : Nat) : (w.begin c).slot n k = w.slot n k := rfl
@[simp] theorem W.accepted_cmds (w : W) (c : Cmd) : (w.accepted c).cmd.cmds = w.cmd.cmds := w.reply_cmds ..

/-! ### The events of a slot together -/

/-- Settles O21: a switch and a retirement each leave their slot as said, and releasing generations, images and retirements touches
nothing else of it. -/
theorem deckSwitchRetireAndRelease : Obligations.DeckSwitchRetireAndRelease := by
  unfold Obligations.DeckSwitchRetireAndRelease
  refine ⟨?switch, ?effect, ?retire, ?release⟩
  case switch =>
    intro p s b im hs hk him hl hw hb ha hfit hheld
    refine ⟨_, State.deckSwitch_goes hs hk him hl hw hb ha hfit hheld, ?_⟩
    dsimp only
    rw [State.take_slot]
    cases hfree : s.work.olderFree p.fn (p.arg 12 1)
    · rw [W.switchOrWait_waits ((s.switching_olderFree p b).trans hfree), W.slot_modSlot_self, s.switching_slot]
      refine ⟨rfl, fun h => absurd h Bool.false_ne_true, fun _ => ⟨rfl, rfl, rfl, ?_⟩⟩
      exact List.mem_append_right _ (List.mem_singleton_self _)
    · obtain ⟨rs, hr⟩ := W.switchOrWait_slot ((s.switching_olderFree p b).trans hfree) s.dev.cmd.nextId im.id
      rw [hr, s.switching_slot]
      exact ⟨rfl, fun _ => ⟨rfl, rfl, rfl, rfl⟩, fun h => absurd h.symm Bool.false_ne_true⟩
  case effect =>
    intro n k c i s hw hfree
    refine ⟨_, rfl, ?_⟩
    beta_reduce
    rw [hw, W.with_some]
    dsimp only
    rw [hfree, W.if_true]
    obtain ⟨rs, hr⟩ := s.work.switchNow_slot n k i
    rw [State.take_slot, W.slot_of_slots (congrArg DeckSys.slots (W.finish_deck ..)), hr]
    exact ⟨rfl, rfl, rfl, rfl⟩
  case retire =>
    intro p s hs hk
    obtain ⟨rs, hr⟩ := (s.work.taken p).retire_slot p.fn (p.arg 12 1)
    rw [W.taken_slot] at hr
    have hbound (g : Nat) : (s.work.taken p).genBound p.fn (p.arg 12 1) g = s.work.genBound p.fn (p.arg 12 1) g := rfl
    simp only [hbound] at hr
    have hnone (h : ∀ g, s.work.genBound p.fn (p.arg 12 1) g = false) :
        ((s.work.slot p.fn (p.arg 12 1)).retired.olds.filter fun o => s.work.genBound p.fn (p.arg 12 1) o.gen) = [] :=
      List.filter_eq_nil_iff.2 fun o _ => by simp [h]
    refine State.deckRetire_ends hs hk rfl (fun hempty => ?_) fun f hf hleft => ?_
    · dsimp only
      rw [State.take_slot, W.slot_of_slots (congrArg DeckSys.slots (W.answer_deck ..))]
      rw [hr] at hempty ⊢
      refine ⟨rfl, rfl, rfl, rfl, fun hl => by simp [DeckSlot.retired, hl], fun _ => ⟨hempty, ?_⟩, fun i hi hb => ?_⟩
      · exact State.answeredOk_of_talks hs ((s.work.taken_talks p).trans (W.retire_talks ..))
      · exact absurd (DeckSlot.retired_keeps hi hb) (List.eq_nil_iff_forall_not_mem.1 hempty _)
    · obtain ⟨qs, hq⟩ := hf (((s.work.taken p).retire p.fn (p.arg 12 1)).slot p.fn (p.arg 12 1))
      dsimp only
      rw [State.take_slot, W.slot_of_slots (congrArg DeckSys.slots (W.accepted_deck ..))]
      rw [W.begin_slot, W.slot_modSlot_self, hq]
      rw [hr] at hleft ⊢
      refine ⟨rfl, rfl, rfl, rfl, fun hl => by simp [DeckSlot.retired, hl], fun h => absurd (hnone h) hleft, fun i hi hb =>
        ⟨DeckSlot.retired_keeps hi hb, ?_⟩⟩
      rw [State.take_dev, W.accepted_cmds]
      exact List.mem_append_right _ (List.mem_singleton_self _)
  case release =>
    intro n k s
    obtain ⟨rs, hr⟩ := s.work.releaseGeneration_slot n k (.of_slot rfl)
    refine ⟨_, rfl, ?_⟩
    beta_reduce
    rw [State.take_slot, hr]
    exact ⟨rfl, fun o => List.mem_filter⟩

end Sys2Proof.Machine
end

section
/-! PROOFS. Loading a deck image: its start, the binding of a preserved one, and its completion (R205 to R209, R217). -/

namespace Sys2Proof.Machine

/-! ### What a DECK_LOAD finds -/

section
variable (w : W) (p : Pkt)

@[simp] theorem W.taken_keyUsable (n k : Nat) : (w.taken p).keyUsable n k = w.keyUsable n k := rfl
@[simp] theorem W.taken_charged (n : Nat) : (w.taken p).charged n = w.charged n := rfl
@[simp] theorem W.taken_mapLimit (n : Nat) : (w.taken p).mapLimit n = w.mapLimit n := rfl

@[simp] theorem W.taken_takeFrames (k : Nat) : (w.taken p).takeFrames k = w.takeFrames k := by
  have hdeal (cs : List Nat) (last : Option Nat) (got : List Nat) : (w.taken p).deal cs k last got = w.deal cs k last got := by
    induction k generalizing last got with
    | zero => rfl
    | succ k ih =>
      unfold W.deal
      simp only [ih]
      rfl
  rw [W.takeFrames, W.takeFrames, hdeal]

/-! ### A load that starts (R205) -/

/-- The image that a DECK_LOAD begins to load, in these frames. -/
def W.freshImage (fs : List Nat) : Image :=
  { id := w.deck.nextImage, owner := p.fn, charge := p.fn, digest := BitVec.ofNat 256 (rd p.block 32 32), tiles := rd p.block 8 4,
    frames := fs, shareable := bit (rd p.block 4 1) 2, preserve := bit (rd p.block 4 1) 1, norefetch := bit (rd p.block 4 1) 4,
    damaged := false, source := rd p.block 1 1, key := rd p.block 2 2, handle := w.keyHandle (rd p.block 2 2), peer := rd p.block 12 2,
    hostAddr := rd p.block 16 8, refetched := [], bad := [], loading := true, gen := nextGen (w.slot p.fn (rd p.block 0 1)).gen }

/-- The load of that image. -/
def W.freshLoad (cmd : Nat) : DeckLoad :=
  { cmd := cmd, span := p.fn, slot := rd p.block 0 1, image := w.deck.nextImage, switch := bit (rd p.block 4 1) 0
    expect := if bit (rd p.block 4 1) 3 then some (BitVec.ofNat 256 (rd p.block 32 32)) else none, block := p.arg 56 8 }

/-- The frames are the image's, and the image and its load are there. -/
def W.noteLoad (fs : List Nat) (cmd : Nat) : W :=
  let v := w.each fs fun f w => w.setFrame f .image
  { v with deck.images := v.deck.images ++ [w.freshImage p fs], deck.loads := v.deck.loads ++ [w.freshLoad p cmd],
           deck.nextImage := w.deck.nextImage + 1 }

/-- The slot has the window and the load. -/
def W.enterLoad (win : Nat) (fs : List Nat) (cmd : Nat) : W :=
  ((w.noteLoad p fs cmd).fixWindow p.fn (rd p.block 0 1) win).modSlot p.fn (rd p.block 0 1) fun s => { s with load := some w.deck.nextImage }

end

theorem W.OnlySends.refl (w : W) : w.OnlySends w := ⟨_, _, _, rfl⟩

section
variable {s : State} {p : Pkt} {win : Nat} {P : State → Prop} (hs : s.starts opDeckLoad p = true) (hf : deckFieldsOk p.block = true)
  (hwin : win = (s.work.slot p.fn (rd p.block 0 1)).window.getD (rd p.block 24 6)) (hal : win % pageBytes = 0)
  (hst : (s.work.slot p.fn (rd p.block 0 1)).staged = none) (hl : (s.work.slot p.fn (rd p.block 0 1)).load = none)
  (hkey : s.work.keyUsable p.fn (rd p.block 2 2) = true) (hsize : 0 < s.work.windowSize p.fn (rd p.block 0 1) win)
  (hfit : rd p.block 8 4 ≤ s.work.windowSize p.fn (rd p.block 0 1) win * pageTiles)
include hs hf hwin hal hst hl hkey hsize hfit

/-- A DECK_LOAD within quota and with free frames, for which no preserved image serves, begins a load. -/
theorem State.deckLoad_begins {fs : List Nat}
    (hkept : bit (rd p.block 4 1) 3 = true → ∀ i ∈ s.dev.deck.images, i.kept = false ∨ i.digest ≠ BitVec.ofNat 256 (rd p.block 32 32))
    (hroom : s.dev.deck.images.length < 32)
    (hquota : s.work.charged p.fn + ceilDiv (rd p.block 8 4) pageTiles ≤ s.work.mapLimit p.fn)
    (hfs : s.work.takeFrames (ceilDiv (rd p.block 8 4) pageTiles) = some fs)
    (hP : ∀ v, ((s.work.taken p).enterLoad p win fs s.dev.cmd.nextId).OnlySends v → P (s.take (v.begin (s.work.cmdOf opDeckLoad p)))) :
    Ends (.deckLoad p) s P := by
  have hfind : (if bit (rd p.block 4 1) 3 = true then s.dev.deck.images.find? fun i =>
      i.kept && i.digest == BitVec.ofNat 256 (rd p.block 32 32) && (i.owner == p.fn || i.shareable) else none) = none := by
    split
    · next h =>
      refine List.find?_eq_none.2 fun i hi => ?_
      rcases hkept h i hi with hk | hd
      · simp [hk]
      · simp [hd]
    · rfl
  refine ⟨_, State.act_starts hs _, ?_⟩
  rcases hd : (s.work.slot p.fn (rd p.block 0 1)).window with _ | x <;> simp only [hd, Option.getD] at hwin <;> subst hwin
  all_goals
    simp only [W.cmdOf_fn, W.taken_slot, hd, W.taken_deck, W.taken_keyUsable, W.taken_windowSize, hst, hl, hf, hal, hkey, State.work_toDev,
      hfind, Nat.pos_iff_ne_zero.1 hsize, Nat.not_lt.2 hfit, Nat.not_le.2 hroom, W.taken_charged, W.taken_mapLimit, Nat.not_lt.2 hquota,
      W.taken_takeFrames, hfs, Bool.not_true, ne_eq, not_true_eq_false, decide_false, Bool.or_self, Bool.false_eq_true, ↓reduceIte,
      Option.isSome_none]
    refine hP _ ?_
    split
    · exact W.send_only ..
    · exact .refl _

/-- A DECK_LOAD for which a preserved image serves binds it; the span that loaded it declares its source anew (R217). -/
theorem State.deckLoad_binds {im : Image} (hims : im.tiles ≤ s.work.windowSize p.fn (rd p.block 0 1) win * pageTiles)
    (hexp : bit (rd p.block 4 1) 3 = true)
    (hfind : s.dev.deck.images.find? (fun i => i.kept && i.digest == BitVec.ofNat 256 (rd p.block 32 32) && (i.owner == p.fn || i.shareable))
      = some im)
    (hP : ∀ u, (∃ l, u = { ((s.work.taken p).fixWindow p.fn (rd p.block 0 1) win).begin (s.work.cmdOf opDeckLoad p) with deck.images := l }) →
      P (s.take ((u.emit (.hostWrite p.fn (p.arg 56 8 + 32) (leBytes 32 (BitVec.ofNat 256 (rd p.block 32 32)).toNat))).imageReady
        s.dev.cmd.nextId p.fn (rd p.block 0 1) im.id (bit (rd p.block 4 1) 0)))) :
    Ends (.deckLoad p) s P := by
  refine ⟨_, State.act_starts hs _, ?_⟩
  rcases hd : (s.work.slot p.fn (rd p.block 0 1)).window with _ | x <;> simp only [hd, Option.getD] at hwin <;> subst hwin
  all_goals
    simp only [W.cmdOf_fn, W.taken_slot, hd, W.taken_deck, W.taken_keyUsable, W.taken_windowSize, hst, hl, hf, hal, hkey, State.work_toDev,
      hexp, hfind, Nat.pos_iff_ne_zero.1 hsize, Nat.not_lt.2 hfit, Nat.not_lt.2 hims, Bool.not_true, ne_eq, not_true_eq_false, decide_false,
      Bool.or_self, Bool.false_eq_true, ↓reduceIte, Option.isSome_none]
    refine hP _ ?_
    split
    · exact ⟨_, rfl⟩
    · exact ⟨_, rfl⟩

end

/-! ### An image that is complete (R209) -/

section
variable (w : W) (c n k i : Nat)

@[simp] theorem W.reap_loads : (w.reap i).deck.loads = w.deck.loads := by
  unfold W.reap
  split
  · rfl
  · rw [W.freeImage_deck]

@[simp] theorem W.settleRetired_loads (g : Nat) : (w.settleRetired n k g).deck.loads = w.deck.loads := by
  unfold W.settleRetired
  dsimp only
  rw [W.finishAll_deck]
  rfl

@[simp] theorem W.switchNow_loads : (w.switchNow n k i).deck.loads = w.deck.loads := by
  unfold W.switchNow
  dsimp only
  rw [W.settleResizes_deck, W.each_same (·.deck.loads) _ _ _ fun o v => (W.settleRetired_loads ..).trans (v.reap_loads _), W.modSlot_deck_loads,
    W.dropGens_deck]

@[simp] theorem W.switchOrWait_loads : (w.switchOrWait c n k i).deck.loads = w.deck.loads := by
  unfold W.switchOrWait
  split
  · simp
  · rfl

/-- A switch, at once or later, leaves the window of its slot, and its load. -/
theorem W.switchOrWait_keeps : ((w.switchOrWait c n k i).slot n k).window = (w.slot n k).window
    ∧ ((w.switchOrWait c n k i).slot n k).load = (w.slot n k).load := by
  cases h : w.olderFree n k
  · rw [W.switchOrWait_waits h, W.slot_modSlot_self]
    exact ⟨rfl, rfl⟩
  · obtain ⟨rs, hr⟩ := W.switchOrWait_slot h c i
    rw [hr]
    exact ⟨rfl, rfl⟩

/-- An image that enters its slot without a switch is staged, and the command ends. -/
theorem W.imageReady_staged : w.imageReady c n k i false = (w.modSlot n k fun s => { s with staged := some i }).finish c .ok := rfl

variable (sw : Bool)

/-- An image enters its slot by a switch or staged. -/
theorem W.imageReady_cases : w.imageReady c n k i sw = w.switchOrWait c n k i
    ∨ w.imageReady c n k i sw = (w.modSlot n k fun s => { s with staged := some i }).finish c .ok := by
  unfold W.imageReady
  split
  · exact .inl rfl
  · exact .inr rfl

/-- Under SWITCH it is current where no switch waits and nothing binds an older generation. -/
theorem W.imageReady_switched {w : W} {n k : Nat} {x : DeckSlot} (hx : w.slot n k = x) (hw : x.waiting = none)
    (hfree : w.olderFree n k = true) : (w.imageReady c n k i true).SlotIs n k (x.switched i) := by
  subst hx
  have hready : w.imageReady c n k i true = w.switchOrWait c n k i := by
    simp [W.imageReady, hw, W.olderHeld_of_olderFree hfree]
  exact hready ▸ W.switchOrWait_slot hfree c i

theorem W.imageReady_talks : w.Talks (w.imageReady c n k i sw) := by
  rcases w.imageReady_cases c n k i sw with h | h <;> rw [h]
  · exact W.switchOrWait_talks ..
  · exact (W.Talks.of_cmd (W.modSlot_cmd ..)).trans (W.finish_talks ..)

@[simp] theorem W.imageReady_loads : (w.imageReady c n k i sw).deck.loads = w.deck.loads := by
  rcases w.imageReady_cases c n k i sw with h | h <;> simp [h]

theorem W.imageReady_keeps : ((w.imageReady c n k i sw).slot n k).window = (w.slot n k).window
    ∧ ((w.imageReady c n k i sw).slot n k).load = (w.slot n k).load := by
  rcases w.imageReady_cases c n k i sw with h | h <;> rw [h]
  · exact w.switchOrWait_keeps ..
  · rw [W.slot_of_slots (congrArg DeckSys.slots (W.finish_deck ..)), W.slot_modSlot_self]
    exact ⟨rfl, rfl⟩

end

/-! ### A load that completes (R207, R208) -/

/-- Elements that a change leaves as they are found are found changed. -/
theorem find?_updateWhere {α : Type} {p : α → Bool} {f : α → α} (hf : ∀ x, p (f x) = p x) (l : List α) :
    (updateWhere p f l).find? p = (l.find? p).map f := by
  induction l with
  | nil => rfl
  | cons x l ih =>
    show ((if p x then f x else x) :: updateWhere p f l).find? p = _
    cases hx : p x
    · simpa [hx] using ih
    · simp [hf, hx]

theorem W.image_modImage {f : Image → Image} (hf : ∀ x, (f x).id = x.id) (w : W) (i : Nat) :
    (w.modImage i f).image i = (w.image i).map f := find?_updateWhere (fun x => by simp [hf]) _

/-- The tiles of an image are stored, and nothing else changes. -/
theorem W.storeImage_only (w : W) (im : Image) (ts : List Tile) : ∃ o, (w.each ts.zipIdx fun x w =>
    w.with (im.tileAddr x.2) fun pa w => w.putTile pa (x.1.withGeneration im.gen)) = { w with ops := o } := by
  refine W.each_ind (fun v => ∃ o, v = { w with ops := o }) _ _ w ⟨w.ops, rfl⟩ fun x _ v ⟨o, hv⟩ => ?_
  subst hv
  cases im.tileAddr x.2
  · exact ⟨o, rfl⟩
  · exact ⟨_, rfl⟩

/-- A load that ends without an image leaves none, and none in its slot. -/
theorem W.dropLoad_image (w : W) (l : DeckLoad) (st : Status) :
    (w.dropLoad l st).image l.image = none ∧ ((w.dropLoad l st).slot l.span l.slot).load = none := by
  unfold W.dropLoad
  dsimp only
  generalize hv : W.freeImage _ l.image = v
  have himage : v.image l.image = none := hv ▸ W.freeImage_image ..
  have hslot : (v.slot l.span l.slot).load = none := by
    rw [← hv, W.slot_of_slots (W.freeImage_slots ..), W.slot_modSlot_self]
  have hdeck : (v.settleResizes.finish l.cmd st).deck = v.deck := by simp
  exact ⟨by rw [W.image, hdeck]; exact himage, by rw [W.slot_of_slots (congrArg DeckSys.slots hdeck)]; exact hslot⟩

section
variable {i : Nat} {tiles ts : List Tile} {under : BitVec 512} {l : DeckLoad} {im : Image} {s : State} {P : State → Prop}
  (hl : s.dev.deck.loads.find? (fun l => l.image == i) = some l) (him : s.work.image i = some im) (hlen : tiles.length = im.tiles)
  (hhost : (s.work.sp l.span).stopHost = false ∨ im.source ≠ 0) (hts : ts = decrypted (s.work.keySlot im.key).key under 0 tiles)
include hl him hlen hhost hts

/-- The stream of a load, once whole, gives its slot the image. -/
theorem State.deckLoadComplete_holds (hgood : ∀ x ∈ ts, x.keystoneOk = true) (hdig : l.expect = none ∨ l.expect = some (deckDigest ts))
    (hP : ∀ o, P (s.take ((((({ s.work with ops := o, deck.loads := s.dev.deck.loads.filter fun x => x.image != i } : W).modImage i
      fun i => { i with digest := deckDigest ts, loading := false }).modSlot l.span l.slot fun x => { x with load := none }).emit
        (.hostWrite l.span (l.block + 32) (leBytes 32 (deckDigest ts).toNat))).imageReady l.cmd l.span l.slot i l.switch))) :
    Ends (.deckLoadComplete i ⟨tiles, under⟩) s P := by
  have hall : (ts.any fun t => !t.keystoneOk) = false := by
    rw [List.any_eq_false]
    exact fun x hx => by simp [hgood x hx]
  have hexp : (l.expect.isSome && l.expect != some (deckDigest ts)) = false := by rcases hdig with h | h <;> simp [h]
  have hgo : (tiles.length == im.tiles && !((s.work.sp l.span).stopHost && im.source == 0)) = true := by
    rcases hhost with h | h <;> simp [hlen, h]
  refine ⟨_, rfl, ?_⟩
  beta_reduce
  rw [show s.work.deck.loads.find? _ = _ from hl, W.with_some, him, W.with_some]
  rw [hgo, W.if_true, ← hts]
  dsimp only
  rw [hall, if_neg Bool.false_ne_true, hexp, if_neg Bool.false_ne_true]
  obtain ⟨o, ho⟩ := s.work.storeImage_only im ts
  rw [show W.each s.work ts.zipIdx _ = _ from ho]
  exact hP o

/-- A stream with a failed keystone or another digest ends its load without an image. -/
theorem State.deckLoadComplete_fails (hbad : (∃ x ∈ ts, x.keystoneOk = false) ∨ ∃ d, l.expect = some d ∧ d ≠ deckDigest ts)
    (hP : ∀ w st, P (s.take (W.dropLoad w l st))) : Ends (.deckLoadComplete i ⟨tiles, under⟩) s P := by
  have hgo : (tiles.length == im.tiles && !((s.work.sp l.span).stopHost && im.source == 0)) = true := by
    rcases hhost with h | h <;> simp [hlen, h]
  refine ⟨_, rfl, ?_⟩
  beta_reduce
  rw [show s.work.deck.loads.find? _ = _ from hl, W.with_some, him, W.with_some]
  rw [hgo, W.if_true, ← hts]
  dsimp only
  split
  · exact hP _ _
  · next hall =>
    rcases hbad with ⟨x, hx, hk⟩ | ⟨d, hd, hne⟩
    · exact absurd (List.any_eq_true.2 ⟨x, hx, by simp [hk]⟩) hall
    · rw [if_pos (by simp [hd, hne])]
      exact hP _ _

end

/-! ### The load of an image as a whole -/

/-- Frames that are set to a use have it, and stand so after other frames are set to it. -/
theorem W.frame_setFrames (w : W) (fs : List Nat) (u : FrameUse) : ∀ f ∈ fs, (w.each fs fun f w => w.setFrame f u).frame f = u := by
  have hstay (l : List Nat) (v : W) (f : Nat) (h : v.frame f = u) : (v.each l fun f w => w.setFrame f u).frame f = u := by
    refine W.each_ind (·.frame f = u) _ l v h fun g _ v hv => ?_
    rw [W.frame_setFrame]
    split
    · rfl
    · exact hv
  induction fs generalizing w with
  | nil => exact fun f hf => absurd hf List.not_mem_nil
  | cons g fs ih =>
    intro f hf
    rcases List.mem_cons.1 hf with rfl | hf
    · exact hstay fs _ f (by simp [W.frame_setFrame])
    · exact ih _ f hf

section
variable (w : W) (p : Pkt) (win : Nat) (fs : List Nat) (c : Nat)

theorem W.noteLoad_slots : (w.noteLoad p fs c).deck.slots = w.deck.slots := W.each_same (·.deck.slots) _ fs w fun _ _ => rfl

theorem W.noteLoad_pages : (w.noteLoad p fs c).hbm.pages = w.hbm.pages := W.each_same (·.hbm.pages) _ fs w fun _ _ => rfl

theorem W.enterLoad_slot : (w.enterLoad p win fs c).slot p.fn (rd p.block 0 1)
    = { (w.slot p.fn (rd p.block 0 1)).fixed win (w.windowSize p.fn (rd p.block 0 1) win) with load := some w.deck.nextImage } := by
  rw [W.enterLoad, W.slot_modSlot_self, W.fixWindow_slot, W.slot_of_slots (w.noteLoad_slots p fs c),
    W.windowSize_congr (w.noteLoad_slots p fs c) (w.noteLoad_pages p fs c)]

theorem W.enterLoad_images : w.freshImage p fs ∈ (w.enterLoad p win fs c).deck.images :=
  List.mem_append_right _ (List.mem_singleton_self _)

end

/-- Settles O20: a load that starts only adds its image, its load and their frames; what a complete image enters its slot by leaves the
rest of the slot, and what has gone out. -/
theorem deckLoadStartsAndCompletes : Obligations.DeckLoadStartsAndCompletes := by
  unfold Obligations.DeckLoadStartsAndCompletes
  refine ⟨?starts, ?binds, ?completes, ?fails⟩
  case starts =>
    intro p s fs win hs hf hwin hal hst hl hkey hsize hfit hkept hroom hquota hfs
    refine State.deckLoad_begins hs hf hwin hal hst hl hkey hsize hfit hkept hroom hquota hfs ?_
    rintro v ⟨c, fl, u, rfl⟩
    refine ⟨?_, ⟨_, W.enterLoad_images _ p win fs _, rfl, rfl, rfl, rfl, rfl, rfl, rfl⟩, W.frame_setFrames _ fs .image, ?_⟩
    · exact (W.enterLoad_slot ..).trans (by rw [W.taken_slot, W.taken_windowSize]; rfl)
    · exact List.mem_append_right _ (List.mem_singleton_self _)
  case binds =>
    intro p s im win hs hf hwin hal hst hl hkey him hsize hfit hexp hfind
    refine State.deckLoad_binds hs hf hwin hal hst hl hkey hsize hfit him hexp hfind ?_
    rintro u ⟨l, rfl⟩
    generalize ho : Out.hostWrite p.fn _ _ = o
    generalize hu : ({ W.begin _ _ with deck.images := l } : W) = u
    have htalk : s.work.Talks u := hu ▸ (s.work.taken_talks p).trans ⟨⟨[], rfl⟩, fun _ _ => rfl⟩
    have hslot : (u.emit o).slot p.fn (rd p.block 0 1)
        = (s.work.slot p.fn (rd p.block 0 1)).fixed win (s.work.windowSize p.fn (rd p.block 0 1) win) := by
      rw [← hu]
      exact (W.fixWindow_slot ..).trans (congrArg (DeckSlot.fixed _ win) (W.taken_windowSize ..))
    have hfree : (u.emit o).olderFree p.fn (rd p.block 0 1) = s.work.olderFree p.fn (rd p.block 0 1) :=
      W.olderFree_congr (by rw [hslot]; rfl) (by rw [← hu]; rfl) (by rw [← hu]; rfl)
    rw [State.take_slot]
    refine ⟨?_, .of_talks htalk (W.imageReady_talks ..), fun hsw => ?_, fun hsw hw hnone => ?_⟩
    · rw [(W.imageReady_keeps ..).1, hslot]
      rfl
    · rw [hsw, W.imageReady_staged, W.slot_of_slots (congrArg DeckSys.slots (W.finish_deck ..)), W.slot_modSlot_self]
    · obtain ⟨rs, hr⟩ := W.imageReady_switched s.dev.cmd.nextId im.id hslot hw (hfree.trans hnone)
      rw [hsw, hr]
      rfl
  case completes =>
    intro i tiles ts under l im s hl him hlen hhost hts hgood hdig
    refine State.deckLoadComplete_holds hl him hlen hhost hts hgood hdig fun o => ?_
    generalize ho : Out.hostWrite l.span _ _ = x
    generalize hu : W.modSlot _ l.span l.slot _ = u
    have hcmd : u.cmd = s.dev.cmd := hu ▸ rfl
    have htalk : s.work.Talks u := .of_cmd hcmd
    have hslot : (u.emit x).slot l.span l.slot = { s.work.slot l.span l.slot with load := none } := by
      rw [← hu]
      exact W.slot_modSlot_self ..
    have himage : u.image i = some { im with digest := deckDigest ts, loading := false } := by
      rw [← hu]
      exact (W.image_modImage (f := fun i => { i with digest := deckDigest ts, loading := false }) (fun _ => rfl) _ i).trans
        (congrArg (Option.map _) him)
    have hfree : (u.emit x).olderFree l.span l.slot = s.work.olderFree l.span l.slot :=
      W.olderFree_congr (by rw [hslot]) (by rw [← hu]; rfl) (by rw [← hu]; rfl)
    rw [State.take_slot]
    refine ⟨?_, ?_, .of_talks htalk (W.imageReady_talks ..), fun hsw => ?_, fun hsw hw hnone => ?_⟩
    · rw [(W.imageReady_keeps ..).2, hslot]
    · rw [State.take_dev, W.imageReady_loads, ← hu]
      exact fun k hk => by simpa using (List.mem_filter.1 hk).2
    · rw [hsw, W.imageReady_staged]
      refine ⟨?_, ⟨{ im with digest := deckDigest ts, loading := false }, ?_, rfl, rfl, rfl⟩, ?_⟩
      · rw [W.slot_of_slots (congrArg DeckSys.slots (W.finish_deck ..)), W.slot_modSlot_self]
      · rw [State.take_image, W.image, W.finish_deck]
        exact himage
      · have hcmds : u.cmd.cmds = s.dev.cmd.cmds := congrArg CmdSys.cmds hcmd
        exact W.finish_finished_of_talks ((htalk.trans (u.emit_talks x)).trans (.of_cmd (W.modSlot_cmd ..))) hcmds l.cmd .ok .none 0
    · obtain ⟨rs, hr⟩ := W.imageReady_switched l.cmd i hslot hw (hfree.trans hnone)
      rw [hsw, hr]
      exact ⟨rfl, rfl⟩
  case fails =>
    intro i tiles ts under l im s hl him hlen hhost hts hbad
    refine State.deckLoadComplete_fails hl him hlen hhost hts hbad fun w st => ?_
    obtain rfl : l.image = i := by simpa using List.find?_some hl
    rw [State.take_image, State.take_slot]
    exact w.dropLoad_image l st

end Sys2Proof.Machine
end

section
/-! PROOFS. Adapters: their load, their contract, their reload (R222 to R226). -/

namespace Sys2Proof.Machine

/-! ### What storing tiles leaves (R39, R50, R413) -/

/-- The command interface, the steps and the decks. -/
def W.control (w : W) : CmdSys × StepSys × DeckSys := (w.cmd, w.step, w.deck)

theorem W.cmd_of_control {a b : W} (h : a.control = b.control) : a.cmd = b.cmd := congrArg (·.1) h
theorem W.step_of_control {a b : W} (h : a.control = b.control) : a.step = b.step := congrArg (·.2.1) h
theorem W.deck_of_control {a b : W} (h : a.control = b.control) : a.deck = b.deck := congrArg (·.2.2) h

section
variable (w : W)

@[simp] theorem W.putTile_control (a : Nat) (t : Tile) : (w.putTile a t).control = w.control := rfl
@[simp] theorem W.dropEnts_control (l : Nat) (p : TileEnt → Bool) : (w.dropEnts l p).control = w.control := rfl

theorem W.each_control {α : Type} (l : List α) (f : α → W → W) (hf : ∀ a w, (f a w).control = w.control) :
    (w.each l f).control = w.control := W.each_same W.control f l w hf

theorem W.with_control {α : Type} (o : Option α) (f : α → W → W) (hf : ∀ a w, (f a w).control = w.control) :
    (w.with o f).control = w.control := by
  cases o
  · rfl
  · exact hf _ w

@[simp] theorem W.markDirty_control (n vp : Nat) : (w.markDirty n vp).control = w.control := by
  unfold W.markDirty
  split <;> rfl

@[simp] theorem W.touchSec_control (n va : Nat) : (w.touchSec n va).control = w.control := by
  unfold W.touchSec
  split <;> rfl

@[simp] theorem W.storeTile_control (n va : Nat) (t : Tile) : (w.storeTile n va t).control = w.control := by
  unfold W.storeTile
  split <;> simp

@[simp] theorem W.trace_control (n l k c t q : Nat) (b : List Byte) : (w.trace n l k c t q b).control = w.control := by
  unfold W.trace
  split
  · rfl
  · dsimp only
    split
    · rfl
    · split
      · rfl
      · exact W.with_control _ _ _ fun _ _ => W.storeTile_control ..

@[simp] theorem W.invalidate_control (l va : Nat) : (w.invalidate l va).control = w.control := by
  unfold W.invalidate
  dsimp only
  split
  · exact w.trace_control ..
  · rfl

/-- Factors go to their tiles; commands, steps and decks stand. -/
@[simp] theorem W.placeFactors_control (a : Adapter) (ts : List Tile) : (w.placeFactors a ts).control = w.control := by
  refine w.each_control _ _ fun x v => ?_
  dsimp only
  rw [W.storeTile_control, W.each_control _ _ _ fun _ _ => W.invalidate_control ..]

end

/-! ### One adapter -/

section
variable (w : W) (h : Nat)

theorem W.adapter_modAdapter {f : Adapter → Adapter} (hf : ∀ x, (f x).handle = x.handle) :
    (w.modAdapter h f).adapter h = (w.adapter h).map f := find?_updateWhere (fun x => by simp [hf]) _

theorem W.adapter_of_deck {a b : W} (hd : b.deck = a.deck) (h : Nat) : b.adapter h = a.adapter h := by rw [W.adapter, W.adapter, hd]

theorem W.resident_of_adapter {w : W} {h : Nat} {a : Adapter} (ha : w.adapter h = some a) (hl : a.loading = none) :
    w.resident h = some a := by
  simp [W.resident, ha, hl]

/-- Whether a COLD adapter's factors stay valid is looked at; nothing but its validity changes (R226). -/
theorem W.settleCold_only : ∃ f : Adapter → Adapter, (∀ x, ∃ v, f x = { x with valid := v }) ∧ w.settleCold h = w.modAdapter h f := by
  unfold W.settleCold
  split
  · refine ⟨_, fun x => ?_, rfl⟩
    split
    · exact ⟨false, rfl⟩
    · exact ⟨x.valid, rfl⟩
  · refine ⟨id, fun x => ⟨x.valid, rfl⟩, ?_⟩
    simp [W.modAdapter, updateWhere]

theorem W.settleCold_adapter {w : W} {h : Nat} {a : Adapter} (ha : w.adapter h = some a) :
    ∃ v, (w.settleCold h).adapter h = some { a with valid := v } := by
  obtain ⟨f, hf, he⟩ := w.settleCold_only h
  obtain ⟨v, hv⟩ := hf a
  refine ⟨v, ?_⟩
  rw [he, W.adapter_modAdapter, ha, Option.map_some, hv]
  intro x
  obtain ⟨u, hu⟩ := hf x
  rw [hu]

/-- An adapter whose load is complete (R222). -/
def Adapter.ready (a : Adapter) (dig : BitVec 256) : Adapter := { a with digest := dig, loading := none, valid := a.cls != 2 }

/-- The working copy in which an adapter is resident, its digest and its handle in its record. -/
def W.residing (w : W) (h : Nat) (dig : BitVec 256) (a : Adapter) : W :=
  ((w.modAdapter h fun a => a.ready dig).emit (.hostWrite a.span (a.block + 32) (leBytes 32 dig.toNat))).emit
    (.hostWrite a.span (a.block + 94) (leBytes 2 h))

theorem W.adapterReady_loaded {w : W} {h : Nat} {a : Adapter} {c : Nat} (ha : w.adapter h = some a) (hl : a.loading = some c)
    (dig : BitVec 256) : w.adapterReady h dig = (w.residing h dig a).finish c .ok (.count h) := by
  unfold W.adapterReady
  rw [ha]
  dsimp only
  rw [hl]
  rfl

theorem W.residing_adapter {w : W} {h : Nat} {a : Adapter} (ha : w.adapter h = some a) (dig : BitVec 256) :
    (w.residing h dig a).adapter h = some (a.ready dig) :=
  (w.adapter_modAdapter h (f := fun a => a.ready dig) fun _ => rfl).trans (congrArg (Option.map _) ha)

end

/-! ### ADAPTER_LOAD (R222 to R224) -/

section
variable {a b : W}

/-- Where an address lies rests on the slots, the images and the pages (R34). -/
theorem W.locate_congr (hs : b.deck.slots = a.deck.slots) (hi : b.deck.images = a.deck.images) (hh : b.hbm = a.hbm) (n : Nat)
    (l : List Bind) (va : Nat) : b.locate n l va = a.locate n l va := by
  have hp : b.hbm.pages = a.hbm.pages := congrArg HbmSys.pages hh
  simp only [W.locate, W.page_of_pages hp, W.slotAt_congr hs hp, W.image, hi]

theorem W.stored_congr (hs : b.deck.slots = a.deck.slots) (hi : b.deck.images = a.deck.images) (hh : b.hbm = a.hbm)
    (ho : b.ops = a.ops) (hm : b.mem0 = a.mem0) (n va : Nat) : b.stored n va = a.stored n va := by
  simp only [W.stored, W.locate_congr hs hi hh, W.tileAt, W.mem, ho, hm]

end

section
variable (w : W) (p : Pkt) (n : Nat)

@[simp] theorem W.taken_readSites (a k : Nat) : (w.taken p).readSites n a k = w.readSites n a k := by
  simp only [W.readSites, W.taken_stored]

@[simp] theorem W.taken_writeFault (va : Nat) : (w.taken p).writeFault n va = w.writeFault n va := by
  simp only [W.writeFault, W.taken_locate]

@[simp] theorem W.taken_adapter (h : Nat) : (w.taken p).adapter h = w.adapter h := rfl
@[simp] theorem W.taken_adapterCount (h : Nat) : (w.taken p).adapterCount h = w.adapterCount h := rfl

/-- While the module's table has room, a new adapter has the lowest free handle (log entry 17). -/
theorem W.takeHandle_free {w : W} {h : Nat} (hroom : w.deck.adapters.length < 16384)
    (hfree : (List.range 16384).find? (fun h => !(w.deck.adapters.any fun a => a.handle == h)) = some h) :
    w.takeHandle = (some h, w) := by
  rw [W.takeHandle, if_pos hroom, hfree]

/-- The adapter that an ADAPTER_LOAD enters in the table (R222). -/
def W.freshAdapter (h : Nat) (sites : List Site) (c : Nat) : Adapter :=
  { handle := h, span := p.fn, deckDigest := BitVec.ofNat 256 (rd p.block 0 32), digest := 0#256, fmt := rd p.block 64 1,
    cls := rd p.block 65 1, rank := rd p.block 66 2, trainable := bit (rd p.block 70 1) 0, key := rd p.block 72 2,
    keyed := if rd p.block 74 1 = 0 then 0 else w.keyHandle (rd p.block 72 2), source := rd p.block 74 1, peer := rd p.block 76 2,
    hostAddr := rd p.block 80 8, sites := sites, loading := some c, block := p.arg 56 8, lastBound := c, valid := false, evict := [],
    evicting := false, force := false, boundary := [] }

/-- The working copy with that adapter, its command in progress. -/
def State.enterAdapter (s : State) (h : Nat) (sites : List Site) : W :=
  ({ s.work.taken p with deck.adapters := s.dev.deck.adapters ++ [s.work.freshAdapter p h sites s.dev.cmd.nextId] } : W).begin
    (s.work.cmdOf opAdapterLoad p)

theorem State.enterAdapter_adapter {s : State} {h : Nat} (hfree : s.dev.deck.adapters.any (fun a => a.handle == h) = false)
    (sites : List Site) : (s.enterAdapter p h sites).adapter h = some (s.work.freshAdapter p h sites s.dev.cmd.nextId) := by
  have hnone : s.dev.deck.adapters.find? (fun a => a.handle == h) = none :=
    List.find?_eq_none.2 fun x hx => by simpa using List.any_eq_false.1 hfree x hx
  show (s.dev.deck.adapters ++ [_]).find? _ = _
  rw [List.find?_append, hnone, Option.none_or]
  simp [W.freshAdapter]

end

/-- Sending leaves the commands in progress. -/
@[simp] theorem W.send_cmds (w : W) (n r d k : Nat) (c : Bool) (ty a : Nat) (b : List Byte) (st : Option Nat) :
    (w.send n r d k c ty a b st).cmd.cmds = w.cmd.cmds := by
  have hopen (v : W) : (v.openFlow n r d k c).2.cmd = v.cmd := by
    unfold W.openFlow
    split
    · rfl
    · split <;> rfl
  have hpacket (v : W) (b : List Byte) : (v.sendPacket n r d k c ty a b st).cmd.cmds = v.cmd.cmds := by
    have ho := congrArg CmdSys.cmds (hopen v)
    unfold W.sendPacket
    split
    · next h => exact (h ▸ ho :)
    · next h =>
      dsimp only
      split <;> exact (h ▸ ho :)
  unfold W.send
  split
  · exact W.each_same (·.cmd.cmds) _ _ w fun b v => hpacket v b
  · exact hpacket w b

/-- An ADAPTER_LOAD that none of its refusals meets enters its adapter: resident at once from its own tiles under SOURCE NONE, else with
its load in progress. -/
theorem State.adapterLoad_enters {s : State} {p : Pkt} {sites : List Site} {h k : Nat} {P : State → Prop}
    (hs : s.starts opAdapterLoad p = true) (hf : adapterFieldsOk p.block = true)
    (hkey : rd p.block 74 1 = 0 ∨ s.work.keyUsable p.fn (rd p.block 72 2) = true)
    (hread : s.work.readSites p.fn (rd p.block 88 6) (rd p.block 68 2) = .ok sites) (hne : sites ≠ []) (hrise : sitesRise sites = true)
    (hsites : ∀ x ∈ sites, isTileAddr x.wAddr = true ∧ isTileAddr x.addrA = true ∧ isTileAddr x.addrB = true
      ∧ (s.work.slotAt p.fn (x.wAddr / pageBytes)).map (·.1) = some k)
    (hwrite : ∀ x ∈ sites, ∀ va ∈ x.factors (rd p.block 64 1) (rd p.block 66 2), s.work.writeFault p.fn va = none)
    (hroom : s.dev.deck.adapters.length < 16384)
    (hfree : (List.range 16384).find? (fun h => !(s.dev.deck.adapters.any fun a => a.handle == h)) = some h)
    (hP : ∀ v, (rd p.block 74 1 = 0 → (∀ x ∈ sites, ∀ va ∈ x.factors (rd p.block 64 1) (rd p.block 66 2),
          ∀ y, s.work.stored p.fn va = some y → y.keystoneOk = true ∧ y.poison = false) →
        v = (s.enterAdapter p h sites).adapterReady h (deckDigest ((sites.flatMap fun x => x.factors (rd p.block 64 1) (rd p.block 66 2)).filterMap
          fun va => s.work.stored p.fn va))) →
      (rd p.block 74 1 ≠ 0 → (s.enterAdapter p h sites).OnlySends v ∧ v.cmd.cmds = (s.enterAdapter p h sites).cmd.cmds) → P (s.take v)) :
    Ends (.adapterLoad p) s P := by
  have hslots : (sites.map fun x => (s.work.slotAt p.fn (x.wAddr / pageBytes)).map (·.1)) = sites.map fun _ => some k :=
    List.map_congr_left fun x hx => (hsites x hx).2.2.2
  have haddr : (sites.any fun x => !isTileAddr x.wAddr || !isTileAddr x.addrA || !isTileAddr x.addrB) = false :=
    List.any_eq_false.2 fun x hx => by
      obtain ⟨h1, h2, h3, -⟩ := hsites x hx
      simp [h1, h2, h3]
  have hvas : ((sites.flatMap fun x => x.factors (rd p.block 64 1) (rd p.block 66 2)).any fun va => s.work.writeFault p.fn va != none) = false :=
    List.any_eq_false.2 fun va hva => by
      obtain ⟨x, hx, hva⟩ := List.mem_flatMap.1 hva
      simp [hwrite x hx va hva]
  have hsrc : (rd p.block 74 1 != 0 && !s.work.keyUsable p.fn (rd p.block 72 2)) = false := by
    rcases hkey with hk | hk <;> simp [hk]
  refine ⟨_, State.act_starts hs _, ?_⟩
  simp only [W.cmdOf_fn, hf, W.taken_keyUsable, hsrc, W.taken_readSites, hread, W.taken_slotAt, hslots, haddr, hrise, W.taken_writeFault, hvas,
    W.takeHandle_free (w := s.work.taken p) hroom hfree, Bool.not_true, Bool.or_false, Bool.false_or, Bool.false_eq_true, ↓reduceIte]
  obtain ⟨x, xs, rfl⟩ := List.exists_cons_of_ne_nil hne
  have hstored (va : Nat) : (s.enterAdapter p h (x :: xs)).stored p.fn va = s.work.stored p.fn va :=
    (W.stored_congr (a := s.work.taken p) rfl rfl rfl rfl rfl ..).trans (W.taken_stored ..)
  rw [if_neg (by simp), if_neg (by simp)]
  split
  · next h0 =>
    refine hP _ (fun _ hgood => ?_) fun hn => absurd h0 hn
    have hall (q : Tile → Bool) (hq : ∀ y, y.keystoneOk = true ∧ y.poison = false → q y = false) :
        ((((x :: xs).flatMap fun x => x.factors (rd p.block 64 1) (rd p.block 66 2)).filterMap fun va =>
          (s.enterAdapter p h (x :: xs)).stored p.fn va).any q) = false := by
      refine List.any_eq_false.2 fun y hy => ?_
      obtain ⟨va, hva, hy⟩ := List.mem_filterMap.1 hy
      obtain ⟨z, hz, hva⟩ := List.mem_flatMap.1 hva
      simp [hq y (hgood z hz va hva y ((hstored va).symm.trans hy))]
    rw [if_neg, if_neg]
    · simp only [← hstored, State.enterAdapter, W.freshAdapter, h0, ↓reduceIte]
      rfl
    · exact Bool.eq_false_iff.1 (hall Tile.poison fun y hy => hy.2)
    · exact Bool.eq_false_iff.1 (hall (fun t => !t.keystoneOk) fun y hy => by simp [hy.1])
  · next h0 =>
    refine hP _ (fun hn => absurd hn h0) fun _ => ?_
    simp only [State.enterAdapter, W.freshAdapter, h0, ↓reduceIte]
    split
    · exact ⟨W.send_only .., W.send_cmds ..⟩
    · exact ⟨.refl _, rfl⟩

end Sys2Proof.Machine
end

section
/-! PROOFS. Adapters: their load, their contract and their reload as a whole (R222 to R226). -/

namespace Sys2Proof.Machine

/-! ### The stream of an adapter (R206, R222, R226) -/

section
variable {h : Nat} {tiles ts : List Tile} {under : BitVec 512} {a : Adapter} {s : State} {P : State → Prop}
  (ha : s.work.adapter h = some a) (hlen : tiles.length = a.factors.length)
  (hhost : (s.work.sp a.span).stopHost = false ∨ a.source ≠ 1) (hts : ts = decrypted (s.work.keySlot a.key).key under 0 tiles)
  (hgood : ∀ x ∈ ts, x.keystoneOk = true)
include ha hlen hhost hts hgood

theorem State.adapterLoadComplete_ready {id : Nat} (hl : a.loading = some id) (hsrc : a.source ≠ 0)
    (hP : P (s.take ((s.work.placeFactors a ts).adapterReady h (deckDigest ts)))) : Ends (.adapterLoadComplete h ⟨tiles, under⟩) s P := by
  have hall : (ts.any fun t => !t.keystoneOk) = false := List.any_eq_false.2 fun x hx => by simp [hgood x hx]
  have hgo : (a.loading.isSome && a.source != 0 && tiles.length == a.factors.length
      && !((s.work.sp a.span).stopHost && a.source == 1)) = true := by
    rcases hhost with h | h <;> simp [hl, hsrc, hlen, h]
  refine ⟨_, rfl, ?_⟩
  beta_reduce
  rw [ha, W.with_some, hgo, W.if_true, ← hts]
  dsimp only
  rwa [hall, if_neg Bool.false_ne_true]

/-- The adapter is valid again, and every step that waited for it has it (R226). -/
theorem State.adapterReloadDone_valid (hl : a.loading = none) (hwait : ∃ x ∈ s.dev.step.steps, x.phase ≠ .ended ∧ h ∈ x.reloads)
    (hkey : s.work.keyUsable a.span a.key = true) (hkeyed : s.work.keyHandle a.key = a.keyed) (hdig : deckDigest ts = a.digest)
    (hP : P (s.take (((s.work.placeFactors a ts).modAdapter h fun a => { a with valid := true }).each
      (s.dev.step.steps.filter fun x => x.phase != .ended && x.reloads.contains h) fun x w =>
        w.modStep x.id fun x => { x with reloads := x.reloads.filter fun k => k != h, reloaded := insertNat h x.reloaded }))) :
    Ends (.adapterReloadDone h ⟨tiles, under⟩) s P := by
  have hall : (ts.any fun t => !t.keystoneOk) = false := List.any_eq_false.2 fun x hx => by simp [hgood x hx]
  have hne : (s.work.step.steps.filter fun x => x.phase != .ended && x.reloads.contains h).isEmpty = false := by
    obtain ⟨x, hx, hp, hr⟩ := hwait
    refine List.isEmpty_eq_false_iff_exists_mem.2 ⟨x, List.mem_filter.2 ⟨hx, ?_⟩⟩
    simp [hp, hr]
  have hgo : (!(s.work.step.steps.filter fun x => x.phase != .ended && x.reloads.contains h).isEmpty && tiles.length == a.factors.length
      && !((s.work.sp a.span).stopHost && a.source == 1)) = true := by
    rw [hne]
    rcases hhost with h | h <;> simp [hlen, h]
  refine ⟨_, rfl, ?_⟩
  beta_reduce
  rw [W.resident_of_adapter ha hl, W.with_some]
  dsimp only
  rw [hgo, W.if_true, ← hts]
  rwa [hall, if_neg (by simp [hkey, hkeyed]), if_neg Bool.false_ne_true, if_neg (not_not_intro hdig)]

end

/-- Once an adapter has been noted at every step that waits for it, no step waits for it. -/
theorem W.each_reloaded (h : Nat) (l : List Step) (w : W)
    (hl : ∀ x ∈ w.step.steps, x.phase ≠ .ended → h ∈ x.reloads → ∃ y ∈ l, y.id = x.id) :
    ∀ x ∈ (w.each l fun x w => w.modStep x.id fun x =>
      { x with reloads := x.reloads.filter fun k => k != h, reloaded := insertNat h x.reloaded }).step.steps,
      x.phase ≠ .ended → h ∉ x.reloads := by
  induction l generalizing w with
  | nil =>
    intro x hx hp hr
    obtain ⟨y, hy, -⟩ := hl x hx hp hr
    exact absurd hy List.not_mem_nil
  | cons y l ih =>
    refine ih _ fun x hx hp hr => ?_
    obtain ⟨z, hz, hzx⟩ := List.mem_map.1 hx
    by_cases hid : (z.id == y.id) = true
    · rw [if_pos hid] at hzx
      simp [← hzx] at hr
    · rw [if_neg hid] at hzx
      subst hzx
      obtain ⟨v, hv, hvz⟩ := hl z hz hp hr
      rcases List.mem_cons.1 hv with rfl | hv
      · exact absurd hvz.symm (by simpa using hid)
      · exact ⟨v, hv, hvz⟩

theorem W.finish_adapter (w : W) (i : Nat) (st : Status) (d : Detail) (r0 r1 h : Nat) :
    (w.finish i st d r0 r1).adapter h = w.adapter h := W.adapter_of_deck (W.finish_deck ..) h

theorem W.answer_adapter (w : W) (c : Cmd) (st : Status) (d : Detail) (r0 r1 h : Nat) :
    (w.answer c st d r0 r1).adapter h = w.adapter h := W.adapter_of_deck (W.answer_deck ..) h

/-- Looking at a COLD adapter leaves what is not of the decks. -/
theorem W.settleCold_cmd (w : W) (h : Nat) : (w.settleCold h).cmd = w.cmd := by
  obtain ⟨f, -, he⟩ := w.settleCold_only h
  rw [he]
  rfl

theorem W.settleCold_regs (w : W) (h : Nat) : (w.settleCold h).regs = w.regs := by
  obtain ⟨f, -, he⟩ := w.settleCold_only h
  rw [he]
  rfl

/-- An adapter under another class, and under another deck digest where one is given (R225). -/
def Adapter.contracted (a : Adapter) (cls : Nat) (dig : BitVec 256) : Adapter :=
  { a with cls := cls, deckDigest := if dig = 0#256 then a.deckDigest else dig }

/-- A resident adapter takes its new class, and its new deck digest where one is given (R225). -/
theorem State.adapterContract_sets {p : Pkt} {s : State} {a : Adapter} {P : State → Prop} (hs : s.starts opAdapterContract p = true)
    (ha : s.work.adapter (p.arg 12 2) = some a) (hl : a.loading = none) (hown : p.fn = 0 ∨ p.fn = a.span) (hcls : p.arg 14 1 ≤ 2)
    (hcold : ¬ (p.arg 14 1 = 2 ∧ a.source = 0))
    (hdig : BitVec.ofNat 256 (p.arg 16 32) = 0#256 ∨ s.work.adapterCount (p.arg 12 2) = 0)
    (hP : P (s.take ((((s.work.taken p).modAdapter (p.arg 12 2) fun a =>
      a.contracted (p.arg 14 1) (BitVec.ofNat 256 (p.arg 16 32))).settleCold (p.arg 12 2)).answer (s.work.cmdOf opAdapterContract p) .ok))) :
    Ends (.adapterContract p) s P := by
  have hres : (s.work.taken p).resident (p.arg 12 2) = some a := W.resident_of_adapter ha hl
  refine ⟨_, State.act_starts hs _, ?_⟩
  dsimp only
  rw [hres]
  dsimp only
  rw [if_neg (by rcases hown with h | h <;> simp [Adapter.ownedBy, h]), if_neg (by simpa [hcls] using hcold), if_neg (by
    rcases hdig with h | h <;> simp [h])]
  exact hP

/-- Settles O23, part by part: a load enters its adapter, whose stream makes it resident; a contract is an update of one adapter,
and a reload an update of one adapter and of the steps that wait for it. -/
theorem adapterLoadAndContract : Obligations.AdapterLoadAndContract := by
  refine ⟨?_, ?_, ?_, ?_⟩
  · intro p s sites h k hs hf hkey hread hne hrise hsites hwrite hroom hfree
    have hent : (s.enterAdapter p h sites).adapter h = some (s.work.freshAdapter p h sites s.dev.cmd.nextId) :=
      State.enterAdapter_adapter p (by simpa using List.find?_some hfree) sites
    refine State.adapterLoad_enters hs hf hkey hread hne hrise hsites hwrite hroom hfree fun v hnone hsome => ⟨fun h0 hgood => ?_, fun h0 => ?_⟩
    · rw [hnone h0 hgood, W.adapterReady_loaded hent rfl, State.take_adapter, W.finish_adapter, W.residing_adapter hent]
      exact ⟨_, rfl, rfl, rfl, rfl, rfl, rfl, rfl⟩
    · obtain ⟨hsend, hcmds⟩ := hsome h0
      rw [State.take_adapter, State.take_dev, hcmds]
      obtain ⟨_, _, _, rfl⟩ := hsend
      exact ⟨⟨_, hent, rfl, rfl, rfl, rfl⟩, List.mem_append_right _ List.mem_cons_self⟩
  · intro h id tiles ts under a s ha hl hsrc hlen hhost hts hgood
    have hcontrol := s.work.placeFactors_control a ts
    have hpl : (s.work.placeFactors a ts).adapter h = some a := (W.adapter_of_deck (W.deck_of_control hcontrol) h).trans ha
    have hcmd := W.cmd_of_control hcontrol
    refine State.adapterLoadComplete_ready ha hlen hhost hts hgood hl hsrc ?_
    rw [W.adapterReady_loaded hpl hl, State.take_adapter, W.finish_adapter, W.residing_adapter hpl]
    have hset : s.work.Talks ((s.work.placeFactors a ts).modAdapter h fun a => a.ready (deckDigest ts)) := .of_cmd hcmd
    refine ⟨rfl, .of_talks hset ?_, .of_talks (hset.trans (W.emit_talks ..)) (W.finish_talks ..), ?_⟩
    · exact (W.emit_talks ..).trans (W.finish_talks ..)
    · refine W.finish_finished_of_talks ((hset.trans (W.emit_talks ..)).trans (W.emit_talks ..)) ?_ id .ok (.count h) 0
      exact (congrArg CmdSys.cmds hcmd :)
  · intro p s a hs ha hl hown hcls hcold hdig
    refine State.adapterContract_sets hs ha hl hown hcls hcold hdig ?_
    generalize hm : (s.work.taken p).modAdapter _ _ = m
    refine ⟨State.answered_of_starts hs ?_ ?_ .ok .none 0 0, ?_⟩
    · rw [W.settleCold_cmd, ← hm]
      rfl
    · rw [W.settleCold_regs, ← hm]
      rfl
    · have hset : m.adapter (p.arg 12 2) = some (a.contracted (p.arg 14 1) (BitVec.ofNat 256 (p.arg 16 32))) := by
        rw [← hm, W.adapter_modAdapter, W.taken_adapter, ha, Option.map_some]
        exact fun _ => rfl
      obtain ⟨v, hv⟩ := W.settleCold_adapter hset
      rw [State.take_adapter, W.answer_adapter, hv]
      exact ⟨_, rfl, rfl, rfl, rfl, rfl⟩
  · intro h tiles ts under a s ha hl hwait hlen hhost hkey hkeyed hts hgood hdig
    have hcontrol := s.work.placeFactors_control a ts
    have hpl : (s.work.placeFactors a ts).adapter h = some a := (W.adapter_of_deck (W.deck_of_control hcontrol) h).trans ha
    refine State.adapterReloadDone_valid ha hlen hhost hts hgood hl hwait hkey hkeyed hdig ?_
    rw [State.take_adapter, State.take_dev]
    refine ⟨?_, W.each_reloaded h _ _ fun x hx hp hr => ⟨x, List.mem_filter.2 ⟨?_, by simp [hp, hr]⟩, rfl⟩⟩
    · refine (W.adapter_of_deck (W.each_same (fun w => w.deck) _ _ _ ?_) h).trans ?_
      · exact fun _ _ => rfl
      exact (W.adapter_modAdapter _ h (f := fun a => { a with valid := true }) fun _ => rfl).trans (congrArg (Option.map _) hpl)
    · exact congrArg StepSys.steps (W.step_of_control hcontrol) ▸ hx

end Sys2Proof.Machine
end

section
/-! PROOFS. Eviction of adapters and grace of requests (R226 to R228). -/

namespace Sys2Proof.Machine

/-! ### An adapter leaves (R227, R228) -/

/-- The working copy in which an adapter is no more in the resident table, and no step waits for its factors. -/
def W.withoutAdapter (w : W) (h : Nat) (reqs : List OpenReq) : W :=
  ({ w with deck.adapters := w.deck.adapters.filter fun x => x.handle != h, deck.requests := reqs } : W).dropReloads h

theorem W.withoutAdapter_adapter (w : W) (h : Nat) (reqs : List OpenReq) : (w.withoutAdapter h reqs).adapter h = none :=
  List.find?_eq_none.2 fun x hx => by
    have hx : x ∈ w.deck.adapters.filter fun x => x.handle != h := hx
    simpa using (List.mem_filter.1 hx).2

/-- Requests that close with their adapter are told of (R228). -/
def W.graceEnds (w : W) (ended : List OpenReq) : W :=
  w.each ended fun r w => w.event .graceEnd r.span false unitAbut (some (leBytes 4 r.reqId)) (.request r.reqId)

theorem W.graceEnds_deck (w : W) (ended : List OpenReq) : (w.graceEnds ended).deck = w.deck :=
  W.each_same (fun w => w.deck) _ ended w fun _ _ => W.event_deck ..

theorem W.graceEnds_talks (w : W) (ended : List OpenReq) : w.Talks (w.graceEnds ended) := w.each_talks _ _ fun _ _ => W.event_talks ..

theorem W.removeAdapter_of_some {w : W} {h : Nat} {a : Adapter} (ha : w.adapter h = some a) : ∃ reqs ended,
    w.removeAdapter h = (((w.withoutAdapter h reqs).graceEnds ended).count a.span 0x1F0 1).finishAll a.evict .ok := by
  unfold W.removeAdapter
  rw [ha]
  exact ⟨_, _, rfl⟩

theorem W.removeAdapter_of_none {w : W} {h : Nat} (ha : w.adapter h = none) : w.removeAdapter h = w := by
  unfold W.removeAdapter
  rw [ha]

theorem W.removeAdapter_adapter (w : W) (h : Nat) : (w.removeAdapter h).adapter h = none := by
  cases ha : w.adapter h with
  | none => rw [W.removeAdapter_of_none ha, ha]
  | some a =>
    obtain ⟨reqs, ended, he⟩ := W.removeAdapter_of_some ha
    rw [he, W.adapter_of_deck (W.finishAll_deck ..)]
    exact (W.adapter_of_deck (W.graceEnds_deck ..) h).trans (w.withoutAdapter_adapter h reqs)

theorem W.removeAdapter_talks (w : W) (h : Nat) : w.Talks (w.removeAdapter h) := by
  cases ha : w.adapter h with
  | none =>
    rw [W.removeAdapter_of_none ha]
    exact .refl w
  | some a =>
    obtain ⟨reqs, ended, he⟩ := W.removeAdapter_of_some ha
    have hout : w.Talks (w.withoutAdapter h reqs) := .of_cmd rfl
    have hcount (v : W) : v.Talks (v.count a.span 0x1F0 1) := .of_cmd rfl
    rw [he]
    exact ((hout.trans (W.graceEnds_talks ..)).trans (hcount _)).trans (W.finishAll_talks ..)

/-! ### ADAPTER_EVICT (R227) -/

/-- The admitted steps of a span, at whose end an eviction has its step boundary. -/
def W.admittedOf (w : W) (n : Nat) : List Nat := (w.step.steps.filter fun x => x.span == n && x.admitted).map (·.id)

/-- An adapter that is being evicted by one more command. -/
def Adapter.evictBy (a : Adapter) (c : Nat) (force : Bool) (before : List Nat) : Adapter :=
  { a with
    evict := a.evict ++ [c], evicting := true, force := a.force || force,
    boundary := if !a.evicting || (force && !a.force) then before else a.boundary }

/-- A change of adapters leaves what binds them. -/
@[simp] theorem W.modAdapter_adapterCount (w : W) (h k : Nat) (f : Adapter → Adapter) :
    (w.modAdapter h f).adapterCount k = w.adapterCount k := rfl

section
variable {p : Pkt} {s : State} {a : Adapter} {P : State → Prop} (hs : s.starts opAdapterEvict p = true)
  (ha : s.work.adapter (p.arg 12 2) = some a) (hl : a.loading = none) (hown : p.fn = 0 ∨ p.fn = a.span)
include hs ha hl hown

theorem State.adapterEvict_pinned (hcls : a.cls = 0)
    (hP : P (s.take ((s.work.taken p).answer (s.work.cmdOf opAdapterEvict p) .refusedContract))) : Ends (.adapterEvict p) s P := by
  have hres : (s.work.taken p).resident (p.arg 12 2) = some a := W.resident_of_adapter ha hl
  refine ⟨_, State.act_starts hs _, ?_⟩
  dsimp only
  rw [hres]
  dsimp only
  rwa [if_neg (by rcases hown with h | h <;> simp [Adapter.ownedBy, h]), if_pos hcls]

theorem State.adapterEvict_now (hcls : a.cls ≠ 0) (hfree : s.work.adapterCount (p.arg 12 2) = 0) (hev : a.evicting = false)
    (hnone : s.work.admittedOf a.span = [])
    (hP : P (s.take (((s.work.taken p).removeAdapter (p.arg 12 2)).answer (s.work.cmdOf opAdapterEvict p) .ok))) :
    Ends (.adapterEvict p) s P := by
  have hres : (s.work.taken p).resident (p.arg 12 2) = some a := W.resident_of_adapter ha hl
  have hb : (((s.work.taken p).step.steps.filter fun x => x.span == a.span && x.admitted).map (·.id)).isEmpty = true :=
    List.isEmpty_iff.2 hnone
  refine ⟨_, State.act_starts hs _, ?_⟩
  dsimp only
  rw [hres]
  dsimp only
  rwa [if_neg (by rcases hown with h | h <;> simp [Adapter.ownedBy, h]), if_neg hcls, hb, W.taken_adapterCount, if_pos (by simp [hfree, hev])]

/-- With a step admitted, the eviction waits; the command holds its ring when it is by force or nothing bound the adapter. -/
theorem State.adapterEvict_waits (hcls : a.cls ≠ 0) (hsome : s.work.admittedOf a.span ≠ [])
    (hP : ∀ v m, m = (s.work.taken p).modAdapter (p.arg 12 2) (·.evictBy s.dev.cmd.nextId p.force (s.work.admittedOf a.span)) →
      (v = m.begin { s.work.cmdOf opAdapterEvict p with holds := p.force || (s.work.adapterCount (p.arg 12 2) == 0 && !a.evicting) } ∨
        v = (m.begin { s.work.cmdOf opAdapterEvict p with
          holds := p.force || (s.work.adapterCount (p.arg 12 2) == 0 && !a.evicting) }).accepted (s.work.cmdOf opAdapterEvict p)) →
      P (s.take v)) : Ends (.adapterEvict p) s P := by
  have hres : (s.work.taken p).resident (p.arg 12 2) = some a := W.resident_of_adapter ha hl
  have hb : (((s.work.taken p).step.steps.filter fun x => x.span == a.span && x.admitted).map (·.id)).isEmpty = false :=
    Bool.eq_false_iff.2 fun h => hsome (List.isEmpty_iff.1 h)
  refine ⟨_, State.act_starts hs _, ?_⟩
  dsimp only
  rw [hres]
  dsimp only
  rw [if_neg (by rcases hown with h | h <;> simp [Adapter.ownedBy, h]), if_neg hcls, hb, W.taken_adapterCount, if_neg (by simp)]
  refine hP _ _ rfl ?_
  cases hh : p.force || (s.work.adapterCount (p.arg 12 2) == 0 && !a.evicting)
  · refine .inr (if_neg ?_)
    simpa using hh
  · refine .inl (if_pos ?_)
    simpa using hh

end

/-! ### Grace (R228) -/

/-- A closed request is gone. -/
theorem W.closeRequest_request (w : W) (n id : Nat) : (w.closeRequest n id).request n id = none := by
  have hreqs : (w.closeRequest n id).deck.requests = w.deck.requests.filter fun r => !(r.span == n && r.reqId == id) :=
    W.each_same (·.deck.requests) _ _ _ fun h v => by
      obtain ⟨f, -, he⟩ := v.settleCold_only h
      rw [he]
      rfl
  rw [W.request, hreqs]
  refine List.find?_eq_none.2 fun x hx => ?_
  simpa only [Bool.not_eq_true', Bool.not_eq_true] using (List.mem_filter.1 hx).2

theorem W.request_of_deck {a b : W} (hd : b.deck = a.deck) (n id : Nat) : b.request n id = a.request n id := by
  rw [W.request, W.request, hd]

/-- Settles O24, part by part: an eviction removes the adapter, marks it, or is refused; a removal and an expiry take their entry
out of its table. -/
theorem adaptersLeaveAndGraceExpires : Obligations.AdaptersLeaveAndGraceExpires := by
  refine ⟨?_, ?_, ?_, ?_, ?_⟩
  · intro p s a hs ha hl hown hcls hfree hev hnone
    have hadm : s.work.admittedOf a.span = [] := by
      refine List.map_eq_nil_iff.2 (List.filter_eq_nil_iff.2 fun x hx => ?_)
      by_cases hsp : x.span = a.span
      · simp [hnone x hx hsp]
      · simp [hsp]
    refine State.adapterEvict_now hs ha hl hown hcls hfree hev hadm ⟨?_, ?_⟩
    · rw [State.take_adapter, W.answer_adapter, W.removeAdapter_adapter]
    · exact State.answeredOk_of_talks hs ((W.taken_talks ..).trans (W.removeAdapter_talks ..))
  · rintro p s a hs ha hl hown hcls ⟨x, hx, hsp, hadm⟩
    have hsome : s.work.admittedOf a.span ≠ [] :=
      List.ne_nil_of_mem (List.mem_map.2 ⟨x, List.mem_filter.2 ⟨hx, by simp [hsp, hadm]⟩, rfl⟩)
    refine State.adapterEvict_waits hs ha hl hown hcls hsome fun v m hm hv => ?_
    have hset : m.adapter (p.arg 12 2) = some (a.evictBy s.dev.cmd.nextId p.force (s.work.admittedOf a.span)) := by
      rw [hm, W.adapter_modAdapter, W.taken_adapter, ha, Option.map_some]
      exact fun _ => rfl
    have hev : (a.evictBy s.dev.cmd.nextId p.force (s.work.admittedOf a.span)).evicting = true
        ∧ s.dev.cmd.nextId ∈ (a.evictBy s.dev.cmd.nextId p.force (s.work.admittedOf a.span)).evict :=
      ⟨rfl, List.mem_append_right _ List.mem_cons_self⟩
    rw [State.take_adapter, State.take_dev]
    rcases hv with rfl | rfl
    · exact ⟨⟨_, hset, hev⟩, List.mem_append_right _ List.mem_cons_self⟩
    · rw [W.adapter_of_deck (W.accepted_deck ..), W.accepted_cmds]
      exact ⟨⟨_, hset, hev⟩, List.mem_append_right _ List.mem_cons_self⟩
  · intro p s a hs ha hl hown hcls
    refine State.adapterEvict_pinned hs ha hl hown hcls ⟨?_, State.answered_of_starts hs rfl rfl .refusedContract .none 0 0⟩
    rw [State.take_dev, W.answer_deck, W.taken_deck, State.work_toDev]
  · intro h a s ha hl hev hpast hfree
    have hboundary : (s.work.step.steps.any fun x => a.boundary.contains x.id && x.admitted) = false :=
      List.any_eq_false.2 fun x hx => by
        by_cases hm : x.id ∈ a.boundary
        · simp [hpast x hx hm]
        · simp [hm]
    have hgo : (a.evicting && !(s.work.step.steps.any fun x => a.boundary.contains x.id && x.admitted)
        && (s.work.adapterCount h == 0 || a.force)) = true := by
      rw [hboundary, hev]
      rcases hfree with h | h <;> simp [h]
    refine ⟨_, rfl, ?_⟩
    beta_reduce
    rw [W.resident_of_adapter ha hl, W.with_some]
    dsimp only
    rw [hgo, W.if_true, State.take_adapter, W.removeAdapter_adapter]
  · intro n id r s hr hg
    refine ⟨_, rfl, ?_⟩
    beta_reduce
    rw [hr, W.with_some, hg, W.if_true]
    exact (W.request_of_deck (W.event_deck ..) n id).trans (s.work.closeRequest_request n id)

end Sys2Proof.Machine
end

section
/-! PROOFS. What the end of a step leaves of the decks: their images (R205, R246). -/

namespace Sys2Proof.Machine

/-- The images of the decks. -/
def W.images (w : W) : List Image := w.deck.images

theorem W.images_of_deck {a b : W} (h : b.deck = a.deck) : b.images = a.images := congrArg DeckSys.images h
theorem W.images_of_control {a b : W} (h : b.control = a.control) : b.images = a.images := W.images_of_deck (W.deck_of_control h)

section
variable (w : W)

theorem W.each_images {α : Type} (l : List α) (f : α → W → W) (hf : ∀ a w, (f a w).images = w.images) :
    (w.each l f).images = w.images := W.each_same W.images f l w hf

theorem W.with_images {α : Type} (o : Option α) (f : α → W → W) (hf : ∀ a w, (f a w).images = w.images) :
    (w.with o f).images = w.images := by
  cases o
  · rfl
  · exact hf _ w

/-- A change made under a condition. -/
theorem W.ite_images (c : Prop) [Decidable c] {a b : W} (h : a.images = b.images) : (if c then a else b).images = b.images := by
  split
  · exact h
  · rfl

/-! ### Written tiles and tickets of a failed step (R51, R188) -/

@[simp] theorem W.count_images (n o k : Nat) : (w.count n o k).images = w.images := rfl
@[simp] theorem W.countAbort_images (i : Nat) : (w.countAbort i).images = w.images := rfl

theorem W.halfWritten_images (f : InFlight) : (w.halfWritten f).2.images = w.images := by
  unfold W.halfWritten
  split
  · exact W.each_images _ _ _ fun _ _ => rfl
  · rfl

theorem W.halfWrittenAll_images (l : List InFlight) : (W.halfWrittenAll l w).2.images = w.images := by
  induction l generalizing w with
  | nil => rfl
  | cons f l ih => exact (ih _).trans (w.halfWritten_images f)

@[simp] theorem W.poisonHome_images (n va : Nat) : (w.poisonHome n va).images = w.images := by
  unfold W.poisonHome
  split
  · exact W.images_of_control (by rw [W.touchSec_control, W.markDirty_control, W.putTile_control])
  · rfl

@[simp] theorem W.poisonWritten_images (n va : Nat) : (w.poisonWritten n va).images = w.images := by
  refine (W.each_images _ _ _ ?_).trans (w.poisonHome_images n va)
  exact fun _ _ => rfl

@[simp] theorem W.sendCtl_images (n r ty a : Nat) (b : List Byte) : (w.sendCtl n r ty a b).images = w.images := by
  obtain ⟨_, _, _, he⟩ := w.send_only n r n 0 true ty a b none
  rw [W.sendCtl, he]
  rfl

@[simp] theorem W.voidEpoch_images (n i e r : Nat) (o : Bool) : (w.voidEpoch n i e r o).images = w.images := by
  unfold W.voidEpoch
  split
  · rfl
  · split
    · rfl
    · dsimp only
      split
      · rfl
      · rw [W.each_images _ _ _ fun _ _ => W.sendCtl_images ..]
        rfl

@[simp] theorem W.voidTickets_images (n : Nat) (l : List Ticket) : (w.voidTickets n l).images = w.images :=
  w.each_images _ _ fun _ _ => W.voidEpoch_images ..

@[simp] theorem W.squash_images (i : Nat) : (w.squash i).images = w.images := by
  unfold W.squash
  split
  · rfl
  · split <;> rfl

/-! ### The end of a step (R246, R264) -/

@[simp] theorem W.patchTile_images (n va o : Nat) (b : List Byte) : (w.patchTile n va o b).images = w.images := by
  unfold W.patchTile
  split
  · rfl
  · refine w.with_images _ _ fun t v => W.images_of_control ?_
    rw [W.storeTile_control, W.each_control _ _ _ fun _ _ => W.invalidate_control ..]

@[simp] theorem W.writeRequests_images (x : Step) (st : Status) : (w.writeRequests x st).images = w.images := by
  have hones (v : W) (l : List Nat) (c : Nat → W → Bool) (n : Nat) (va o : Nat → Nat) (b : Nat → List Byte) :
      (v.each l fun i v => if c i v then v.patchTile n (va i) (o i) (b i) else v).images = v.images :=
    v.each_images _ _ fun _ _ => W.ite_images _ (W.patchTile_images ..)
  have hpatch {α : Type} (v : W) (l : List α) (n : Nat) (va o : α → Nat) (b : α → List Byte) :
      (v.each l fun a v => v.patchTile n (va a) (o a) (b a)).images = v.images := v.each_images _ _ fun _ _ => W.patchTile_images ..
  unfold W.writeRequests
  dsimp only
  split
  · rw [hones, hpatch]
  · rw [hpatch, hones, hpatch]

@[simp] theorem W.settleCold_images (h : Nat) : (w.settleCold h).images = w.images := by
  obtain ⟨f, -, he⟩ := w.settleCold_only h
  rw [he]
  rfl

@[simp] theorem W.closeRequest_images (n i : Nat) : (w.closeRequest n i).images = w.images :=
  W.each_images _ _ _ fun _ _ => W.settleCold_images ..

theorem W.flushEnded_images (k n r : Nat) : (w.flushEnded k n r).images = w.images := by
  induction k generalizing w with
  | zero => rfl
  | succ k ih =>
    unfold W.flushEnded
    split
    · split
      · dsimp only
        rw [ih, W.images_of_deck (W.finish_deck ..)]
        exact W.each_images _ _ _ fun _ _ => W.closeRequest_images ..
      · rfl
    · rfl

@[simp] theorem W.settlePrograms_images : w.settlePrograms.images = w.images := by
  refine W.each_images _ _ _ fun p v => (W.images_of_deck (W.finishAll_deck ..)).trans ?_
  exact W.each_images _ _ _ fun _ _ => rfl

@[simp] theorem W.settleAborts_images : w.settleAborts.images = w.images :=
  W.each_images _ _ _ fun j v => W.images_of_deck (W.parFinish_only v j.id .ok _).events.deck

theorem W.endStep_images (i : Nat) (st : Status) (d : Detail) : (w.endStep i st d).images = w.images := by
  unfold W.endStep
  split
  · rfl
  · next x _ =>
    split
    · rfl
    · dsimp only
      rw [W.settleAborts_images, W.settlePrograms_images, W.flushEnded_images]
      rw [W.ite_images _ (W.images_of_deck (W.event_deck ..)), W.ite_images _ (W.count_images ..),
        W.ite_images _ (W.with_images _ _ _ fun _ _ => W.countAbort_images ..),
        W.each_images _ _ _ fun _ _ => W.settleCold_images ..]
      refine (W.each_images _ _ _ fun _ _ => W.images_of_control (W.trace_control ..)).trans ?_
      rw [W.writeRequests_images]
      refine W.each_images _ _ _ fun f v => W.each_images _ _ _ ?_
      exact fun _ _ => rfl

theorem W.failStep_images (i : Nat) (st : Status) (d : Detail) : (w.failStep i st d).images = w.images := by
  unfold W.failStep
  split
  · rfl
  · split
    · split
      · rfl
      · rw [W.endStep_images, W.squash_images]
    · dsimp only
      rw [W.endStep_images, W.each_images _ _ _ fun _ _ => W.squash_images ..]
      split
      · rw [W.voidTickets_images, W.each_images _ _ _ fun _ _ => W.poisonWritten_images ..]
        exact w.halfWrittenAll_images _
      · rw [W.each_images _ _ _ fun _ _ => W.poisonWritten_images ..]
        exact w.halfWrittenAll_images _

end

end Sys2Proof.Machine
end

section
/-! PROOFS. Deck tiles that arrive again (R220, R221). -/

namespace Sys2Proof.Machine

/-! ### What waits for a deck tile (R48, R220) -/

section
variable {a b : W}

/-- What tile a deck address names rests on the slots, the images and the pages. -/
theorem W.deckTile_congr (hd : b.deck = a.deck) (hh : b.hbm = a.hbm) (n va gen : Nat) : b.deckTile n va gen = a.deckTile n va gen := by
  have hg : b.genBinds n gen = a.genBinds n gen := by
    simp only [W.genBinds, W.genImage, W.slot_of_slots (congrArg DeckSys.slots hd)]
  simp only [W.deckTile, hg, W.locate_congr (congrArg DeckSys.slots hd) (congrArg DeckSys.images hd) hh, W.image, hd]

theorem W.waitsDeck_congr (hd : b.deck = a.deck) (hh : b.hbm = a.hbm) (i k : Nat) (x : Step) (c : Ctx) :
    b.waitsDeck i k x c = a.waitsDeck i k x c := by
  simp only [W.waitsDeck, W.deckTile_congr hd hh]

end

section
variable (w : W) (i k : Nat)

/-- A step that has been woken has no context that waits for the tile. -/
theorem W.wokenDeck_waits (x : Step) :
    ∀ q ∈ (w.wokenDeck i k x).tasks, ∀ c ∈ q.ctxs, w.waitsDeck i k (w.wokenDeck i k x) c = false := by
  intro q hq c hc
  obtain ⟨q, -, rfl⟩ := List.mem_map.1 hq
  obtain ⟨c, -, rfl⟩ := List.mem_map.1 hc
  by_cases hw : w.waitsDeck i k x c = true
  · rw [if_pos hw]
    rfl
  · rw [if_neg hw]
    exact Bool.eq_false_iff.2 hw

/-- A tile that is delivered reaches slots of the cores and wakes steps; the rest stands. -/
theorem W.deliverDeck_only (t : Tile) : ∃ y,
    w.deliverDeck i k t = { w with step.steps := w.step.steps.map fun x => w.wokenDeck i k x, core := y } := by
  refine W.each_ind (fun v => ∃ y, v = { w with step.steps := w.step.steps.map fun x => w.wokenDeck i k x, core := y }) _ _ _ ⟨_, rfl⟩ ?_
  rintro ⟨l, va, g⟩ - _ ⟨y, rfl⟩
  exact ⟨_, rfl⟩

/-- After the delivery no context waits for the tile. -/
theorem W.deliverDeck_waits (t : Tile) : ∀ z ∈ (w.deliverDeck i k t).step.steps, ∀ q ∈ z.tasks, ∀ c ∈ q.ctxs,
    (w.deliverDeck i k t).waitsDeck i k z c = false := by
  obtain ⟨y, hy⟩ := w.deliverDeck_only i k t
  rw [hy]
  intro z hz q hq c hc
  obtain ⟨x, -, rfl⟩ := List.mem_map.1 hz
  exact (W.waitsDeck_congr rfl rfl i k _ c).trans (w.wokenDeck_waits i k x q hq c hc)

end

/-- An image in which a tile has been refetched (R220). -/
def Image.refetch (i : Image) (k : Nat) : Image :=
  { i with refetched := insertNat k i.refetched, asked := i.asked.filter fun j => j != k }

/-- A tile for which slots wait may come, unless it would come from host memory that is stopped (R220, R272). -/
theorem W.refetch_goes {w : W} {i k : Nat} {im : Image} (hents : w.entsDeck i k ≠ [])
    (hhost : (w.sp im.owner).stopHost = false ∨ im.source ≠ 0) :
    (!(w.entsDeck i k).isEmpty && !((w.sp im.owner).stopHost && im.source == 0)) = true := by
  rw [List.isEmpty_eq_false_iff.2 hents]
  rcases hhost with h | h <;> simp [h]

section
variable {i k : Nat} {im : Image} {s : State} {P : State → Prop} (him : s.work.image i = some im) (hents : s.work.entsDeck i k ≠ [])
  (hhost : (s.work.sp im.owner).stopHost = false ∨ im.source ≠ 0)
include him hents hhost

/-- A whole tile that may be refetched goes to its place in the image and on to what waits for it. -/
theorem State.deckTileRefetch_kept {x y : Tile} {under : BitVec 512}
    (hy : (decrypted (s.work.keySlot im.key).key under k [x]).head? = some y) (hgood : y.keystoneOk = true) (hmay : im.norefetch = false)
    (hbad : k ∉ im.bad) (hfirst : k ∉ im.refetched) (hkey : s.work.imageKeyHeld im = true)
    (hP : ∀ o t, P (s.take (((({ s.work with ops := o } : W).modImage i (·.refetch k)).count im.owner 0x1E8 1).deliverDeck i k t))) :
    Ends (.deckTileRefetchDone i k (some (x, under))) s P := by
  refine ⟨_, rfl, ?_⟩
  beta_reduce
  rw [him, W.with_some, W.refetch_goes hents hhost, W.if_true]
  dsimp only [Option.map_some, Option.bind_some]
  rw [hy]
  dsimp only
  rw [if_neg (by simp [hgood]), if_neg (by simp [hmay, hbad, hfirst, hkey])]
  cases im.tileAddr k <;> exact hP _ _

theorem State.deckTileRefetch_none (hP : P (s.take (s.work.damage i k))) : Ends (.deckTileRefetchDone i k none) s P := by
  refine ⟨_, rfl, ?_⟩
  beta_reduce
  rwa [him, W.with_some, W.refetch_goes hents hhost, W.if_true]

end

/-! ### A tile that cannot be had (R221) -/

/-- An image with a bad tile (R221). -/
def Image.spoil (i : Image) (k : Nat) : Image :=
  { i with damaged := true, bad := insertNat k i.bad, asked := i.asked.filter fun j => j != k }

theorem W.image_of_images {a b : W} (h : b.images = a.images) (i : Nat) : b.image i = a.image i :=
  congrArg (List.find? fun x : Image => x.id == i) h

/-- Whatever steps end with it, the image of a tile that cannot be had is DAMAGED and has the tile among its bad ones. -/
theorem W.damage_image {w : W} {i k : Nat} {im : Image} (him : w.image i = some im) (hbad : k ∉ im.bad) :
    (w.damage i k).image i = some (im.spoil k) := by
  unfold W.damage
  dsimp only
  generalize hv : W.each (W.each _ _ _) _ _ = v
  have hvi : v.image i = some im := by
    rw [← hv, ← him]
    refine W.image_of_images ((W.each_images _ _ _ ?_).trans (W.each_images _ _ _ fun _ _ => W.failStep_images ..)) i
    exact fun _ _ => W.images_of_control (W.dropEnts_control ..)
  rw [hvi]
  dsimp only
  rw [if_neg (by simpa using hbad), W.image_of_images (W.each_images _ _ _ fun _ _ => W.images_of_deck (W.health_only ..).deck)]
  exact (W.image_modImage (f := (·.spoil k)) (fun _ => rfl) v i).trans (congrArg (Option.map _) hvi)

/-- Settles O22: what waits is woken by the delivery of the tile, which its image and its owner's counter record; a tile that cannot
be had is recorded as bad. -/
theorem refetchedDeckTileIsKept : Obligations.RefetchedDeckTileIsKept := by
  refine ⟨?_, ?_⟩
  · intro i k x y under im s him hents hhost hy hgood hmay hbad hfirst hkey
    refine State.deckTileRefetch_kept him hents hhost hy hgood hmay hbad hfirst hkey fun o t => ?_
    generalize hv : W.count _ im.owner 0x1E8 1 = v
    have himage : v.image i = some (im.refetch k) := by
      rw [← hv]
      exact (W.image_modImage (f := (·.refetch k)) (fun _ => rfl) _ i).trans (congrArg (Option.map _) him)
    have hcount : Sparse.get (fun _ => 0#64) v.obs.cnt (4096 * im.owner + 0x1E8)
        = Sparse.get (fun _ => 0#64) s.dev.obs.cnt (4096 * im.owner + 0x1E8) + 1 := by
      rw [← hv]
      exact W.count_get ..
    refine ⟨⟨im.refetch k, ?_, mem_insertNat k im.refetched, rfl⟩, ?_, v.deliverDeck_waits i k t⟩
    · rw [State.take_image]
      obtain ⟨_, hd⟩ := v.deliverDeck_only i k t
      rw [hd]
      exact himage
    · rw [State.take_dev]
      obtain ⟨_, hd⟩ := v.deliverDeck_only i k t
      rw [hd]
      exact hcount
  · intro i k im s him hents hhost hbad
    refine State.deckTileRefetch_none him hents hhost ⟨im.spoil k, ?_, rfl, mem_insertNat k im.bad⟩
    rw [State.take_image, W.damage_image him hbad]

end Sys2Proof.Machine
end

section
/-! PROOFS. Cluster and die sleep (R239, R371, R383). -/

namespace Sys2Proof.Machine

/-- Whatever becomes of cores, clusters and dies, and however many free values are drawn, the other parts stand. -/
theorem Part.same_of_core (s : State) (c : CoreSys) (k : Nat) {q : Part} (hq : q ≠ .core) :
    q.same s (s.take { s.work with core := c, free := k }) := by
  cases q with
  | core => exact absurd rfl hq
  | memory => exact fun _ => rfl
  | fuses => exact max_eq_left (Nat.min_le_right 63 s.fuses)
  | _ => rfl

section
variable (s : State) (w : W)

@[simp] theorem State.take_cluster (c : Nat) : (s.take w).work.cluster c = w.cluster c := rfl
@[simp] theorem State.take_die (d : Nat) : (s.take w).work.die d = w.die d := rfl

end

@[simp] theorem W.cluster_modCluster_self (w : W) (c : Nat) (f : Cluster → Cluster) : (w.modCluster c f).cluster c = f (w.cluster c) := by
  rw [W.cluster_modCluster, if_pos rfl]

@[simp] theorem W.cluster_modDie (w : W) (c d : Nat) (f : Die → Die) : (w.modDie d f).cluster c = w.cluster c := rfl

@[simp] theorem W.die_modDie_self (w : W) (d : Nat) (f : Die → Die) : (w.modDie d f).die d = f (w.die d) := by
  rw [W.die_modDie, if_pos rfl]

/-- A wake sets the voltage in steps of 5 mV from 600 mV on, and never above 900 mV (R371). -/
theorem wakeVoltage_range (v : Nat) : 600 ≤ 600 + 5 * (v % 61) ∧ 600 + 5 * (v % 61) ≤ 900 := by omega

section
variable {s : State} {c : Nat} {P : State → Prop}

/-- CLUSTER_SLEEP, where nothing keeps the cluster awake. -/
theorem State.clusterSleep_goes (hc : c < 16) (hs : s.work.serving = true) (hup : (s.work.cluster c).asleep = false)
    (hidle : ∀ l ∈ s.work.coresIn c, s.work.hostsWork l = false ∧ ∀ e ∈ (s.work.core' l).tiles, e.pin ≠ .hot)
    (htest : ∀ j ∈ s.dev.core.tests, ∀ k ∈ j.cores, k / 9 ≠ c)
    (hP : P (s.take (s.work.modCluster c fun x => { x with asleep := true, waking := false }))) : Ends (.clusterSleep c) s P := by
  have hwork : ((s.work.coresIn c).any fun l => s.work.hostsWork l) = false := by
    simpa using fun l hl => (hidle l hl).1
  have hhot : ((s.work.coresIn c).any fun l => (s.work.core' l).tiles.any fun e => e.pin == .hot) = false := by
    simpa using fun l hl => (hidle l hl).2
  have htests : (s.work.core.tests.any fun j => j.cores.any fun k => k / 9 == c) = false := by
    simpa using htest
  refine ⟨_, rfl, ?_⟩
  dsimp only
  rw [hwork, hhot, htests, hs, hup, decide_eq_true hc]
  exact hP

/-- CLUSTER_WAKE_DONE of a cluster that is waking and has a PLL, under the free value drawn. -/
theorem State.clusterWakeDone_goes (hc : c < 16) (hdown : (s.work.cluster c).asleep = true) (hwake : (s.work.cluster c).waking = true)
    (hlive : (s.work.cluster c).dead = false)
    (hP : ∀ v, P (s.take ((s.work.freeVal.2.modCluster c fun x =>
      { x with asleep := false, waking := false, millivolts := 600 + 5 * (v % 61) }).modDie (c / 4) fun d => { d with asleep := false }))) :
    Ends (.clusterWakeDone c) s P := by
  refine ⟨_, rfl, ?_⟩
  dsimp only
  rw [hdown, hwake, hlive, decide_eq_true hc]
  exact hP _

/-- DIE_SLEEP, where DIE_SLEEP_EN is set and the die's four clusters sleep. -/
theorem State.dieSleep_goes {d : Nat} (hd : d < 4) (hen : bit (s.work.regv 0 0x550C) 1 = true) (hrun : (s.work.die d).resetting = false)
    (hdown : ∀ k < 4, (s.work.cluster (4 * d + k)).asleep = true ∧ (s.work.cluster (4 * d + k)).waking = false)
    (hP : P (s.take (s.work.modDie d fun x => { x with asleep := true }))) : Ends (.dieSleep d) s P := by
  have hall : ((List.range 4).all fun k => (s.work.cluster (4 * d + k)).asleep && !(s.work.cluster (4 * d + k)).waking) = true := by
    simpa using hdown
  refine ⟨_, rfl, ?_⟩
  dsimp only
  rw [hall, hen, hrun, decide_eq_true hd]
  exact hP

end

/-- Settles O31: each event changes its cluster or die as said, and nothing that is no core, cluster or die. -/
theorem clustersAndDiesSleepAndWake : Obligations.ClustersAndDiesSleepAndWake := by
  refine ⟨?_, ?_, ?_⟩
  · intro c s hc hs hup hidle htest
    exact State.clusterSleep_goes hc hs hup hidle htest ⟨by simp, fun q hq => Part.same_of_core s _ s.dev.free hq⟩
  · intro c s hc hdown hwake hlive
    refine State.clusterWakeDone_goes hc hdown hwake hlive fun v => ?_
    have hcluster := s.work.freeVal.2.cluster_modCluster_self c fun x =>
      { x with asleep := false, waking := false, millivolts := 600 + 5 * (v % 61) }
    obtain ⟨hlow, hhigh⟩ := wakeVoltage_range v
    rw [State.take_cluster, State.take_die, W.cluster_modDie, W.die_modDie_self, hcluster]
    exact ⟨rfl, rfl, hlow, hhigh, rfl, fun q hq => Part.same_of_core s _ _ hq⟩
  · intro d s hd hen hrun hdown
    exact State.dieSleep_goes hd hen hrun hdown ⟨by simp, fun q hq => Part.same_of_core s _ s.dev.free hq⟩

end Sys2Proof.Machine
end

section
/-! PROOFS. The account of a step's admission: the steps, the span's seed counter and its count of admitted steps, and what leaves
them as they are. -/

namespace Sys2Proof.Machine

/-- The steps and programs, with the seed counter of a span (R101) and its counter at 0x200. -/
def W.account (w : W) (n : Nat) : StepSys × DWord × DWord :=
  (w.step, (w.sp n).seed, Sparse.get (fun _ => 0#64) w.obs.cnt (4096 * n + 0x200))

theorem W.step_of_account {a b : W} {n : Nat} (h : a.account n = b.account n) : a.step = b.step := congrArg (·.1) h

section
variable (w : W) (n : Nat)

theorem W.each_account {α : Type} (l : List α) (f : α → W → W) (hf : ∀ a w, (f a w).account n = w.account n) :
    (w.each l f).account n = w.account n := W.each_same (W.account · n) f l w hf

theorem W.with_account {α : Type} (o : Option α) (f : α → W → W) (hf : ∀ a w, (f a w).account n = w.account n) :
    (w.with o f).account n = w.account n := by
  cases o
  · rfl
  · exact hf _ w

theorem W.if_account (c : Bool) (f : W → W) (hf : ∀ w, (f w).account n = w.account n) : (w.if c f).account n = w.account n := by
  cases c
  · rfl
  · exact hf w

/-- A change made under a condition. -/
theorem W.ite_account (c : Prop) [Decidable c] {a b : W} (h : a.account n = b.account n) :
    (if c then a else b).account n = b.account n := by
  split
  · exact h
  · rfl

/-- A computation that carries a result along with the working copy. -/
theorem W.foldl_account {α β : Type} (f : β × W → α → β × W) (hf : ∀ q a, (f q a).2.account n = q.2.account n) (l : List α)
    (q : β × W) : (l.foldl f q).2.account n = q.2.account n := by
  induction l generalizing q with
  | nil => rfl
  | cons a l ih => exact (ih _).trans (hf q a)

/-! ### Counters, replies and events -/

/-- Each other counter has a place of its own. -/
theorem W.count_account (m k : Nat) {o : Nat} (hne : o ≠ 0x200) (hlt : o < 4096) : (w.count m o k).account n = w.account n := by
  have hkey : 4096 * n + 0x200 ≠ 4096 * m + o := by omega
  rw [W.account, W.account, W.count, Sparse.get_modify, if_neg hkey]
  rfl

theorem W.OnlyCmd.account {a b : W} (h : a.OnlyCmd b) : b.account n = a.account n := by
  obtain ⟨⟨_, rfl⟩, -⟩ := h
  rfl

theorem W.record_account (ty : EvTy) (fl : Bool) (m : Nat) (b : Bool) (u : Nat) (p : Option (List Byte)) (x : Subject) :
    (w.record ty fl m b u p x).account n = w.account n := by
  unfold W.record
  dsimp only
  split <;> rfl

@[simp] theorem W.event_account (ty : EvTy) (m : Nat) (b : Bool) (u : Nat) (p : Option (List Byte)) (x : Subject) :
    (w.event ty m b u p x).account n = w.account n := by
  unfold W.event
  rw [(W.notices_only ..).account, W.ite_account, W.record_account]
  exact (W.record_account ..).trans (W.record_account ..)

@[simp] theorem W.healthAll_account (u : Nat) (x : Subject) : (w.healthAll u x).account n = w.account n := w.event_account ..

/-! ### Tiles and traces -/

@[simp] theorem W.dropEnts_account (l : Nat) (p : TileEnt → Bool) : (w.dropEnts l p).account n = w.account n := rfl

@[simp] theorem W.markDirty_account (m vp : Nat) : (w.markDirty m vp).account n = w.account n := by
  unfold W.markDirty
  split
  · rfl
  · rw [W.account, W.account, W.sp_modSp]
    split
    · next h => rw [h]; rfl
    · rfl

@[simp] theorem W.touchSec_account (m va : Nat) : (w.touchSec m va).account n = w.account n := by
  unfold W.touchSec
  split <;> rfl

@[simp] theorem W.storeTile_account (m va : Nat) (t : Tile) : (w.storeTile m va t).account n = w.account n := by
  unfold W.storeTile
  split
  · rw [W.touchSec_account, W.markDirty_account]
    rfl
  · rfl

@[simp] theorem W.trace_account (m l k c t q : Nat) (b : List Byte) : (w.trace m l k c t q b).account n = w.account n := by
  unfold W.trace
  split
  · rfl
  · dsimp only
    split
    · rfl
    · split
      · rfl
      · exact W.with_account _ _ _ _ fun _ _ => W.storeTile_account ..

@[simp] theorem W.stallRecord_account (x : Step) (t : Task) (c k : Nat) : (w.stallRecord x t c k).account n = w.account n := by
  unfold W.stallRecord
  split
  · exact W.trace_account ..
  · rfl

/-! ### Cores and clusters that a placement needs (R239, R346, R379) -/

@[simp] theorem W.giveNumber_account (l c : Nat) : (w.giveNumber l c).account n = w.account n := by
  unfold W.giveNumber
  dsimp only
  split
  · rfl
  · exact W.healthAll_account ..

@[simp] theorem W.standBy_account (c : Nat) : (w.standBy c).account n = w.account n := by
  unfold W.standBy
  dsimp only
  split
  · exact W.giveNumber_account ..
  · rfl

@[simp] theorem W.handBack_account (cs : List Nat) : (w.handBack cs).account n = w.account n := by
  refine w.each_account _ _ _ fun c v => ?_
  split
  · rfl
  · split
    · rfl
    · exact v.standBy_account ..

@[simp] theorem W.yieldTest_account (l : Nat) : (w.yieldTest l).account n = w.account n := by
  unfold W.yieldTest
  split
  · rfl
  · exact w.with_account _ _ _ fun _ _ => W.handBack_account ..

@[simp] theorem W.atBoundary_account (l : Nat) : (w.atBoundary l).account n = w.account n :=
  w.with_account _ _ _ fun _ v => v.if_account n _ _ fun _ => rfl

@[simp] theorem W.wakeFor_account (m l : Nat) : (w.wakeFor m l).2.account n = w.account n := by
  unfold W.wakeFor
  dsimp only
  split
  · exact W.count_account _ _ _ _ (by decide) (by decide)
  · rfl

/-! ### Tables, adapters and requests of an admission -/

@[simp] theorem W.settleCold_account (h : Nat) : (w.settleCold h).account n = w.account n := by
  obtain ⟨f, -, he⟩ := w.settleCold_only h
  rw [he]
  rfl

@[simp] theorem W.closeRequest_account (m i : Nat) : (w.closeRequest m i).account n = w.account n :=
  W.each_account _ _ _ _ fun _ _ => W.settleCold_account ..

@[simp] theorem W.openRequests_account (m : Nat) (b : Binding) : (w.openRequests m b).account n = w.account n := by
  refine w.each_account _ _ _ fun e v => ?_
  dsimp only
  split
  · exact v.closeRequest_account ..
  · split <;> rfl

@[simp] theorem W.takeTickets_account (m : Nat) (p : Program) : (w.takeTickets m p).2.account n = w.account n := by
  refine W.foldl_account n _ (fun q i => ?_) _ _
  dsimp only
  split
  · rfl
  · split <;> rfl

@[simp] theorem W.dropStale_account (x : Step) (bs : List Bind) : (w.dropStale x bs).account n = w.account n :=
  w.each_account _ _ _ fun _ _ => W.dropEnts_account ..

@[simp] theorem W.restage_account (x : Step) (bs : List Bind) : (w.restage x bs).account n = w.account n := by
  unfold W.restage
  rw [W.dropStale_account, W.ite_account]
  rw [W.count_account _ _ _ _ (by decide) (by decide), W.count_account _ _ _ _ (by decide) (by decide)]

end

end Sys2Proof.Machine
end

section
/-! PROOFS. What placing a task does to the steps (R17, R237, R434). -/

namespace Sys2Proof.Machine

/-- A step with each of its tasks changed. -/
def Step.mapTasks (g : Task → Task) (y : Step) : Step := { y with tasks := y.tasks.map g }

/-- A task that gets its core, for whose engines its contexts wait from now on. -/
def Task.placed (i l now : Nat) (k : Task) : Task :=
  if k.idx = i then { k with core := some l, ctxs := k.ctxs.map fun (c : Ctx) => { c with since := now } } else k

/-- A change of a task that leaves its number and its core. -/
def Task.Stays (g : Task → Task) : Prop := ∀ k, (g k).idx = k.idx ∧ (g k).core = k.core

/-- The first step with this number has a task with this number on this core. -/
def W.Placed (w : W) (id i l : Nat) : Prop := ∃ y, w.stepOf id = some y ∧ ∃ k ∈ y.tasks, k.idx = i ∧ k.core = some l

theorem W.stepOf_of_steps {a b : W} (h : b.step.steps = a.step.steps) (id : Nat) : b.stepOf id = a.stepOf id := by
  rw [W.stepOf, W.stepOf, h]

theorem W.stepOf_of_step {a b : W} (h : b.step = a.step) (id : Nat) : b.stepOf id = a.stepOf id :=
  W.stepOf_of_steps (congrArg StepSys.steps h) id

theorem W.stepOf_modStep {f : Step → Step} (hf : ∀ y, (f y).id = y.id) (w : W) (id : Nat) :
    (w.modStep id f).stepOf id = (w.stepOf id).map f := find?_updateWhere (fun y => by simp [hf]) _

theorem W.stepOf_modStep_some {w : W} {id : Nat} {x : Step} (hx : w.stepOf id = some x) {f : Step → Step} (hf : ∀ y, (f y).id = y.id) :
    (w.modStep id f).stepOf id = some (f x) := by
  rw [W.stepOf_modStep hf, hx]
  rfl

@[simp] theorem Step.mapTasks_id (g : Task → Task) (y : Step) : (y.mapTasks g).id = y.id := rfl

/-- Tasks that stay as they are leave the steps as they are. -/
theorem W.modStep_mapTasks_same (w : W) (id : Nat) : w.modStep id (Step.mapTasks fun k => k) = w := by
  have hsteps : updateWhere (fun y => y.id == id) (Step.mapTasks fun k => k) w.step.steps = w.step.steps :=
    (List.map_congr_left fun y _ => by simp [Step.mapTasks]).trans (List.map_id _)
  rw [W.modStep, hsteps]

/-! ### The number and the core of a task -/

section
variable {a b : W} {id i l : Nat}

theorem W.Placed.of_step (h : a.Placed id i l) (hs : b.step = a.step) : b.Placed id i l := by
  obtain ⟨y, hy, hk⟩ := h
  exact ⟨y, (W.stepOf_of_step hs id).trans hy, hk⟩

theorem W.Placed.modStep (h : a.Placed id i l) {g : Task → Task} (hg : Task.Stays g) :
    (a.modStep id (Step.mapTasks g)).Placed id i l := by
  obtain ⟨y, hy, k, hk, hidx, hcore⟩ := h
  refine ⟨y.mapTasks g, W.stepOf_modStep_some hy (Step.mapTasks_id g), g k, List.mem_map_of_mem hk, ?_, ?_⟩
  · rw [(hg k).1, hidx]
  · rw [(hg k).2, hcore]

/-- A task that gets its core is placed there. -/
theorem W.modStep_placed {x : Step} (hx : a.stepOf id = some x) (hi : ∃ k ∈ x.tasks, k.idx = i) (l now : Nat) :
    (a.modStep id (Step.mapTasks (Task.placed i l now))).Placed id i l := by
  obtain ⟨k, hk, hidx⟩ := hi
  refine ⟨x.mapTasks (Task.placed i l now), W.stepOf_modStep_some hx (Step.mapTasks_id _), k.placed i l now,
    List.mem_map_of_mem hk, ?_⟩
  rw [Task.placed, if_pos hidx]
  exact ⟨hidx, rfl⟩

end

/-! ### The contexts of a task, and tasks that are over -/

section
variable (w : W) (id : Nat)

/-- Bringing the contexts of a task up to date changes contexts alone, of the steps. -/
theorem W.settleTask_only (task : Nat) : ∃ (v : W) (g : Task → Task), Task.Stays g ∧ (∀ n, v.account n = w.account n)
    ∧ w.settleTask id task = v.modStep id (Step.mapTasks g) := by
  have hnone : ∃ (v : W) (g : Task → Task), Task.Stays g ∧ (∀ n, v.account n = w.account n)
      ∧ w = v.modStep id (Step.mapTasks g) :=
    ⟨w, fun k => k, fun _ => ⟨rfl, rfl⟩, fun _ => rfl, (w.modStep_mapTasks_same id).symm⟩
  unfold W.settleTask
  split
  · exact hnone
  · split
    · exact hnone
    · refine ⟨_, _, fun k => ?_, fun n => ?_, rfl⟩
      · dsimp only
        split <;> exact ⟨rfl, rfl⟩
      · exact W.with_account _ n _ _ fun _ v => v.each_account n _ _ fun _ _ => W.stallRecord_account ..

/-- Ending the tasks that are over leaves where they ran. -/
theorem W.endTasks_only : ∃ g : Task → Task, Task.Stays g ∧ w.endTasks id = w.modStep id (Step.mapTasks g) := by
  have hnone : ∃ g : Task → Task, Task.Stays g ∧ w = w.modStep id (Step.mapTasks g) :=
    ⟨fun k => k, fun _ => ⟨rfl, rfl⟩, (w.modStep_mapTasks_same id).symm⟩
  unfold W.endTasks
  split
  · exact hnone
  · split
    · exact hnone
    · refine ⟨_, fun k => ?_, rfl⟩
      split <;> exact ⟨rfl, rfl⟩

end

/-! ### Placing one task (R237) -/

section
variable {w : W} {id i : Nat}

/-- A task for which a core is chosen is placed there; of the steps nothing else changes before that. -/
theorem W.placeTask_some {x : Step} {p : Program} {t : TaskDef} {l : Nat} (hx : w.stepOf id = some x)
    (hp : w.program x.span x.handle = some p) (ht : p.tasks[i]? = some t)
    (hl : w.chooseCore x.span p x.sched x.binds ((x.homes.find? fun h => h.1 == i).map (·.2)) i t [] = some l) :
    ∃ (v : W) (now : Nat) (h : RingSched → RingSched), (∀ n, v.account n = w.account n) ∧ (w.placeTask id i).2.2
      = ((((v.modStep id (Step.mapTasks (Task.placed i l now))).modSched x.span x.ring h).settleTask id i).trace
          x.span l 1 0 i x.traceSeq []).endTasks id := by
  unfold W.placeTask
  rw [hx]
  dsimp only
  rw [hp]
  dsimp only
  rw [ht]
  dsimp only
  rw [hl]
  dsimp only
  generalize hq : W.wakeFor _ x.span l = q
  obtain ⟨woke, u⟩ := q
  refine ⟨{ u with core.clock := u.core.clock + 1 }, u.core.clock, _, fun n => ?_, rfl⟩
  refine (congrArg (fun q : Bool × W => q.2.account n) hq).symm.trans ?_
  rw [W.wakeFor_account, W.atBoundary_account, W.yieldTest_account]
  exact W.ite_account n _ (W.count_account _ _ _ _ (by decide) (by decide))

/-- A task for which no core is found waits. -/
theorem W.placeTask_cases : (w.placeTask id i).2.2 = w ∨ ∃ x p t l, w.stepOf id = some x ∧ w.program x.span x.handle = some p
    ∧ p.tasks[i]? = some t ∧ w.chooseCore x.span p x.sched x.binds ((x.homes.find? fun h => h.1 == i).map (·.2)) i t [] = some l := by
  cases hx : w.stepOf id with
  | none => exact .inl (by simp [W.placeTask, hx])
  | some x =>
    cases hp : w.program x.span x.handle with
    | none => exact .inl (by simp [W.placeTask, hx, hp])
    | some p =>
      cases ht : p.tasks[i]? with
      | none => exact .inl (by simp [W.placeTask, hx, hp, ht])
      | some t =>
        cases hl : w.chooseCore x.span p x.sched x.binds ((x.homes.find? fun h => h.1 == i).map (·.2)) i t [] with
        | none => exact .inl (by simp [W.placeTask, hx, hp, ht, hl])
        | some l => exact .inr ⟨x, p, t, l, rfl, hp, ht, hl⟩

/-- After its placement the task is on the core chosen. -/
theorem W.placeTask_placed {x : Step} {p : Program} {t : TaskDef} {l : Nat} (hx : w.stepOf id = some x)
    (hi : ∃ k ∈ x.tasks, k.idx = i) (hp : w.program x.span x.handle = some p) (ht : p.tasks[i]? = some t)
    (hl : w.chooseCore x.span p x.sched x.binds ((x.homes.find? fun h => h.1 == i).map (·.2)) i t [] = some l) :
    (w.placeTask id i).2.2.Placed id i l := by
  obtain ⟨v, now, h, hv, he⟩ := W.placeTask_some hx hp ht hl
  have hput : ((v.modStep id (Step.mapTasks (Task.placed i l now))).modSched x.span x.ring h).Placed id i l :=
    W.modStep_placed ((W.stepOf_of_step (W.step_of_account (hv 0)) id).trans hx) hi l now
  rw [he]
  generalize W.modSched _ _ _ _ = u at hput ⊢
  obtain ⟨u', g, hg, hu, hsettled⟩ := u.settleTask_only id i
  rw [hsettled]
  have hafter := (hput.of_step (W.step_of_account (hu 0))).modStep hg
  obtain ⟨g', hg', hended⟩ := (W.trace (u'.modStep id (Step.mapTasks g)) x.span l 1 0 i x.traceSeq []).endTasks_only id
  rw [hended]
  exact (hafter.of_step (W.step_of_barrier (W.trace_barrier ..))).modStep hg'

end

end Sys2Proof.Machine
end

section
/-! PROOFS. Placement at a core boundary, run-ahead and prefetch (R52, R53, R237, R246, R247). -/

namespace Sys2Proof.Machine

/-! ### A deferred task (R237 step 3) -/

/-- TASK_PLACE_DEFERRED of the first task without a core, while no securing step of its span is due. -/
theorem State.taskPlaceDeferred_goes {s : State} {id i : Nat} {x : Step} {P : State → Prop} (hx : s.work.stepOf id = some x)
    (hrun : x.phase = .compute) (hsec : s.work.afterSecuring x = false)
    (hfirst : (x.tasks.find? fun t => t.core.isNone && !t.ended).map (·.idx) = some i)
    (hP : P (s.take (s.work.placeTask id i).2.2)) : Ends (.taskPlaceDeferred id i) s P := by
  refine ⟨_, rfl, ?_⟩
  dsimp only
  rw [hx, W.with_some, hrun, hsec, hfirst]
  simpa using hP

/-! ### Prefetched tiles and the steps (R52, R246) -/

section
variable (w : W) (x : Step) (p : Program) (bs : List Bind)

@[simp] theorem W.prefetchTile_barrier (l va : Nat) : (w.prefetchTile x bs l va).barrier = w.barrier := by
  unfold W.prefetchTile
  split
  · rfl
  · dsimp only
    split
    · split
      · rfl
      · exact w.startFetch_barrier ..
    · split
      · rfl
      · exact w.startFetch_barrier ..
    · rfl

@[simp] theorem W.prefetchLists_barrier : (w.prefetchLists x p bs).barrier = w.barrier := by
  have htiles (v : W) (l : Nat) (vas : List Nat) : (v.each vas fun va v => v.prefetchTile x bs l va).barrier = v.barrier :=
    v.each_barrier _ _ fun _ _ => W.prefetchTile_barrier ..
  unfold W.prefetchLists
  dsimp only
  rw [W.with_barrier _ _ _ fun l v => htiles v l _, W.each_barrier _ _ _ fun t v => v.with_barrier _ _ fun l v => htiles v l _]

end

/-! ### Run-ahead (R246) -/

/-- A step that run-ahead replaces, and brings tiles for, stands as it was put, but for the record of those tiles. -/
theorem W.staging_mem {v : W} {x x' : Step} {f : W → W} {P : Step → Prop} (hx : x ∈ v.step.steps)
    (hf : (f (v.modStep x.id fun _ => x')).step = (v.modStep x.id fun _ => x').step) (hP : ∀ ts, P { x' with stagedTiles := ts }) :
    ∃ y ∈ ((v.modStep x.id fun _ => x').staging x' f).step.steps, P y := by
  have hput : x' ∈ (v.modStep x.id fun _ => x').step.steps :=
    mem_updateWhere (p := fun y : Step => y.id == x.id) hx (beq_self_eq_true x.id) fun _ => x'
  rw [← hf] at hput
  exact ⟨_, mem_updateWhere (p := fun y : Step => y.id == x'.id) hput (beq_self_eq_true x'.id) _, hP _⟩

/-- Staging leaves the step staged under the current generations of the slots that its program names. -/
theorem W.stage_staged {w : W} {x : Step} (hx : x ∈ w.step.steps) (p : Program) : ∃ y ∈ (w.stage x p).step.steps,
    y.id = x.id ∧ y.phase = .staged ∧ y.stagedBinds = (w.currentBinds x.span).filter fun b => bit p.deckMask b.slot := by
  unfold W.stage
  dsimp only
  generalize hv : W.each (W.dropStale _ _ _) _ _ = v
  have hstep : v.step = w.step := W.step_of_account (n := 0) <| by
    rw [← hv, W.each_account _ _ _ _ fun _ _ => W.wakeFor_account .., W.dropStale_account]
  refine W.staging_mem (hstep ▸ hx : x ∈ v.step.steps) (W.step_of_barrier ?_) fun _ => ⟨rfl, rfl, rfl⟩
  rw [W.prefetchLists_barrier]
  refine W.each_barrier _ _ _ fun k u => u.each_barrier _ _ fun t u => u.with_barrier _ _ fun l u => ?_
  split
  · rfl
  · exact u.each_barrier _ _ fun _ _ => W.prefetchTile_barrier ..

/-- RUN_AHEAD_STAGE, while a step of the ring runs and its span may. -/
theorem State.runAheadStage_goes {s : State} {n r : Nat} {x : Step} {p : Program} {P : State → Prop}
    (hx : s.work.ringHead n r = some x) (hp : s.work.program n x.handle = some p) (hup : s.work.serving = true) (hread : x.phase = .read)
    (hrun : ∃ y ∈ s.work.ringSteps n r, y.phase = .compute) (hact : (s.work.sp n).mode = .active)
    (hstop : (s.work.sp n).stopped = false) (hfree : (s.work.sp n).freezing = none)
    (hP : P (s.take (s.work.stage x p))) : Ends (.runAheadStage n r) s P := by
  have hany : ((s.work.ringSteps n r).any fun y => y.phase == .compute) = true := by simpa using hrun
  refine ⟨_, rfl, ?_⟩
  dsimp only
  rw [hx, W.with_some, hp, W.with_some, hup, hread, hany, hact, hstop, hfree]
  exact hP

/-- The head step of a ring is among the steps of that ring, and waits for its admission. -/
theorem W.ringHead_waits {w : W} {n r : Nat} {x : Step} (h : w.ringHead n r = some x) :
    x ∈ w.step.steps ∧ x.span = n ∧ (x.phase = .read ∨ x.phase = .staged) := by
  have hmem := List.mem_filter.1 (List.mem_of_find?_eq_some h)
  have hphase := List.find?_some h
  simp only [Bool.and_eq_true, beq_iff_eq, Bool.or_eq_true] at hmem hphase
  exact ⟨hmem.1, hmem.2.1, hphase⟩

/-! ### A prefetch (R52, R53) -/

/-- While the core has a slot to spare, a fetch of a tile that it does not hold begins. -/
theorem W.startFetch_begins {w : W} {l va : Nat} (hnew : ∀ e ∈ (w.core' l).tiles, e.addr ≠ va)
    (hroom : (w.core' l).tiles.length < w.slotsOf l) (pre : Bool) :
    ∃ e ∈ ((w.startFetch l va none pre).core' l).tiles, e.addr = va ∧ e.state = .fetching ∧ e.prefetch = pre := by
  have hent : w.ent l va none = none := List.find?_eq_none.2 fun e he => by simp [TileEnt.is, hnew e he]
  have hslot : w.takeSlot l = (some (w.freeSlot l), w) := by
    rw [W.takeSlot, Nat.sub_eq_zero_of_le hroom.le]
    exact if_pos hroom
  rw [W.startFetch, hent]
  dsimp only
  rw [W.enter, hslot]
  dsimp only
  rw [W.core'_modCore, if_pos rfl]
  exact ⟨_, List.mem_append_right _ (List.mem_singleton_self _), rfl, rfl, rfl⟩

/-- A tile of the span's own pages that no core holds HOT is fetched, while the core fetches nothing. -/
theorem W.prefetchTile_home {w : W} {x : Step} {bs : List Bind} {l va pa : Nat} {wr : Bool} (hseen : w.hidden x (va / pageBytes) = false)
    (htile : isTileAddr va = true) (hloc : w.locate x.span bs va = .home pa wr) (hhot : w.hotAt x.span va = none)
    (hidle : ∀ e ∈ (w.core' l).tiles, e.state ≠ .fetching) : w.prefetchTile x bs l va = w.startFetch l va none true := by
  unfold W.prefetchTile
  rw [hseen, htile, hloc, hhot, if_neg (by decide)]
  dsimp only
  rw [List.filter_eq_nil_iff.2]
  · rfl
  · intro e he hfetch
    split at hfetch
    · next hst => exact hidle e he hst
    · cases hfetch

/-- PREFETCH for a step with one task, which has a core, of a layer with one tile. -/
theorem State.prefetch_goes {s : State} {id k l va : Nat} {x : Step} {p : Program} {q : Task} {P : State → Prop}
    (hx : s.work.stepOf id = some x) (hp : s.work.program x.span x.handle = some p) (hrun : x.phase = .compute) (hq : x.tasks = [q])
    (hl : q.core = some l) (hopen : q.ended = false) (hlayer : ((p.tasks[q.idx]?).map (·.layer0)).getD 0 ≤ k)
    (hdepth : 0 < s.work.depth p l)
    (hva : runTiles (schedRuns x.sched k 1 q.idx) = [va]) (hP : P (s.take (s.work.prefetchTile x x.binds l va))) :
    Ends (.prefetch id k) s P := by
  have hgo : ¬ (q.ended || decide (k < ((p.tasks[q.idx]?).map (·.layer0)).getD 0) || decide (s.work.depth p l = 0)) = true := by
    simp [hopen, hlayer, hdepth.ne']
  refine ⟨_, rfl, ?_⟩
  dsimp only
  rw [hx, W.with_some, hp, W.with_some, if_pos hrun, W.prefetchLayer, hq, W.each_cons, W.each_nil, hl, W.with_some, if_neg hgo, hva]
  exact hP

/-- Settles O28, event by event: the placement, the staging and the prefetch each come about, and what they do besides leaves them. -/
theorem placementStagingAndPrefetch : Obligations.PlacementStagingAndPrefetch := by
  refine ⟨?_, ?_, ?_⟩
  · intro id i l x p d s hx hrun hsec hfirst hp hd hl
    obtain ⟨k, hk, hidx⟩ := Option.map_eq_some_iff.1 hfirst
    exact State.taskPlaceDeferred_goes hx hrun hsec hfirst
      (W.placeTask_placed hx ⟨k, List.mem_of_find?_eq_some hk, hidx⟩ hp hd hl)
  · intro n r x p s hx hp hup hread hrun hact hstop hfree
    exact State.runAheadStage_goes hx hp hup hread hrun hact hstop hfree (W.stage_staged (W.ringHead_waits hx).1 p)
  · intro id k l va pa wr x p q s hx hp hrun hq hl hopen hlayer hdepth hva hseen htile hloc hhot hfree hroom
    refine State.prefetch_goes hx hp hrun hq hl hopen hlayer hdepth hva ?_
    rw [W.prefetchTile_home hseen htile hloc hhot fun e he => (hfree e he).2]
    exact W.startFetch_begins (fun e he => (hfree e he).1) hroom true

end Sys2Proof.Machine
end

section
/-! PROOFS. What an admission leaves in the account of its span (R101, R212, R235, R237). -/

namespace Sys2Proof.Machine

/-- A step without its tasks and their home cores. -/
def Step.bare (y : Step) : Step := { y with tasks := [], homes := [] }

/-- The account of a span with steps known but for their tasks. -/
def W.ledger (w : W) (n : Nat) : List Step × DWord × DWord := (w.step.steps.map Step.bare, (w.account n).2)

theorem W.ledger_of_account {a b : W} {n : Nat} (h : a.account n = b.account n) : a.ledger n = b.ledger n := by
  rw [W.ledger, W.ledger, h, W.step_of_account h]

section
variable (w : W) (n : Nat)

theorem W.modStep_ledger (id : Nat) {f : Step → Step} (hf : ∀ y, (f y).bare = y.bare) : (w.modStep id f).ledger n = w.ledger n := by
  have hsteps : (updateWhere (fun y => y.id == id) f w.step.steps).map Step.bare = w.step.steps.map Step.bare := by
    rw [updateWhere, List.map_map]
    refine List.map_congr_left fun y _ => ?_
    rw [Function.comp_apply, apply_ite Step.bare, hf, ite_self]
  exact congrArg (·, (w.account n).2) hsteps

@[simp] theorem W.mapTasks_ledger (id : Nat) (g : Task → Task) : (w.modStep id (Step.mapTasks g)).ledger n = w.ledger n :=
  w.modStep_ledger n id fun _ => rfl

@[simp] theorem W.modSched_ledger (m r : Nat) (f : RingSched → RingSched) : (w.modSched m r f).ledger n = w.ledger n := rfl

theorem W.modAdapters_ledger (l : List Nat) (f : Adapter → Adapter) : (w.each l fun h v => v.modAdapter h f).ledger n = w.ledger n :=
  W.ledger_of_account (w.each_account n _ _ fun _ _ => rfl)

/-! ### Tasks find their cores -/

theorem W.settleTask_ledger (id t : Nat) : (w.settleTask id t).ledger n = w.ledger n := by
  obtain ⟨v, g, -, hv, he⟩ := w.settleTask_only id t
  rw [he, W.mapTasks_ledger]
  exact W.ledger_of_account (hv n)

theorem W.endTasks_ledger (id : Nat) : (w.endTasks id).ledger n = w.ledger n := by
  obtain ⟨g, -, he⟩ := w.endTasks_only id
  rw [he, W.mapTasks_ledger]

theorem W.placeTask_ledger (id i : Nat) : (w.placeTask id i).2.2.ledger n = w.ledger n := by
  rcases W.placeTask_cases (w := w) (id := id) (i := i) with h | ⟨x, p, t, l, hx, hp, ht, hl⟩
  · rw [h]
  · obtain ⟨v, now, h, hv, he⟩ := W.placeTask_some hx hp ht hl
    rw [he, W.endTasks_ledger, W.ledger_of_account (W.trace_account ..), W.settleTask_ledger, W.modSched_ledger,
      W.mapTasks_ledger]
    exact W.ledger_of_account (hv n)

theorem W.placeFrom_ledger (id k i : Nat) (woke : Bool) : (w.placeFrom id k i woke).2.ledger n = w.ledger n := by
  induction k generalizing w i woke with
  | zero => rfl
  | succ k ih =>
    have hone := w.placeTask_ledger n id i
    unfold W.placeFrom
    generalize w.placeTask id i = q at hone
    obtain ⟨found, b, v⟩ := q
    cases found
    · exact hone
    · exact (ih ..).trans hone

@[simp] theorem W.takeEval_ledger (x : Step) : (w.takeEval x).ledger n = w.ledger n := by
  unfold W.takeEval
  split <;> rfl

end

/-! ### The admission itself -/

/-- A span gives its seed to a step without one of its own, and counts it up (R101). -/
def W.seeding (w : W) (x : Step) : W := if x.seedValid then w else w.modSp x.span fun s => { s with seed := s.seed + 1#64 }

theorem W.seeding_ledger (w : W) (x : Step) : (w.seeding x).ledger x.span = (w.step.steps.map Step.bare,
    (if x.seedValid = true then (w.account x.span).2.1 else (w.account x.span).2.1 + 1#64), (w.account x.span).2.2) := by
  unfold W.seeding
  split
  · rfl
  · rw [W.ledger, W.account, W.sp_modSp, if_pos rfl]
    rfl

/-- What a step is once it is admitted: in its compute phase, with its bindings, its requests and its seed. -/
def Step.Admits (x : Step) (a : Admission) (seed : DWord) (y : Step) : Prop :=
  y.id = x.id ∧ y.phase = .compute ∧ y.binds = a.bind.binds ∧ y.requests = a.bind.requests
    ∧ y.seed = (if x.seedValid = true then x.seedIn else seed)

/-- In the ledger an admission is a seed taken, one step counted, and the step changed. -/
theorem W.takeIn_ledger (w : W) (x : Step) (a : Admission) : ∃ (v : W) (f : Step → Step), v.ledger x.span = (w.seeding x).ledger x.span
    ∧ (∀ y, y.id = x.id → x.Admits a (w.sp x.span).seed (f y))
    ∧ (w.takeIn x a).ledger x.span = ((v.count x.span 0x200 1).modStep x.id f).ledger x.span := by
  unfold W.takeIn
  dsimp only
  generalize hq : W.placeFrom _ x.id _ 0 false = q
  obtain ⟨woke, u⟩ := q
  have hplaced := congrArg (fun q : Bool × W => q.2.ledger x.span) hq
  dsimp only at hplaced ⊢
  have hcounted := W.ledger_of_account <|
    W.ite_account x.span (woke = true) (u.count_account x.span x.span 1 (o := 0x218) (by decide) (by decide))
  refine ⟨_, _, ?_, ?_, hcounted.trans (hplaced.symm.trans ((W.placeFrom_ledger ..).trans (W.takeEval_ledger ..)))⟩
  · rw [W.ledger_of_account (W.count_account _ _ _ _ (by decide) (by decide)), W.modAdapters_ledger,
      W.modStep_ledger, W.modSched_ledger]
    · refine (W.ledger_of_account ((W.openRequests_account ..).trans (W.takeTickets_account ..))).trans ?_
      have hrestage := w.restage_account x.span x a.bind.binds
      refine ((w.restage x a.bind.binds).seeding_ledger x).trans ?_
      rw [W.seeding_ledger, hrestage, W.step_of_account hrestage]
    · exact fun _ => rfl
  · intro y hy
    refine ⟨hy, rfl, rfl, rfl, ?_⟩
    exact congrArg (fun v => if x.seedValid = true then x.seedIn else v) (congrArg (·.2.1) (w.restage_account x.span x a.bind.binds))

theorem Step.Admits.of_bare {x y z : Step} {a : Admission} {seed : DWord} (h : x.Admits a seed z) (hb : y.bare = z.bare) :
    x.Admits a seed y := by
  obtain ⟨hid, hphase, hbinds, hreq, hseed⟩ := h
  exact ⟨(congrArg Step.id hb).trans hid, (congrArg Step.phase hb).trans hphase, (congrArg Step.binds hb).trans hbinds,
    (congrArg Step.requests hb).trans hreq, (congrArg Step.seed hb).trans hseed⟩

section
variable (w : W) (x : Step) (a : Admission)

theorem W.takeIn_seed : ((w.takeIn x a).sp x.span).seed = if x.seedValid = true then (w.sp x.span).seed else (w.sp x.span).seed + 1#64 := by
  obtain ⟨v, f, hv, -, ht⟩ := w.takeIn_ledger x a
  exact (congrArg (·.2.1) ht).trans (congrArg (·.2.1) (hv.trans (w.seeding_ledger x)))

theorem W.takeIn_counted : Sparse.get (fun _ => 0#64) (w.takeIn x a).obs.cnt (4096 * x.span + 0x200)
    = Sparse.get (fun _ => 0#64) w.obs.cnt (4096 * x.span + 0x200) + 1 := by
  obtain ⟨v, f, hv, -, ht⟩ := w.takeIn_ledger x a
  refine (congrArg (·.2.2) ht).trans ((v.count_get x.span 0x200 1).trans ?_)
  exact congrArg (· + 1#64) (congrArg (·.2.2) (hv.trans (w.seeding_ledger x)))

/-- A step of the working copy is admitted there. -/
theorem W.takeIn_admits (hx : x ∈ w.step.steps) : ∃ y ∈ (w.takeIn x a).step.steps, x.Admits a (w.sp x.span).seed y := by
  obtain ⟨v, f, hv, hf, ht⟩ := w.takeIn_ledger x a
  have hbefore : v.step.steps.map Step.bare = w.step.steps.map Step.bare := congrArg (·.1) (hv.trans (w.seeding_ledger x))
  have hafter : (w.takeIn x a).step.steps.map Step.bare = (updateWhere (fun y => y.id == x.id) f v.step.steps).map Step.bare :=
    congrArg (·.1) ht
  obtain ⟨z, hz, hzx⟩ := List.mem_map.1 (hbefore ▸ List.mem_map_of_mem hx)
  have hid : z.id = x.id := show z.bare.id = x.bare.id from congrArg Step.id hzx
  obtain ⟨y, hy, hyz⟩ := List.mem_map.1 (hafter ▸ List.mem_map_of_mem
    (mem_updateWhere (p := fun y : Step => y.id == x.id) hz (beq_iff_eq.2 hid) f))
  exact ⟨y, hy, (hf z hid).of_bare hyz⟩

end

end Sys2Proof.Machine
end

section
/-! PROOFS. Steps that run on no more (R24 to R28, R31, R215). -/

namespace Sys2Proof.Machine

/-- Every step with this number that is still kept has ended. -/
def W.Over (w : W) (id : Nat) : Prop := ∀ y ∈ w.step.steps, y.id = id → y.phase = .ended

section
variable {a b : W} {id : Nat}

theorem W.Over.of_subset (h : a.Over id) (hs : b.step.steps ⊆ a.step.steps) : b.Over id := fun y hy => h y (hs hy)

theorem W.Over.of_steps (h : a.Over id) (hs : b.step.steps = a.step.steps) : b.Over id := h.of_subset (hs ▸ List.Subset.refl _)

theorem W.Over.of_step (h : a.Over id) (hs : b.step = a.step) : b.Over id := h.of_steps (congrArg StepSys.steps hs)

/-- A change that ends a step, and leaves its number. -/
theorem W.over_modStep (w : W) {f : Step → Step} (hf : ∀ y, (f y).phase = .ended) : (w.modStep id f).Over id := by
  intro y hy hid
  obtain ⟨x, -, rfl⟩ := List.mem_map.1 hy
  by_cases hx : (x.id == id) = true
  · rw [if_pos hx]
    exact hf x
  · rw [if_neg hx] at hid
    exact absurd (beq_iff_eq.2 hid) hx

end

/-! ### What follows the end of a step (R188, R213, R234, R273) -/

section
variable (w : W)

theorem W.with_step {α : Type} (o : Option α) (f : α → W → W) (hf : ∀ a w, (f a w).step = w.step) :
    (w.with o f).step = w.step := by
  cases o
  · rfl
  · exact hf _ w

/-- A change made under a condition. -/
theorem W.ite_step (c : Prop) [Decidable c] {a b : W} (h : a.step = b.step) : (if c then a else b).step = b.step := by
  split
  · exact h
  · rfl

@[simp] theorem W.countAbort_step (i : Nat) : (w.countAbort i).step = w.step := rfl
@[simp] theorem W.settleCold_step (h : Nat) : (w.settleCold h).step = w.step := W.step_of_account (w.settleCold_account 0 h)
@[simp] theorem W.closeRequest_step (n i : Nat) : (w.closeRequest n i).step = w.step := W.step_of_account (w.closeRequest_account 0 n i)

/-- The replies that ring order allows take steps away, and leave the others. -/
theorem W.flushEnded_subset (k n r : Nat) : (w.flushEnded k n r).step.steps ⊆ w.step.steps := by
  induction k generalizing w with
  | zero => exact List.Subset.refl _
  | succ k ih =>
    unfold W.flushEnded
    split
    · next x _ _ =>
      split
      · dsimp only
        refine List.Subset.trans (ih _) ?_
        rw [(W.finish_only ..).events.step, W.closeOpened, W.each_same (·.step) _ _ _ fun _ _ => W.closeRequest_step ..]
        exact List.filter_subset_self w.step.steps
      · exact List.Subset.refl _
    · exact List.Subset.refl _

@[simp] theorem W.settlePrograms_steps : w.settlePrograms.step.steps = w.step.steps := by
  refine W.each_same (·.step.steps) _ _ _ fun p v => ?_
  exact (congrArg StepSys.steps (W.finishAll_only ..).events.step).trans (W.each_same (·.step.steps) _ _ v fun _ _ => rfl)

@[simp] theorem W.settleAborts_step : w.settleAborts.step = w.step :=
  W.each_same (·.step) _ _ w fun j v => (v.parFinish_only j.id .ok _).events.step

/-- A step that had not ended is over once it ends. -/
theorem W.endStep_over {x : Step} {id : Nat} (hx : w.stepOf id = some x) (hrun : x.phase ≠ .ended) (st : Status) (d : Detail) :
    (w.endStep id st d).Over id := by
  unfold W.endStep
  rw [hx]
  dsimp only
  rw [if_neg hrun]
  generalize W.each (W.writeRequests _ _ st) _ _ = v
  have hended := v.over_modStep (id := id) (f := fun y =>
    { y with phase := .ended, failed := some (st, d), tasks := [], binds := [], adapters := [], tickets := [] }) fun _ => rfl
  refine W.Over.of_step ?_ (W.settleAborts_step _)
  refine W.Over.of_steps ?_ (W.settlePrograms_steps _)
  refine W.Over.of_subset (hended.of_step ?_) (W.flushEnded_subset ..)
  rw [W.ite_step _ (W.event_only ..).step, W.ite_step _ (W.count_step ..), W.ite_step _ (W.with_step _ _ _ fun _ _ => W.countAbort_step ..)]
  exact W.each_same (·.step) _ _ _ fun _ _ => W.settleCold_step ..

/-- A step that waits for its admission is over once it fails. -/
theorem W.failStep_over {x : Step} {id : Nat} (hx : w.stepOf id = some x) (hwait : x.phase = .read ∨ x.phase = .staged) (st : Status)
    (d : Detail) : (w.failStep id st d).Over id := by
  have hadm : x.admitted = false := by rcases hwait with h | h <;> simp [Step.admitted, h]
  have hrun : x.phase ≠ .ended := by rcases hwait with h | h <;> simp [h]
  have hsquashed : ∃ y, (w.squash id).stepOf id = some y ∧ y.phase ≠ .ended := by
    unfold W.squash
    rw [hx]
    dsimp only
    split
    · exact ⟨_, (W.stepOf_of_step (W.count_step ..) id).trans (W.stepOf_modStep_some hx fun _ => rfl), by simp⟩
    · exact ⟨x, hx, hrun⟩
  unfold W.failStep
  rw [hx]
  dsimp only
  rw [hadm, Bool.not_false, if_pos rfl, if_neg hrun]
  obtain ⟨y, hy, hopen⟩ := hsquashed
  exact W.endStep_over _ hy hopen st d

/-- A step whose requests carry what their refusal says. -/
def Step.refused (rs : List ReqEntry) (y : Step) : Step := { y with requests := rs, taken := rs.map fun _ => 0 }

theorem Step.refused_id (rs : List ReqEntry) (y : Step) : (y.refused rs).id = y.id := rfl

/-- A step that is refused at admission is over. -/
theorem W.refuseStep_over {x : Step} (hx : w.stepOf x.id = some x) (hwait : x.phase = .read ∨ x.phase = .staged) (st : Status)
    (d : Detail) (rs : List ReqEntry) : (w.refuseStep x st d rs).Over x.id := by
  unfold W.refuseStep
  dsimp only
  generalize hv : W.each _ (rs.filter _) _ = v
  have hsteps : v.step.steps = w.step.steps := by
    rw [← hv, W.each_same (·.step.steps) _ _ _ fun _ _ => congrArg StepSys.steps (W.closeRequest_step ..)]
    split
    · split
      · next h => cases h
      · rfl
    · split
      · exact congrArg StepSys.steps (W.step_of_barrier (W.listTileBad_barrier ..))
      · rfl
  have hover (u : W) (hu : u.step.steps = w.step.steps) : ((u.modStep x.id (Step.refused rs)).failStep x.id st d).Over x.id :=
    W.failStep_over _ (W.stepOf_modStep_some ((W.stepOf_of_steps hu x.id).trans hx) (Step.refused_id rs)) hwait st d
  split
  · exact hover _ hsteps
  · exact hover v hsteps

end

end Sys2Proof.Machine
end

section
/-! PROOFS. STEP_ADMIT (R235): the head step of a ring at its boundary is admitted, or refused. -/

namespace Sys2Proof.Machine

/-- A ring on which no evaluation is due misses none. -/
theorem W.missEval_idle {w : W} {n r : Nat} (h : (w.sched n r).evalDue = none) : w.missEval n r = w := by rw [W.missEval, h]

section
variable {s : State} {n r : Nat} {x : Step} {P : State → Prop} (hpick : s.work.admitPick n = some r)
  (heval : (s.work.sched n r).evalDue = none) (hx : s.work.ringHead n r = some x)
include hpick heval hx

/-- The head step passes the checks, and all its adapters have their factors. -/
theorem State.stepAdmit_takes {a : Admission} (hok : s.work.admitCheck x = .ok a) (hcold : s.work.coldOnes a = [])
    (hP : P (s.take (s.work.takeIn x a))) : Ends (.stepAdmit n r) s P := by
  refine ⟨_, rfl, ?_⟩
  dsimp only
  rw [hpick, beq_self_eq_true, W.if_true, W.missEval_idle heval, hx, W.with_some, hok]
  dsimp only
  rw [hcold]
  exact hP

/-- A check refuses the head step. -/
theorem State.stepAdmit_refuses {st : Status} {d : Detail} {rs : List ReqEntry} (herr : s.work.admitCheck x = .error (st, d, rs))
    (hP : P (s.take (s.work.refuseStep x st d rs))) : Ends (.stepAdmit n r) s P := by
  refine ⟨_, rfl, ?_⟩
  dsimp only
  rw [hpick, beq_self_eq_true, W.if_true, W.missEval_idle heval, hx, W.with_some, herr]
  exact hP

end

/-- Settles O27: an admission shows in the ledger of its span, which the placement of the tasks leaves; a refusal ends the step. -/
theorem admissionStartsComputePhase : Obligations.AdmissionStartsComputePhase := by
  refine ⟨?_, ?_⟩
  · intro n r x a s hpick heval hx hok hcold
    obtain ⟨hmem, rfl, -⟩ := W.ringHead_waits hx
    exact State.stepAdmit_takes hpick heval hx hok hcold
      ⟨s.work.takeIn_admits x a hmem, s.work.takeIn_counted x a, s.work.takeIn_seed x a⟩
  · intro n r x st d rs s hpick heval hx hfound herr
    exact State.stepAdmit_refuses hpick heval hx herr (W.refuseStep_over _ hfound (W.ringHead_waits hx).2.2 st d rs)

end Sys2Proof.Machine
end

section
/-! PROOFS. DETAIL of a reply (R262), and the state after reset (R270, R287, R297, R376). -/

namespace Sys2Proof.Machine

/-! ### DETAIL (R262) -/

theorem Detail.bits64_lt (d : Detail) : d.bits64 < 2 ^ 64 := by
  cases d with
  | token c x t p => cases p <;> simp only [Detail.bits64, Bool.false_eq_true, if_true, if_false] <;> omega
  | _ => simp only [Detail.bits64]; omega

/-- Settles O58: each kind's fields lie apart in its 56 bits. -/
theorem detailCarriesItsKindAndValue : Obligations.DetailCarriesItsKindAndValue := by
  unfold Obligations.DetailCarriesItsKindAndValue
  refine ⟨Detail.bits64_lt, rfl, fun a => ?addr, fun k i => ?index, fun c x k b => ?token, fun r => ?rank, fun n => ?count,
    fun n => ?expectSeq, fun f b => ?pipeline⟩
  case token => cases b <;> simp [Detail.bits64, bits, bit] <;> omega
  all_goals simp only [Detail.bits64, bits]; omega

/-! ### Reset -/

theorem State.reset_byte (a : Nat) : State.reset.byte a = memBlank a := rfl

theorem State.reset_ring (fn r : Nat) : State.reset.work.ring fn r = {} := rfl

/-- Span 0 alone exists (R287). -/
theorem State.reset_sp_absent {n : Nat} (h : n ≠ 0) : (State.reset.work.sp n).mode = .absent := by
  show (Span.atReset n).mode = .absent
  simp [Span.atReset, h]

/-- Settles O4: every numbered array is empty at reset and reads as its default. -/
theorem resetStateIsAsTheSpecAndTheLogSay : Obligations.ResetStateIsAsTheSpecAndTheLogSay := by
  unfold Obligations.ResetStateIsAsTheSpecAndTheLogSay
  refine ⟨⟨rfl, State.reset_byte⟩, by decide, fun fn r => ?rings, rfl, fun n hn => State.reset_sp_absent hn, rfl, rfl, rfl, rfl⟩
  case rings => simp [State.reset_ring]

end Sys2Proof.Machine
end

section
/-! PROOFS. STEP_SUBMIT while a firmware activation drains (R393): its packet waits in its ring, and so is not refused either
(R259, R284). -/

namespace Sys2Proof.Machine

/-- During an activation a STEP_SUBMIT does nothing. -/
theorem State.stepSubmit_waits {s : State} (p : Pkt) (h : s.work.activating = true) :
    exec (.stepSubmit p) s = .next (s.take s.work) := by
  show execStepSubmit p s = _
  simp [execStepSubmit, State.act, W.if, h]

/-- So its packet gets no reply. -/
theorem State.stepSubmit_unanswered {s : State} {p : Pkt} {st : Status} {d : Detail} {Q : State → Prop} (h : s.work.activating = true)
    (e : Ends (.stepSubmit p) s fun t => Answered s t p st d ∧ Q t) : False := by
  obtain ⟨t, ht, ⟨l, hl, ho⟩, -⟩ := e
  obtain rfl := Host.Outcome.next.inj ((State.stepSubmit_waits p h).symm.trans ht)
  rw [show l = [] from List.append_left_eq_self.1 hl.symm] at ho
  exact List.not_mem_nil ho

/-- An activation that drains, and a packet in ring 0 of span `n`, which stands in mode `m`. -/
def State.draining (n : Nat) (m : SpanMode) : State :=
  { State.reset with dev :=
    { State.reset.dev with
      fw.act := 1,
      cmd.rings := [(16 * n, { en := true, sqTail := 1 })],
      span.spans := [(n, { Span.atReset n with mode := m })] } }

/-- A STEP_SUBMIT from function `n` that names span `k`. -/
def submitFrom (n k : Nat) : Pkt :=
  { fn := n, ring := 0, flags := 0#16, span := BitVec.ofNat 8 k, seq := 0#24, tag := 0#32, body := List.replicate 52 0#8, block := [] }

/-- Refutes O5: a STEP_SUBMIT that names another span than its ring's waits while a firmware activation drains; it gets no
ST_REFUSED_PERMISSION. -/
theorem not_badPacketsAreRefusedInOrder : ¬ Obligations.BadPacketsAreRefusedInOrder := by
  unfold Obligations.BadPacketsAreRefusedInOrder
  rintro ⟨h, -⟩
  refine State.stepSubmit_unanswered (s := .draining 0 .active) (p := submitFrom 0 1) (by decide +kernel)
    (h _ opStepSubmit _ _ .refusedPermission .none rfl (by decide +kernel) (.inl ⟨?_, rfl, rfl⟩))
  decide

/-- Refutes O6: a STEP_SUBMIT of a frozen span waits while a firmware activation drains; it gets no ST_RETRY_LATER. -/
theorem not_commandsAreTurnedAwayByIssuerModeAndState : ¬ Obligations.CommandsAreTurnedAwayByIssuerModeAndState := by
  unfold Obligations.CommandsAreTurnedAwayByIssuerModeAndState
  intro h
  refine State.stepSubmit_unanswered (s := .draining 1 .frozen) (p := submitFrom 1 1) (by decide +kernel)
    (h _ opStepSubmit _ _ .retryLater rfl (by decide +kernel) (by decide +kernel) (.inr (.inr (.inl ⟨?_, ?_, ?_, rfl, rfl⟩))))
  · decide
  · decide
  · decide +kernel

end Sys2Proof.Machine
end

section
/-! PROOFS. NOP, QUERY and FENCE (R265, R266, R268): what a reply leaves of a ring, and when a FENCE is open. -/

namespace Sys2Proof.Machine

/-! ### The submission side of a ring -/

/-- A ring without its completion side (R256): what the BN2 reads packets by. -/
def Ring.submission (g : Ring) : Ring := { g with cqTail := 0, cqPhase := true, cqUsed := 0, held := [], unsig := 0 }

section
variable (w : W) (fn r : Nat)

theorem W.modRing_submission (a b : Nat) {f : Ring → Ring} (h : ∀ g, (f g).submission = g.submission) :
    ((w.modRing a b f).ring fn r).submission = (w.ring fn r).submission := by
  rw [W.ring_modRing]
  split
  · next e => rw [h, W.ring, W.ring, e]
  · rfl

@[simp] theorem W.signal_ring (a v : Nat) : (w.signal a v).ring fn r = w.ring fn r := by
  unfold W.signal
  split
  · rfl
  · split <;> rfl

@[simp] theorem W.signalRing_submission (a b : Nat) : ((w.signalRing a b).ring fn r).submission = (w.ring fn r).submission :=
  (congrArg Ring.submission (W.signal_ring ..)).trans (w.modRing_submission fn r a b fun _ => rfl)

@[simp] theorem W.writeReply_submission (a b : Nat) (now : Bool) (x : Reply) :
    ((w.writeReply a b now x).ring fn r).submission = (w.ring fn r).submission := by
  have h (o : Out) (n : Nat) := (w.emit o).modRing_submission fn r a b (f := fun g =>
    { g with cqTail := (g.cqTail + 1) % n, cqPhase := if g.cqTail + 1 = n then !g.cqPhase else g.cqPhase,
             cqUsed := g.cqUsed + 1, unsig := g.unsig + 1 }) fun _ => rfl
  unfold W.writeReply
  dsimp only
  split
  · exact (W.signalRing_submission ..).trans (h ..)
  · exact h ..

@[simp] theorem W.reply_submission (a b : Nat) (now : Bool) (x : Reply) (f : Option Nat) :
    ((w.reply a b now x f).ring fn r).submission = (w.ring fn r).submission := by
  unfold W.reply
  dsimp only
  split
  · rfl
  · split
    · exact w.modRing_submission fn r a b fun _ => rfl
    · exact w.writeReply_submission ..

@[simp] theorem W.answer_submission (c : Cmd) (st : Status) (d : Detail) (r0 r1 : Nat) :
    ((w.answer c st d r0 r1).ring fn r).submission = (w.ring fn r).submission := w.reply_submission ..

@[simp] theorem W.finish_submission (i : Nat) (st : Status) (d : Detail) (r0 r1 : Nat) :
    ((w.finish i st d r0 r1).ring fn r).submission = (w.ring fn r).submission := by
  unfold W.finish
  split
  · rfl
  · exact W.answer_submission ..

end

/-- The ring has moved on by the packet that was taken, and what came after left its submission side. -/
theorem Moved.of_submission {s : State} {w : W} {p : Pkt}
    (h : (w.ring p.fn p.ring).submission = ((s.work.taken p).ring p.fn p.ring).submission) : Moved s (s.take w) p := by
  rw [W.taken_ring] at h
  exact ⟨congrArg Ring.sqHead h, congrArg Ring.nextSeq h⟩

/-- A command that starts and is answered at once has its reply, and its ring has moved on. -/
theorem State.answer_starts {s : State} {o : OpInfo} {p : Pkt} (h : s.starts o p = true) (st : Status) (d : Detail) (r0 r1 : Nat) :
    Answered s (s.take ((s.work.taken p).answer (s.work.cmdOf o p) st d r0 r1)) p st d r0 r1
      ∧ Moved s (s.take ((s.work.taken p).answer (s.work.cmdOf o p) st d r0 r1)) p :=
  ⟨State.answered_of_starts h rfl rfl st d r0 r1, .of_submission (W.answer_submission ..)⟩

/-! ### NOP and QUERY (R266, R268) -/

theorem State.nop_goes {s : State} {p : Pkt} (h : s.starts opNop p = true) :
    exec (.nop p) s = .next (s.take ((s.work.taken p).answer (s.work.cmdOf opNop p) .ok)) := State.act_starts h _

/-- A QUERY whose item the BN2 knows. -/
theorem State.query_knows {s : State} {p : Pkt} {a b : Nat} (h : s.starts opQuery p = true)
    (hq : (s.work.taken p).query p.fn (p.arg 12 1) (p.arg 14 2) = some (a, b)) :
    Ends (.query p) s fun t => Moved s t p ∧ Answered s t p .ok .none a b := by
  refine ⟨_, State.act_starts h _, ?_⟩
  rw [show (s.work.cmdOf opQuery p).fn = p.fn from rfl, hq]
  exact (State.answer_starts h ..).symm

/-- A QUERY whose item it does not know. -/
theorem State.query_refuses {s : State} {p : Pkt} (h : s.starts opQuery p = true)
    (hq : (s.work.taken p).query p.fn (p.arg 12 1) (p.arg 14 2) = none) :
    Ends (.query p) s fun t => Moved s t p ∧ Answered s t p .refusedFormat := by
  refine ⟨_, State.act_starts h _, ?_⟩
  rw [show (s.work.cmdOf opQuery p).fn = p.fn from rfl, hq]
  exact (State.answer_starts h ..).symm

theorem W.query_above {n item : Nat} (w : W) (h : 5 < item) (i : Nat) : w.query n item i = none := by
  unfold W.query
  split <;> first | omega | rfl

/-! ### FENCE (R265) -/

/-- No command that a FENCE of span `fn` waits for is in progress, or has its final reply held. -/
theorem W.fenceOpen_iff (w : W) (fn id : Nat) : w.fenceOpen fn id = true ↔
    (∀ c ∈ w.cmd.cmds, c.fn = fn → id ≤ c.id ∨ ∃ x ∈ w.step.steps, x.cmd = c.id ∧ x.phase = .ended)
      ∧ ∀ r < 16, ∀ h ∈ (w.ring fn r).held, ∀ i, h.2.2 = some i → id ≤ i := by
  have hheld (o : Option Nat) : (o.map fun i => decide (id ≤ i)).getD true = true ↔ ∀ i, o = some i → id ≤ i := by
    cases o <;> simp
  have hcmd (c : Cmd) : ¬ ((c.fn == fn && decide (c.id < id) && !(w.step.steps.any fun x => x.cmd == c.id && x.phase == .ended)) = true)
      ↔ (c.fn = fn → id ≤ c.id ∨ ∃ x ∈ w.step.steps, x.cmd = c.id ∧ x.phase = .ended) := by
    simp only [Bool.and_eq_true, beq_iff_eq, decide_eq_true_eq, Bool.not_eq_true', Bool.eq_false_iff, List.any_eq_true, ne_eq,
      not_and, Decidable.not_not, ← Nat.not_lt]
    tauto
  rw [W.fenceOpen, Bool.and_eq_true, Bool.not_eq_true', List.any_eq_false, List.all_eq_true]
  simp only [List.mem_range, List.all_eq_true, hheld]
  exact and_congr_left fun _ => forall₂_congr fun c _ => hcmd c

/-- Taking a packet holds no reply back. -/
theorem W.taken_held (w : W) (p : Pkt) (fn r : Nat) : ((w.taken p).ring fn r).held = (w.ring fn r).held := by
  have h (v : W) (f : Ring → Ring) (hf : ∀ g, (f g).held = g.held) : ((v.modRing p.fn p.ring f).ring fn r).held = (v.ring fn r).held := by
    rw [W.ring_modRing]
    split
    · next e => rw [hf, W.ring, W.ring, e]
    · rfl
  exact (h _ (fun g => { g with nextSeq := (g.nextSeq + 1) % 2 ^ 24 }) fun _ => rfl).trans (h _ _ fun _ => rfl)

/-- Taking its own packet leaves a FENCE open or not. -/
theorem W.fenceOpen_taken (w : W) (p : Pkt) (fn id : Nat) : (w.taken p).fenceOpen fn id = w.fenceOpen fn id := by
  rw [Bool.eq_iff_iff, W.fenceOpen_iff, W.fenceOpen_iff]
  simp only [W.taken_held]
  rfl

/-- What a FENCE does when it starts. -/
def W.fence (w : W) (c : Cmd) : W :=
  if w.fenceOpen c.fn c.id then w.answer c .ok else (w.begin c).modRing c.fn c.ring fun g => { g with fence := some c.id }

theorem State.fence_goes {s : State} {p : Pkt} (h : s.starts opFence p = true) :
    exec (.fence p) s = .next (s.take ((s.work.taken p).fence (s.work.cmdOf opFence p))) := State.act_starts h _

theorem State.fence_answers {s : State} {p : Pkt} (h : s.starts opFence p = true) (ho : s.work.fenceOpen p.fn s.dev.cmd.nextId = true) :
    Ends (.fence p) s fun t => Answered s t p .ok ∧ Moved s t p := by
  refine ⟨_, State.fence_goes h, ?_⟩
  rw [W.fence, if_pos (show (s.work.taken p).fenceOpen (s.work.cmdOf opFence p).fn (s.work.cmdOf opFence p).id = true from
    (W.fenceOpen_taken ..).trans ho)]
  exact State.answer_starts h ..

theorem State.fence_waits {s : State} {p : Pkt} (h : s.starts opFence p = true) (ho : s.work.fenceOpen p.fn s.dev.cmd.nextId ≠ true) :
    Ends (.fence p) s fun t => (t.work.ring p.fn p.ring).fence = some s.dev.cmd.nextId ∧ Moved s t p
      ∧ s.work.cmdOf opFence p ∈ t.dev.cmd.cmds := by
  refine ⟨_, State.fence_goes h, ?_⟩
  rw [W.fence, if_neg (show (s.work.taken p).fenceOpen (s.work.cmdOf opFence p).fn (s.work.cmdOf opFence p).id ≠ true from
    fun e => ho ((W.fenceOpen_taken ..).symm.trans e))]
  have hring : (((s.work.taken p).begin (s.work.cmdOf opFence p)).modRing p.fn p.ring fun g => { g with fence := some s.dev.cmd.nextId }).ring
      p.fn p.ring = { (s.work.taken p).ring p.fn p.ring with fence := some s.dev.cmd.nextId } := W.ring_modRing_self ..
  rw [W.taken_ring] at hring
  refine ⟨congrArg Ring.fence hring, ⟨congrArg Ring.sqHead hring, congrArg Ring.nextSeq hring⟩, ?_⟩
  exact List.mem_append_right _ (List.mem_singleton_self _)

/-- FENCE_COMPLETE of a ring whose FENCE is open. -/
theorem State.fenceComplete_goes {s : State} {fn r id : Nat} (hf : (s.work.ring fn r).fence = some id)
    (ho : s.work.fenceOpen fn id = true) :
    exec (.fenceComplete fn r) s = .next (s.take ((s.work.modRing fn r fun g => { g with fence := none }).finish id .ok)) := by
  show execFenceComplete fn r s = _
  simp [execFenceComplete, State.act, W.with, W.if, hf, ho]

theorem State.fenceComplete_ends {s : State} {fn r id : Nat} (hf : (s.work.ring fn r).fence = some id)
    (ho : s.work.fenceOpen fn id = true) :
    Ends (.fenceComplete fn r) s fun t => (t.work.ring fn r).fence = none ∧ Finished s t id .ok := by
  have htalks := s.work.modRing_talks fn r (fun g => { g with fence := none }) fun _ => rfl
  refine ⟨_, State.fenceComplete_goes hf ho, ?_, W.finish_finished_of_talks htalks rfl id .ok .none 0⟩
  have h := (s.work.modRing fn r fun g => { g with fence := none }).finish_submission fn r id .ok .none 0 0
  rw [W.ring_modRing_self] at h
  exact congrArg Ring.fence h

/-- Settles O7: each of the three is answered at once from the packet taken, and a FENCE waits exactly while it is not open. -/
theorem nopQueryAndFenceReply : Obligations.NopQueryAndFenceReply := by
  unfold Obligations.NopQueryAndFenceReply
  refine ⟨fun p s h => ?nop, fun p s h hi => ?programs, fun p s h hi => ?adapters, fun p s h hi => ?above,
    fun p s h hc hh => ?answers, fun p s h hbusy => ?waits, fun fn r id s hf hc hh => ?completes⟩
  case nop => exact ⟨_, State.nop_goes h, State.answer_starts h ..⟩
  case programs => exact State.query_knows h (by rw [hi]; rfl)
  case adapters => exact State.query_knows h (by rw [hi]; rfl)
  case above => exact State.query_refuses h (W.query_above _ hi _)
  case answers => exact State.fence_answers h ((W.fenceOpen_iff ..).2 ⟨hc, hh⟩)
  case waits =>
    refine State.fence_waits h fun ho => ?_
    obtain ⟨hc, hh⟩ := (W.fenceOpen_iff ..).1 ho
    rcases hbusy with ⟨c, hm, hfn, hlt, hnone⟩ | ⟨r, hr, x, hx, i, hi, hxi⟩
    · rcases hc c hm hfn with hle | ⟨x, hx, hcmd, hph⟩
      · exact absurd hle (Nat.not_le.2 hlt)
      · exact hnone x hx hcmd hph
    · exact absurd (hh r hr x hx i hxi) (Nat.not_le.2 hi)
  case completes => exact State.fenceComplete_ends hf ((W.fenceOpen_iff ..).2 ⟨hc, hh⟩)

end Sys2Proof.Machine
end

section
/-! PROOFS. Rings that are enabled, rung and disabled, and the interrupts of a ring (R253, R254, R256, R276, R279). -/

namespace Sys2Proof.Machine

/-! ### Fields of a register that the host writes (R7, R8) -/

theorem bit_eq_testBit (v i : Nat) : bit v i = v.testBit i := by
  rw [bit, Nat.testBit_eq_decide_div_mod_eq, ← Nat.shiftRight_eq_div_pow]
  rfl

theorem testBit_bits (v hi lo i : Nat) : (bits v hi lo).testBit i = (decide (i < hi + 1 - lo) && v.testBit (i + lo)) := by
  rw [bits, Nat.testBit_mod_two_pow, Nat.testBit_div_two_pow]

/-- Taking away the bits under a mask clears them. -/
theorem sub_and_eq_and_not {n : Nat} (x m : BitVec n) : x - (x &&& m) = x &&& ~~~m := by
  have h : (x &&& m) + (x &&& ~~~m) = x := by
    rw [BitVec.add_eq_or_of_and_eq_zero]
    · ext i hi; simp; cases x[i] <;> simp
    · ext i hi; simp; tauto
  rw [BitVec.sub_eq_iff_eq_add, BitVec.add_comm, h]

theorem W.regv_setReg (w : W) (fn off v : Nat) : (w.setReg fn off v).regv fn off = v % 2 ^ 32 := by
  rw [W.regv, W.setReg, Sparse.get_put_self, BitVec.toNat_ofNat]

theorem W.regv_lt (w : W) (fn off : Nat) : w.regv fn off < 2 ^ 32 := BitVec.isLt _

/-- A written register holds the new value where it is writable and the old one elsewhere. -/
theorem W.testBit_writeBits (w : W) (fn off v mask : Nat) {i : Nat} (hi : i < 32) :
    ((w.writeBits fn off v mask).regv fn off).testBit i = if mask.testBit i then v.testBit i else (w.regv fn off).testBit i := by
  have hle : w.regv fn off &&& mask ≤ w.regv fn off := Nat.and_le_left
  have hkept : BitVec.ofNat 32 (w.regv fn off - (w.regv fn off &&& mask))
      = BitVec.ofNat 32 (w.regv fn off) &&& ~~~BitVec.ofNat 32 mask := by
    rw [← sub_and_eq_and_not, ← BitVec.ofNat_and, BitVec.ofNat_sub_ofNat_of_le _ _ (hle.trans_lt (w.regv_lt fn off)) hle]
  rw [W.writeBits, W.regv_setReg, ← BitVec.toNat_ofNat, BitVec.testBit_toNat, BitVec.ofNat_or, hkept, BitVec.ofNat_and]
  simp only [BitVec.getLsbD_or, BitVec.getLsbD_and, BitVec.getLsbD_not, BitVec.getLsbD_ofNat, hi, decide_true, Bool.true_and]
  cases mask.testBit i <;> simp

/-- A writable field of a written register holds the field of the new value. -/
theorem W.bits_writeBits (w : W) (fn off v : Nat) {mask hi lo : Nat} (hhi : hi < 32) (hm : ∀ i, lo ≤ i → i ≤ hi → mask.testBit i = true) :
    bits ((w.writeBits fn off v mask).regv fn off) hi lo = bits v hi lo := by
  refine Nat.eq_of_testBit_eq fun i => ?_
  rw [testBit_bits, testBit_bits]
  by_cases h : i < hi + 1 - lo
  · rw [w.testBit_writeBits fn off v mask (by omega), if_pos (hm _ (by omega) (by omega))]
  · simp [h]

/-- Setting a bit above a field leaves the field. -/
theorem bits_or_high (v : Nat) {hi lo k : Nat} (h : hi < k) : bits (v ||| 2 ^ k) hi lo = bits v hi lo := by
  refine Nat.eq_of_testBit_eq fun i => ?_
  rw [testBit_bits, testBit_bits]
  by_cases hi' : i < hi + 1 - lo
  · rw [Nat.testBit_or, Nat.testBit_two_pow_of_ne (by omega), Bool.or_false]
  · simp [hi']

/-! ### Doorbells (R254, R256) -/

section
variable (w : W) (fn r : Nat)

@[simp] theorem W.wakeUp_ring : w.wakeUp.ring fn r = w.ring fn r := by unfold W.wakeUp; split <;> rfl

@[simp] theorem W.wakeUp_entries : w.wakeUp.entries fn r = w.entries fn r := by unfold W.wakeUp; split <;> rfl

/-- A ring that is changed, as the state that is left holds it. -/
theorem State.take_modRing (s : State) (f : Ring → Ring) : (s.take (w.modRing fn r f)).work.ring fn r = f (w.ring fn r) :=
  w.ring_modRing_self fn r f

end

/-- The conditions of a BAR0 access to a ring. -/
theorem State.busRing {s : State} {fn r : Nat} (hbus : s.work.busUp = true) (hfn : fn < 64) (hr : r < 16) :
    (s.work.busUp && decide (fn < 64) && decide (r < 16)) = true := by simp [hbus, hfn, hr]

section
variable {s : State} {fn r : Nat} {v : Word}

theorem State.sqTail_goes (hok : (s.work.busUp && decide (fn < 64) && decide (r < 16)) = true) :
    exec (.sqTail fn r v) s = .next (s.take (
      if s.work.entries fn r ≤ v.toNat % 65536 then s.work.wakeUp.badBell fn r
      else if (s.work.ring fn r).en then s.work.wakeUp.modRing fn r fun g => { g with sqTail := v.toNat % 65536 } else s.work.wakeUp)) := by
  show execSqTail fn r v s = _
  simp [execSqTail, State.act, W.if, hok]

/-- CQ_HEAD with an index of the ring: what of the completion ring is the host's no more. -/
def Ring.returned (g : Ring) (i n : Nat) : Ring := { g with cqHead := i, cqUsed := g.cqUsed - (i + n - g.cqHead) % n }

theorem State.cqHead_goes (hok : (s.work.busUp && decide (fn < 64) && decide (r < 16)) = true) :
    exec (.cqHead fn r v) s = .next (s.take (
      if s.work.entries fn r ≤ v.toNat % 65536 then s.work.wakeUp.badBell fn r
      else if !(s.work.ring fn r).en && !(s.work.ring fn r).stopping then s.work.wakeUp
      else
        let w := s.work.wakeUp.modRing fn r fun g => g.returned (v.toNat % 65536) (s.work.entries fn r)
        w.releaseHeld (w.ring fn r).held.length fn r)) := by
  show execCqHead fn r v s = _
  simp [execCqHead, State.act, W.if, hok, Ring.returned]

end

/-! ### Enabling and disabling (R253, R279) -/

/-- A ring that starts afresh (R253). -/
def Ring.started (g : Ring) : Ring :=
  { g with en := true, stopping := false, nextSeq := 0, sqHead := 0, sqTail := 0, cqTail := 0, cqPhase := true, cqHead := 0,
           cqUsed := 0, unsig := 0 }

section
variable {w : W} {fn r v : Nat}

/-- RING_CFG as a write that sets EN leaves it: SIZE_LOG2 and VECTOR are those written. -/
theorem W.sizeLog2_writeCfg : (w.writeBits fn (ringBase r + 16) (v ||| 0x80000000) 0x003F031F).sizeLog2 fn r = v % 32 := by
  have h := w.bits_writeBits fn (ringBase r + 16) (v ||| 2 ^ 31) (mask := 0x003F031F) (hi := 4) (lo := 0) (by omega)
    fun i _ hi => by interval_cases i <;> rfl
  rw [bits_or_high v (by omega)] at h
  rw [W.sizeLog2, W.ringCfg]
  simpa [bits] using h

theorem W.ringVector_writeCfg :
    (w.writeBits fn (ringBase r + 16) (v ||| 0x80000000) 0x003F031F).ringVector fn r = bits v 21 16 := by
  have h := w.bits_writeBits fn (ringBase r + 16) (v ||| 2 ^ 31) (mask := 0x003F031F) (hi := 21) (lo := 16) (by omega)
    fun i lo hi => by interval_cases i <;> rfl
  rwa [bits_or_high v (by omega)] at h

/-- A write that sets EN with a good SIZE_LOG2 and a vector of the span starts the ring. -/
theorem W.enableRing_starts (hen : (w.ring fn r).en = false) (hlo : 6 ≤ v % 32) (hhi : v % 32 ≤ 16) (hmode : (w.sp fn).mode ≠ .absent)
    (hvec : bits v 21 16 < (w.sp fn).vectors) :
    w.enableRing fn r (v ||| 0x80000000)
      = (w.writeBits fn (ringBase r + 16) (v ||| 0x80000000) 0x003F031F).modRing fn r Ring.started := by
  have hgood : ¬ (v % 32 < 6 ∨ 16 < v % 32 ∨ (w.sp fn).mode = .absent ∨ (w.sp fn).vectors ≤ bits v 21 16) := by
    rintro (h | h | h | h)
    · exact absurd h (Nat.not_lt.2 hlo)
    · exact absurd h (Nat.not_lt.2 hhi)
    · exact hmode h
    · exact absurd h (Nat.not_le.2 hvec)
  rw [← W.sizeLog2_writeCfg (w := w) (fn := fn) (r := r), ← W.ringVector_writeCfg (w := w) (fn := fn) (r := r)] at hgood
  rw [W.enableRing, if_neg (by rw [hen]; decide)]
  exact if_neg hgood

end

section
variable {s : State} {fn r : Nat}

theorem State.ringEnable_starts {v : Word} (hok : (s.work.busUp && decide (fn < 64) && decide (r < 16)) = true)
    (hen : (s.work.ring fn r).en = false) (hlo : 6 ≤ v.toNat % 32) (hhi : v.toNat % 32 ≤ 16) (hmode : (s.work.sp fn).mode ≠ .absent)
    (hvec : bits v.toNat 21 16 < (s.work.sp fn).vectors) :
    exec (.ringEnable fn r v) s = .next (s.take
      ((s.work.writeBits fn (ringBase r + 16) (v.toNat ||| 0x80000000) 0x003F031F).modRing fn r Ring.started)) := by
  show execRingEnable fn r v s = _
  simp only [execRingEnable, State.act, W.if, hok, if_true, W.enableRing_starts hen hlo hhi hmode hvec]

theorem State.ringDisable_stops (hbus : s.work.busUp = true) (hen : (s.work.ring fn r).en = true) :
    exec (.ringDisable fn r) s = .next (s.take (s.work.modRing fn r fun g => { g with en := false, stopping := true })) := by
  show execRingDisable fn r s = _
  simp [execRingDisable, State.act, W.if, hbus, W.disableRing, hen]

theorem State.ringDisabled_goes (hstop : (s.work.ring fn r).stopping = true) (hheld : (s.work.ring fn r).held = [])
    (hidle : ∀ c ∈ s.dev.cmd.cmds, ¬ (c.fn = fn ∧ c.ring = r)) :
    exec (.ringDisabled fn r) s = .next (s.take (s.work.modRing fn r fun g => { g with stopping := false })) := by
  have hnone : (s.work.cmd.cmds.any fun c => c.fn == fn && c.ring == r) = false := by
    rw [List.any_eq_false]
    simpa using hidle
  show execRingDisabled fn r s = _
  simp only [execRingDisabled, State.act, W.if, hstop, hheld, hnone, List.isEmpty_nil, Bool.and_self, Bool.not_false, if_true]

end

/-- Settles O8: each access by what it makes of the ring. -/
theorem ringsAreEnabledRungAndDisabled : Obligations.RingsAreEnabledRungAndDisabled := by
  unfold Obligations.RingsAreEnabledRungAndDisabled
  refine ⟨fun fn r v s hbus hfn hr hen hi => ?tail, fun fn r v s hbus hfn hr hen hheld hi => ?head, fun fn r v s hbus hfn hr hi => ?bad,
    fun fn r v s hbus hfn hr hen hlo hhi hmode hvec => ?enable, fun fn r s hbus hen => ?disable, fun fn r s hstop hheld hidle => ?disabled⟩
  case tail =>
    have e := State.sqTail_goes (v := v) (State.busRing hbus hfn hr)
    rw [if_neg (Nat.not_le.2 hi), if_pos hen] at e
    exact ⟨_, e, (State.take_modRing ..).trans (by rw [W.wakeUp_ring])⟩
  case head =>
    have e := State.cqHead_goes (v := v) (State.busRing hbus hfn hr)
    have hnone : ((s.work.wakeUp.modRing fn r fun g => g.returned (v.toNat % 65536) (s.work.entries fn r)).ring fn r).held.length = 0 := by
      rw [W.ring_modRing_self, W.wakeUp_ring]
      exact congrArg List.length hheld
    rw [if_neg (Nat.not_le.2 hi), if_neg (by rw [hen]; simp)] at e
    dsimp only at e
    rw [hnone] at e
    exact ⟨_, e, (State.take_modRing ..).trans (by rw [W.wakeUp_ring]; rfl)⟩
  case bad =>
    have hbell : (s.take (s.work.wakeUp.badBell fn r)).work.ring fn r
        = { s.work.ring fn r with badBell := min 63 ((s.work.ring fn r).badBell + 1) } := by
      rw [W.badBell, State.take_modRing, W.wakeUp_ring]
    have htail := State.sqTail_goes (v := v) (State.busRing hbus hfn hr)
    have hhead := State.cqHead_goes (v := v) (State.busRing hbus hfn hr)
    rw [if_pos hi] at htail hhead
    exact ⟨⟨_, htail, hbell⟩, ⟨_, hhead, hbell⟩⟩
  case enable =>
    have e := State.ringEnable_starts (State.busRing hbus hfn hr) hen hlo hhi hmode hvec
    have hring := State.take_modRing (s.work.writeBits fn (ringBase r + 16) (v.toNat ||| 0x80000000) 0x003F031F) fn r s Ring.started
    refine ⟨_, e, ?_⟩
    dsimp only
    rw [hring]
    exact ⟨rfl, rfl, rfl, rfl, rfl, rfl, rfl, congrArg (2 ^ ·) W.sizeLog2_writeCfg, W.ringVector_writeCfg⟩
  case disable => exact ⟨_, State.ringDisable_stops hbus hen, State.take_modRing ..⟩
  case disabled => exact ⟨_, State.ringDisabled_goes hstop hheld hidle, State.take_modRing ..⟩

/-! ### Interrupts (R276) -/

/-- The timer's signal of a ring. -/
theorem State.intModTimer_goes {s : State} {fn r : Nat} (hun : 0 < (s.work.ring fn r).unsig)
    (htime : 0 < bits (s.work.regv fn (0x2800 + 4 * r)) 31 16) :
    exec (.intModTimer fn r) s = .next (s.take (s.work.signalRing fn r)) := by
  show execIntModTimer fn r s = _
  simp [execIntModTimer, State.act, W.if, hun, htime]

section
variable (w : W) {fn v : Nat} (hv : v < (w.sp fn).vectors) (h64 : v < 64)
include hv h64

/-- A vector that the span has goes out while it is not masked. -/
theorem W.signal_sends (hm : bit (w.regv fn (0x2000 + 16 * v + 12)) 0 = false) : w.signal fn v = w.emit (.irq fn v) := by
  rw [W.signal, if_neg (by omega), if_neg (by rw [hm]; decide)]

/-- While it is masked it sets its pending bit. -/
theorem W.signal_pends (hm : bit (w.regv fn (0x2000 + 16 * v + 12)) 0 = true) :
    w.signal fn v = { w with cmd.pba := insertNat (64 * fn + v) w.cmd.pba } := by
  rw [W.signal, if_neg (by omega), if_pos hm]

end

theorem State.unmask_goes {s : State} {fn v : Nat} (hbus : s.work.busUp = true) (hfn : fn < 64) (hv : v < 64) :
    exec (.msixVectorUnmask fn v) s = .next (s.take (s.work.unmask fn v)) := by
  show execMsixVectorUnmask fn v s = _
  simp [execMsixVectorUnmask, State.act, W.if, hbus, hfn, hv]

/-- A vector's entry with its mask cleared (R276). -/
def W.clearMask (w : W) (fn v : Nat) : W := w.writeBits fn (0x2000 + 16 * v + 12) 0 1

theorem W.clearMask_bit (w : W) (fn v : Nat) : bit ((w.clearMask fn v).regv fn (0x2000 + 16 * v + 12)) 0 = false := by
  rw [bit_eq_testBit, W.clearMask, W.testBit_writeBits _ _ _ _ _ (by omega)]
  rfl

/-- Unmasking sends what is pending on a vector of the span. -/
theorem W.unmask_pending {w : W} {fn v : Nat} (hpend : 64 * fn + v ∈ w.cmd.pba) (hv : v < (w.sp fn).vectors) :
    w.unmask fn v = { w.clearMask fn v with cmd.pba := w.cmd.pba.filter fun k => k != 64 * fn + v }.emit (.irq fn v) := by
  have h : (w.cmd.pba.contains (64 * fn + v) && decide (v < (w.sp fn).vectors)) = true := by simp [hpend, hv]
  exact if_pos h

/-- With nothing pending it sends nothing. -/
theorem W.unmask_idle {w : W} {fn v : Nat} (hnone : 64 * fn + v ∉ w.cmd.pba) : w.unmask fn v = w.clearMask fn v := by
  have h : ¬ (w.cmd.pba.contains (64 * fn + v) && decide (v < (w.sp fn).vectors)) = true := by simp [hnone]
  exact if_neg h

/-- Settles O9: the timer signals by the vector's mask, and clearing the mask sends what is pending. -/
theorem interruptsFollowTimerAndMask : Obligations.InterruptsFollowTimerAndMask := by
  unfold Obligations.InterruptsFollowTimerAndMask
  refine ⟨fun fn r s hun htime hvec h64 => ?timer, fun fn v s hbus hfn hv hpend hhas => ?pending, fun fn v s hbus hfn hv hnone => ?idle⟩
  case timer =>
    let w := s.work.modRing fn r fun g => { g with unsig := 0 }
    have hquiet : ((w.signal fn (s.work.ringVector fn r)).ring fn r).unsig = 0 := by
      rw [W.signal_ring, W.ring_modRing_self]
    refine ⟨_, State.intModTimer_goes hun htime, hquiet, fun hm => ?_, fun hm => ?_⟩
    · refine ⟨[_], congrArg (·.cmd.outbox) (w.signal_sends hvec h64 hm), List.mem_singleton_self _⟩
    · have e : s.work.signalRing fn r = _ := w.signal_pends hvec h64 hm
      rw [e]
      exact ⟨mem_insertNat .., rfl⟩
  case pending =>
    refine ⟨_, State.unmask_goes hbus hfn hv, ?_⟩
    rw [W.unmask_pending hpend hhas]
    refine ⟨s.work.clearMask_bit fn v, fun hm => ?_, [_], rfl, List.mem_singleton_self _⟩
    simpa using (List.mem_filter.1 hm).2
  case idle =>
    refine ⟨_, State.unmask_goes hbus hfn hv, ?_⟩
    rw [W.unmask_idle hnone]
    exact ⟨s.work.clearMask_bit fn v, rfl⟩

end Sys2Proof.Machine
end

section
/-! PROOFS. ABORT_STEP (R28, R272) of a step whose number another step bears too. -/

namespace Sys2Proof.Machine

/-- A STEP_SUBMIT of zeros on ring 0 of the PF. -/
def zeroSubmit : Pkt :=
  { fn := 0, ring := 0, flags := 0#16, span := 0#8, seq := 0#24, tag := 0#32, body := List.replicate 52 0#8, block := [] }

/-- The step that it is, under number 0. -/
def zeroStep : Step := Step.ofPkt zeroSubmit { id := 0, fn := 0, ring := 0, seq := 0, tag := 0#32, irq := false, op := 0 }

/-- A descriptor of step 0 that the vector engine of core 0 runs. -/
def runningFlight : InFlight :=
  { step := 0, task := 0, ctx := 0, dseq := 0, core := 0, engine := .vector, sig := none, writes := [], parts := [], counts := {}, cnts := [],
    lr := [], fail := none, remote := 0, refs := [], gets := [], coll := none, look := none }

/-- Step 0 in its compute phase, with a descriptor that runs, and a second step 0 that has only been read. -/
def twoStepsZero : State :=
  { State.reset with dev :=
    { State.reset.dev with
      step.steps := [{ zeroStep with phase := .compute }, zeroStep]
      step.inflight := [runningFlight] } }

/-- An ABORT_STEP from the PF for the step with sequence 0 on ring 0 of span 0. -/
def abortZero : MboxCmd :=
  { fn := 0, slot := 0, flags := 0#16, span := 0#8, seq := 0#24, tag := 0#32, body := List.replicate 52 0#8 }

/-- The second step stays as it was read. -/
theorem twoStepsZero_aborted (t : State) (h : exec (.abortStep abortZero) twoStepsZero = .next t) :
    t.dev.step.steps.map (fun y => (y.id, y.phase)) = [(0, .compute), (0, .read)] := by
  obtain rfl := Host.Outcome.next.inj h
  decide +kernel

/-- Refutes O52: nothing in the statement keeps the numbers of steps apart. Where a step in its compute phase is aborted while an engine runs
an operation of it, another step that bears its number and has only been read is in no compute phase. -/
theorem not_theParapetLaneActsAtOnce : ¬ Obligations.TheParapetLaneActsAtOnce := by
  unfold Obligations.TheParapetLaneActsAtOnce
  rintro ⟨-, -, habort, -⟩
  obtain ⟨t, ht, hall⟩ := habort abortZero twoStepsZero (by decide +kernel)
  obtain ⟨-, hruns⟩ := hall { zeroStep with phase := .compute } List.mem_cons_self (by decide +kernel) (by decide +kernel)
  obtain ⟨hphase, -⟩ := hruns runningFlight (List.mem_singleton_self _) rfl (by decide +kernel) rfl (by decide +kernel)
  have hread : ((0 : Nat), StepPhase.read) ∈ t.dev.step.steps.map fun y => (y.id, y.phase) := by
    rw [twoStepsZero_aborted t ht]
    decide
  obtain ⟨y, hy, he⟩ := List.mem_map.1 hread
  obtain ⟨hid, hp⟩ := Prod.mk.inj he
  exact absurd (hp.symm.trans (hphase y hy hid).1) (by decide)

end Sys2Proof.Machine
end

section
/-! PROOFS. STEP_SUBMIT and STEP_CANCEL (R267, R393, R439): what the end of a step leaves of what has gone out. -/

namespace Sys2Proof.Machine

/-! ### What the end of a step says to the host (R188, R213, R273) -/

section
variable {a b : W}

theorem W.Talks.of_control (h : b.control = a.control) : a.Talks b := .of_cmd (W.cmd_of_control h)

/-- A change made under a condition. -/
theorem W.Talks.ite {p : Prop} [Decidable p] (h : a.Talks b) {c : W} (k : b.Talks c) : a.Talks (if p then c else b) := by
  split
  · exact h.trans k
  · exact h

/-- What has gone out by `a` stays out. -/
theorem Sent.trans_talks {s : State} {o : Out} (h : Sent s (s.take a) o) (k : a.Talks b) : Sent s (s.take b) o := by
  obtain ⟨l, hl, ho⟩ := h
  obtain ⟨m, hm⟩ := k.out
  refine ⟨m ++ l, ?_, List.mem_append_right m ho⟩
  rw [State.take_dev] at hl ⊢
  rw [hm, hl, List.append_assoc]

end

section
variable (w : W)

theorem W.parReply_talks (fn : Nat) (x : Reply) : w.Talks (w.parReply fn x) := by
  unfold W.parReply
  dsimp only
  split
  · exact .refl w
  · refine W.Talks.trans ?_ (W.signal_talks ..)
    exact ⟨⟨[_], rfl⟩, fun _ _ => rfl⟩

theorem W.parFinish_talks (i : Nat) (st : Status) (d : Detail) : w.Talks (w.parFinish i st d) := by
  unfold W.parFinish
  split
  · exact .refl w
  · refine W.Talks.trans ?_ (W.parReply_talks ..)
    exact ⟨⟨[], rfl⟩, fun _ _ => rfl⟩

theorem W.modStep_talks (i : Nat) (f : Step → Step) : w.Talks (w.modStep i f) := .of_cmd rfl

theorem W.dropRefs_talks (f : InFlight) : w.Talks (w.dropRefs f) := w.each_talks _ _ fun _ _ => .of_cmd rfl

theorem W.squash_talks (i : Nat) : w.Talks (w.squash i) := by
  unfold W.squash
  split
  · exact .refl w
  · split
    · exact .of_cmd rfl
    · exact .refl w

theorem W.patchTile_talks (n va o : Nat) (b : List Byte) : w.Talks (w.patchTile n va o b) := by
  unfold W.patchTile
  split
  · exact .of_cmd rfl
  · exact w.with_talks _ _ fun t v => .of_control (by rw [W.storeTile_control, W.each_control _ _ _ fun _ _ => W.invalidate_control ..])

theorem W.writeRequests_talks (x : Step) (st : Status) : w.Talks (w.writeRequests x st) := by
  have hlist (v : W) (l : List Nat) (c : Nat → W → Bool) (n : Nat) (va o : Nat → Nat) (b : Nat → List Byte) :
      v.Talks (v.each l fun i v => if c i v then v.patchTile n (va i) (o i) (b i) else v) :=
    v.each_talks _ _ fun _ v => (W.Talks.refl v).ite (v.patchTile_talks ..)
  have hpatch {α : Type} (v : W) (l : List α) (n : Nat) (va o : α → Nat) (b : α → List Byte) :
      v.Talks (v.each l fun a v => v.patchTile n (va a) (o a) (b a)) := v.each_talks _ _ fun _ v => v.patchTile_talks ..
  unfold W.writeRequests
  dsimp only
  split
  · exact (hpatch ..).trans (hlist ..)
  · exact ((hpatch ..).trans (hlist ..)).trans (hpatch ..)

theorem W.settleCold_talks (h : Nat) : w.Talks (w.settleCold h) := by
  obtain ⟨f, -, he⟩ := w.settleCold_only h
  rw [he]
  exact .of_cmd rfl

theorem W.closeRequest_talks (n i : Nat) : w.Talks (w.closeRequest n i) := by
  refine W.Talks.trans ?_ (W.each_talks _ _ _ fun _ v => v.settleCold_talks _)
  exact .of_cmd rfl

theorem W.flushEnded_talks (k n r : Nat) : w.Talks (w.flushEnded k n r) := by
  induction k generalizing w with
  | zero => exact .refl w
  | succ k ih =>
    unfold W.flushEnded
    split
    · split
      · refine W.Talks.trans ?_ (ih _)
        refine W.Talks.trans ?_ (W.finish_talks ..)
        refine W.Talks.trans ?_ (W.each_talks _ _ _ fun _ v => v.closeRequest_talks ..)
        exact .of_cmd rfl
      · exact .refl w
    · exact .refl w

theorem W.settlePrograms_talks : w.Talks w.settlePrograms := by
  refine W.Talks.trans ?_ (W.each_talks _ _ _ fun p v => W.Talks.trans ?_ (W.finishAll_talks ..))
  · exact .of_cmd rfl
  · exact W.each_talks _ _ _ fun _ _ => .of_cmd rfl

theorem W.settleAborts_talks : w.Talks w.settleAborts := w.each_talks _ _ fun j v => v.parFinish_talks j.id .ok _

theorem W.endStep_talks (i : Nat) (st : Status) (d : Detail) : w.Talks (w.endStep i st d) := by
  unfold W.endStep
  split
  · exact .refl w
  · next x _ =>
    split
    · exact .refl w
    · dsimp only
      refine W.Talks.trans ?_ (W.settleAborts_talks _)
      refine W.Talks.trans ?_ (W.settlePrograms_talks _)
      refine W.Talks.trans ?_ (W.flushEnded_talks ..)
      refine W.Talks.ite ?_ (W.event_talks ..)
      refine W.Talks.ite ?_ (.of_cmd rfl)
      refine W.Talks.ite ?_ (W.with_talks _ _ _ fun _ _ => ⟨⟨[], rfl⟩, fun _ _ => rfl⟩)
      refine W.Talks.trans ?_ (W.each_talks _ _ _ fun _ v => v.settleCold_talks _)
      refine W.Talks.trans ?_ (W.modStep_talks ..)
      refine W.Talks.trans ?_ (W.each_talks _ _ _ fun _ _ => .of_control (W.trace_control ..))
      refine W.Talks.trans ?_ (W.writeRequests_talks ..)
      refine W.Talks.trans (w.each_talks (w.step.inflight.filter fun f => f.step == i) _ fun f v => v.dropRefs_talks f) ?_
      exact .of_cmd rfl

/-- A step that has not been admitted fails. -/
theorem W.failStep_talks {x : Step} {i : Nat} (hx : w.stepOf i = some x) (hadm : x.admitted = false) (st : Status) (d : Detail) :
    w.Talks (w.failStep i st d) := by
  unfold W.failStep
  rw [hx]
  dsimp only
  rw [hadm, Bool.not_false, if_pos rfl]
  split
  · exact .refl w
  · exact (w.squash_talks i).trans (W.endStep_talks ..)

end

/-! ### STEP_SUBMIT (R267, R393) -/

theorem State.stepSubmit_goes {s : State} {p : Pkt} (h : s.starts opStepSubmit p = true) (hact : s.work.activating = false) :
    exec (.stepSubmit p) s = .next (s.take
      ({ s.work.taken p with step.steps := s.dev.step.steps ++ [Step.ofPkt p (s.work.cmdOf opStepSubmit p)] }.begin
        (s.work.cmdOf opStepSubmit p))) := by
  show execStepSubmit p s = _
  simp only [execStepSubmit, W.if, State.act, hact, Bool.not_false, if_true, s.starts_intake opStepSubmit p _ h]
  rfl

/-! ### STEP_CANCEL (R439) -/

/-- The step that a STEP_CANCEL names: of that ring, with that sequence, not admitted. -/
def W.cancelled (w : W) (n r q : Nat) : Option Step :=
  (w.ringSteps n r).find? fun x => x.seq == q && (x.phase == .read || x.phase == .staged)

/-- What a STEP_CANCEL does when it starts. -/
def W.cancel (w : W) (c : Cmd) (r q : Nat) : W :=
  if 15 < r then w.answer c .refusedFormat
  else
    match w.cancelled c.fn r q with
    | some x => (w.answer c .ok (.count 1)).failStep x.id .squashed .none
    | none => w.answer c .ok (.count 0)

theorem State.stepCancel_goes {s : State} {p : Pkt} (h : s.starts opStepCancel p = true) :
    exec (.stepCancel p) s
      = .next (s.take ((s.work.taken p).cancel (s.work.cmdOf opStepCancel p) (p.arg 12 1) (p.arg 16 3))) := by
  show execStepCancel p s = _
  rw [execStepCancel, State.act_starts h]
  rfl

/-- The step that is cancelled is one that waits. -/
theorem W.cancelled_waits {w : W} {n r q : Nat} {x : Step} (h : w.cancelled n r q = some x) : x.phase = .read ∨ x.phase = .staged := by
  have := List.find?_some h
  simp only [Bool.and_eq_true, Bool.or_eq_true, beq_iff_eq] at this
  exact this.2

/-- With no such step there is none to cancel. -/
theorem W.cancelled_none {w : W} {n r q : Nat}
    (h : ∀ x ∈ w.step.steps, x.span = n → x.ring = r → x.seq = q → x.phase ≠ .read ∧ x.phase ≠ .staged) : w.cancelled n r q = none := by
  refine List.find?_eq_none.2 fun x hx => ?_
  obtain ⟨hmem, hof⟩ := List.mem_filter.1 hx
  simp only [Bool.and_eq_true, beq_iff_eq] at hof
  intro hfound
  simp only [Bool.and_eq_true, Bool.or_eq_true, beq_iff_eq] at hfound
  obtain ⟨hread, hstaged⟩ := h x hmem hof.1 hof.2 hfound.1
  exact hfound.2.elim hread hstaged

/-- A cancelled step: its command is answered with count 1, and the step is over. -/
theorem State.cancel_ends {s : State} {o : OpInfo} {p : Pkt} {x : Step} (h : s.starts o p = true)
    (hx : s.work.stepOf x.id = some x) (hwait : x.phase = .read ∨ x.phase = .staged) :
    Answered s (s.take (((s.work.taken p).answer (s.work.cmdOf o p) .ok (.count 1)).failStep x.id .squashed .none)) p .ok (.count 1)
      ∧ (((s.work.taken p).answer (s.work.cmdOf o p) .ok (.count 1)).failStep x.id .squashed .none).Over x.id := by
  have hfound : ((s.work.taken p).answer (s.work.cmdOf o p) .ok (.count 1)).stepOf x.id = some x :=
    (W.stepOf_of_step (W.answer_only ..).events.step x.id).trans hx
  have hadm : x.admitted = false := by rcases hwait with h | h <;> simp [Step.admitted, h]
  exact ⟨(State.answer_starts h .ok (.count 1) 0 0).1.trans_talks (W.failStep_talks _ hfound hadm ..),
    W.failStep_over _ hfound hwait .squashed .none⟩

/-- Settles O26: the two commands by what they find. -/
theorem stepsAreReadAndCancelled : Obligations.StepsAreReadAndCancelled := by
  unfold Obligations.StepsAreReadAndCancelled
  refine ⟨fun p s h hact => ?submitted, fun p s hact => ?waits, fun p s h hr => ?above, fun p s x h hr hfind hx => ?cancelled,
    fun p s h hr hnone => ?missed⟩
  case submitted =>
    exact ⟨_, State.stepSubmit_goes h hact, rfl, rfl, Moved.of_submission rfl⟩
  case waits => exact ⟨_, State.stepSubmit_waits p hact, rfl⟩
  case above =>
    refine ⟨_, State.stepCancel_goes h, ?_⟩
    rw [W.cancel, if_pos hr]
    exact ⟨(State.answer_starts h ..).1, (W.answer_only ..).events.step⟩
  case cancelled =>
    have hfound : (s.work.taken p).cancelled (s.work.cmdOf opStepCancel p).fn (p.arg 12 1) (p.arg 16 3) = some x := hfind
    refine ⟨_, State.stepCancel_goes h, ?_⟩
    rw [W.cancel, if_neg (Nat.not_lt.2 hr), hfound]
    exact State.cancel_ends h hx (W.cancelled_waits hfound)
  case missed =>
    have hgone : (s.work.taken p).cancelled (s.work.cmdOf opStepCancel p).fn (p.arg 12 1) (p.arg 16 3) = none := W.cancelled_none hnone
    refine ⟨_, State.stepCancel_goes h, ?_⟩
    rw [W.cancel, if_neg (Nat.not_lt.2 hr), hgone]
    exact ⟨(State.answer_starts h ..).1, (W.answer_only ..).events.step⟩

end Sys2Proof.Machine
end

section
/-! PROOFS. Frames of commands that touch little: a working copy without the parts that a command may change. -/

namespace Sys2Proof.Machine

/-! ### What a command may not change -/

/-- The working copy with the listed parts blanked, and with no count of free values (which is no part). -/
def W.rest (ps : List Part) (w : W) : W :=
  { w with
    cmd := if .cmd ∈ ps then Dev.atReset.cmd else w.cmd
    span := if .span ∈ ps then Dev.atReset.span else w.span
    hbm := if .hbm ∈ ps then Dev.atReset.hbm else w.hbm
    core := if .core ∈ ps then Dev.atReset.core else w.core
    step := if .step ∈ ps then Dev.atReset.step else w.step
    deck := if .deck ∈ ps then Dev.atReset.deck else w.deck
    tables := if .tables ∈ ps then Dev.atReset.tables else w.tables
    vdt := if .vdt ∈ ps then Dev.atReset.vdt else w.vdt
    integ := if .integ ∈ ps then Dev.atReset.integ else w.integ
    sec := if .sec ∈ ps then Dev.atReset.sec else w.sec
    pwr := if .pwr ∈ ps then Dev.atReset.pwr else w.pwr
    fw := if .fw ∈ ps then Dev.atReset.fw else w.fw
    obs := if .obs ∈ ps then Dev.atReset.obs else w.obs
    regs := if .regs ∈ ps then Dev.atReset.regs else w.regs
    free := 0 }

/-- A command that leaves the rest leaves every part that is not listed, and the queue. -/
theorem Keeps.of_rest {ps : List Part} {c : Instr} {s : State} {w : W} (he : exec c s = .next (s.take w))
    (h : w.rest ps = s.work.rest ps) : Keeps ps c s := by
  intro t ht
  obtain rfl := Host.Outcome.next.inj (he.symm.trans ht)
  refine ⟨rfl, fun q hq => ?_⟩
  have hops : w.ops = [] := congrArg (·.ops) h
  have hfuses : w.fuses = s.fuses := congrArg (·.fuses) h
  simp only [W.rest, W.mk.injEq, Dev.mk.injEq] at h
  cases q
  case memory => exact fun a => congrArg (Sparse.get memBlank · a) (State.take_mem_nil s _ hops)
  case fuses =>
    show max s.fuses (min 63 w.fuses) = s.fuses
    rw [hfuses]
    omega
  all_goals
    simp only [hq, if_false] at h
    simp only [Part.same, State.take_dev, h, State.work_toDev]

section
variable {ps : List Part} (w : W)

theorem W.vdt_rest (h : .vdt ∈ ps) (x : VdtSys) : W.rest ps { w with vdt := x } = w.rest ps := by simp [W.rest, h]
theorem W.obs_rest (h : .obs ∈ ps) (x : ObsSys) : W.rest ps { w with obs := x } = w.rest ps := by simp [W.rest, h]

/-- What concerns the command interface alone leaves the rest. -/
theorem W.OnlyCmd.rest {a b : W} (h : a.OnlyCmd b) (hc : .cmd ∈ ps) : b.rest ps = a.rest ps := by
  obtain ⟨⟨c, rfl⟩, -⟩ := h
  simp [W.rest, hc]

theorem W.each_rest {α : Type} (l : List α) (f : α → W → W) (hf : ∀ a w, (f a w).rest ps = w.rest ps) :
    (w.each l f).rest ps = w.rest ps := W.each_same (W.rest ps) f l w hf

theorem W.with_rest {α : Type} (o : Option α) (f : α → W → W) (hf : ∀ a w, (f a w).rest ps = w.rest ps) :
    (w.with o f).rest ps = w.rest ps := by
  cases o
  · rfl
  · exact hf _ w

theorem W.if_rest (c : Bool) (f : W → W) (hf : (f w).rest ps = w.rest ps) : (w.if c f).rest ps = w.rest ps := by
  cases c
  · rfl
  · exact hf

theorem W.ite_rest {c : Prop} [Decidable c] {a b : W} (ha : a.rest ps = w.rest ps) (hb : b.rest ps = w.rest ps) :
    (if c then a else b).rest ps = w.rest ps := by
  split
  · exact ha
  · exact hb

theorem W.answer_rest (hc : .cmd ∈ ps) (c : Cmd) (st : Status) (d : Detail) (r0 r1 : Nat) : (w.answer c st d r0 r1).rest ps = w.rest ps :=
  (w.answer_only ..).rest hc

/-- A packet whose body leaves the rest does so whole. -/
theorem W.intake_rest (hc : .cmd ∈ ps) (o : OpInfo) (p : Pkt) (body : Cmd → W → W) (h : ∀ c w, (body c w).rest ps = w.rest ps) :
    (w.intake o p body).rest ps = w.rest ps := by
  rcases w.intake_cases o p body with ⟨-, e⟩ | ⟨-, _, _, -, e⟩ | ⟨-, -, _, -, e⟩ | ⟨-, -, -, e⟩ <;> rw [e]
  · exact ((w.modRing_only ..).trans (W.reply_only ..)).rest hc
  · exact ((w.taken_only p).trans (W.answer_only ..)).rest hc
  · exact (h _ _).trans ((w.taken_only p).rest hc)

end

/-- A command of a ring. -/
theorem Keeps.of_intake {ps : List Part} {c : Instr} {s : State} {o : OpInfo} {p : Pkt} {body : Cmd → W → W}
    (he : exec c s = .next (s.take (s.work.intake o p body))) (hc : .cmd ∈ ps) (h : ∀ c w, (body c w).rest ps = w.rest ps) : Keeps ps c s :=
  .of_rest he (W.intake_rest _ hc o p body h)

/-- An event that has to be able to occur. -/
theorem Keeps.of_if {ps : List Part} {c : Instr} {s : State} {f : W → W} {b : Bool}
    (he : exec c s = .next (s.take (s.work.if b f))) (h : ∀ w, (f w).rest ps = w.rest ps) : Keeps ps c s :=
  .of_rest he (W.if_rest _ _ _ (h _))

/-! ### Rings, doorbells and interrupts (R253 to R268, R276) -/

section
variable (w : W)

theorem W.badBell_only (fn r : Nat) : w.OnlyCmd (w.badBell fn r) := w.modRing_only ..

theorem W.wakeUp_rest : w.wakeUp.rest [.cmd, .pwr] = w.rest [.cmd, .pwr] := w.ite_rest rfl rfl

theorem W.enableRing_rest (fn r v : Nat) : (w.enableRing fn r v).rest [.cmd, .regs] = w.rest [.cmd, .regs] :=
  w.ite_rest rfl (w.ite_rest rfl rfl)

theorem W.unmask_rest (fn v : Nat) : (w.unmask fn v).rest [.cmd, .regs] = w.rest [.cmd, .regs] := w.ite_rest rfl rfl

end

section
variable (p : Pkt) (fn r : Nat) (v : Word) (s : State)

/-- The ring commands and events that concern the command interface alone. -/
theorem ringCommands_keep (c : Instr) (h : c ∈ [Instr.nop p, .fence p, .query p, .healthQuery p, .fenceComplete fn r, .ringDisable fn r,
    .ringDisabled fn r, .intModTimer fn r]) : Keeps [.cmd] c s := by
  simp only [List.mem_cons, List.not_mem_nil, or_false] at h
  rcases h with rfl | rfl | rfl | rfl | rfl | rfl | rfl | rfl
  · exact .of_intake rfl (by decide) fun c w => w.answer_rest (by decide) ..
  · exact .of_intake rfl (by decide) fun c w => w.ite_rest (w.answer_rest (by decide) ..) rfl
  · refine .of_intake rfl (by decide) fun c w => ?_
    split <;> exact w.answer_rest (by decide) ..
  · exact .of_intake rfl (by decide) fun c w => W.answer_rest _ (by decide) ..
  · exact .of_rest rfl (W.with_rest _ _ _ fun _ _ => W.if_rest _ _ _ (((W.modRing_only ..).trans (W.finish_only ..)).rest (by decide)))
  · exact .of_if rfl fun w => w.ite_rest rfl rfl
  · exact .of_rest rfl (W.if_rest _ _ _ rfl)
  · exact .of_if rfl fun w => (w.signalRing_only ..).rest (by decide)

theorem doorbells_keep : Keeps [.cmd, .pwr] (.sqTail fn r v) s ∧ Keeps [.cmd, .pwr] (.cqHead fn r v) s := by
  refine ⟨.of_if rfl fun w => ?_, .of_if rfl fun w => ?_⟩
  · refine Eq.trans ?_ w.wakeUp_rest
    exact W.ite_rest _ ((W.badBell_only ..).rest (by decide)) (W.ite_rest _ rfl rfl)
  · refine Eq.trans ?_ w.wakeUp_rest
    refine W.ite_rest _ ((W.badBell_only ..).rest (by decide)) (W.ite_rest _ rfl ?_)
    exact ((W.modRing_only ..).trans (W.releaseHeld_only ..)).rest (by decide)

end

/-! ### Registers, counters and the rank table (R309, R376, R384, R408 to R416) -/

section
variable (w : W)

theorem W.writeTrcCfg_rest (n v : Nat) : (w.writeTrcCfg n v).rest [.obs, .regs] = w.rest [.obs, .regs] := by
  refine w.ite_rest (w.ite_rest rfl rfl) ?_
  refine w.ite_rest rfl (w.ite_rest ?_ rfl)
  exact W.each_rest (w.setReg n 0x8020 (v % 128 / 2 * 2)) _ _ fun _ _ => rfl

theorem W.writeLp_rest (v : Nat) : (w.writeLp v).rest [.pwr, .regs] = w.rest [.pwr, .regs] :=
  w.ite_rest rfl (w.ite_rest rfl (w.ite_rest rfl rfl))

end

section
variable (fn r : Nat) (v : Word) (s : State)

theorem registers_keep : Keeps [.cmd, .regs] (.ringEnable fn r v) s ∧ Keeps [.cmd, .regs] (.msixVectorUnmask fn r) s
    ∧ Keeps [.obs] (.trcEvSel fn v) s ∧ Keeps [.obs, .regs] (.traceEnable fn v) s ∧ Keeps [.obs, .regs] (.traceDisable fn) s
    ∧ Keeps [.obs, .regs] (.cntFmtCtlWrite fn v) s ∧ Keeps [.vdt] (.rankTableCommit fn v) s
    ∧ Keeps [.pwr, .regs] (.standbyRequest fn v) s ∧ Keeps [.cmd, .obs] (.cntLoRead fn r) s :=
  ⟨.of_if rfl fun w => w.enableRing_rest .., .of_if rfl fun w => w.unmask_rest .., .of_if rfl fun _ => rfl,
    .of_if rfl fun w => w.writeTrcCfg_rest .., .of_if rfl fun w => w.writeTrcCfg_rest .., .of_if rfl fun w => w.ite_rest rfl rfl,
    .of_if rfl fun w => w.vdt_rest (by decide) _, .of_if rfl fun w => w.writeLp_rest _, .of_if rfl fun _ => rfl⟩

end

/-! ### Commands of spans, keys, tests, programs and securing -/

section
variable (w : W)

/-- An answer of SPDM changes nothing but the count of answers. -/
theorem W.spdmAnswer_rest {v : W} {code : Nat} {req : List Byte} {ix : List Nat} {x : Nat × List (Nat × List Byte) × List Byte}
    (h : w.spdmAnswer code req ix = (x, v)) : v.rest [.cmd, .fw] = w.rest [.cmd, .fw] := by
  have hv : (w.spdmAnswer code req ix).2 = { w with fw.spdmCount := w.fw.spdmCount + 1 } := by
    unfold W.spdmAnswer
    dsimp only
    split
    case h_7 => split <;> rfl
    all_goals rfl
  obtain rfl : v = _ := (congrArg (·.2) h).symm.trans hv
  rfl

theorem W.loadPack_rest {v : W} {b : List Byte} {len k : Nat} (h : w.loadPack b len = .ok (k, v)) :
    v.rest [.cmd, .integ] = w.rest [.cmd, .integ] := by
  unfold W.loadPack at h
  split at h
  · cases h
  · split at h
    · cases h
    · split at h
      · cases h
      · split at h
        · cases h
        · obtain ⟨-, rfl⟩ := Prod.mk.inj (Except.ok.inj h)
          rfl

theorem W.startTest_rest (cmd : Option Nat) (kind scope unit : Nat) (cs : List Nat) :
    (w.startTest cmd kind scope unit cs).rest [.cmd, .core] = w.rest [.cmd, .core] := by
  refine (W.each_rest _ cs _ fun c v => ?_).trans (w.ite_rest rfl rfl)
  rfl

end

section
variable (p : Pkt) (s : State)

theorem spanCommands_keep : Keeps [.cmd, .span] (.spanQos p) s ∧ Keeps [.cmd, .span] (.spanSave p) s := by
  refine ⟨.of_intake rfl (by decide) fun c w => ?_, .of_intake rfl (by decide) fun c w => ?_⟩
  · exact w.ite_rest (w.answer_rest (by decide) ..) (W.answer_rest _ (by decide) ..)
  · refine w.ite_rest (w.answer_rest (by decide) ..) (w.ite_rest (w.answer_rest (by decide) ..) ?_)
    exact w.ite_rest (w.answer_rest (by decide) ..) rfl

theorem keyInstall_keeps : Keeps [.cmd, .fw] (.keyInstall p) s := by
  refine .of_intake rfl (by decide) fun c w => ?_
  refine w.ite_rest (w.answer_rest (by decide) ..) (w.ite_rest (w.answer_rest (by decide) ..) (w.ite_rest (w.answer_rest (by decide) ..) ?_))
  split
  · exact w.answer_rest (by decide) ..
  · exact w.ite_rest (w.answer_rest (by decide) ..) (W.answer_rest _ (by decide) ..)

theorem attest_keeps : Keeps [.cmd, .fw] (.attest p) s := by
  refine .of_intake rfl (by decide) fun c w => ?_
  dsimp only
  generalize hx : w.spdmAnswer _ _ _ = x
  obtain ⟨⟨k, items, extra⟩, v⟩ := x
  refine Eq.trans ?_ (w.spdmAnswer_rest hx)
  exact v.ite_rest (v.answer_rest (by decide) ..) (W.answer_rest _ (by decide) ..)

theorem testCommands_keep : Keeps [.cmd, .integ] (.loadtestPack p) s ∧ Keeps [.cmd, .core] (.loadtestRun p) s
    ∧ Keeps [.cmd, .core] (.katRun p) s := by
  refine ⟨.of_intake rfl (by decide) fun c w => ?_, .of_intake rfl (by decide) fun c w => ?_, .of_intake rfl (by decide) fun c w => ?_⟩
  · dsimp only
    split
    · exact w.answer_rest (by decide) ..
    · next h => exact (W.answer_rest _ (by decide) ..).trans (w.loadPack_rest h)
  · split
    · exact w.answer_rest (by decide) ..
    · exact w.startTest_rest ..
  · refine w.ite_rest (w.ite_rest (w.answer_rest (by decide) ..) rfl) ?_
    refine w.ite_rest (w.answer_rest (by decide) ..) (w.ite_rest (w.answer_rest (by decide) ..) ?_)
    split
    · exact w.answer_rest (by decide) ..
    · rfl

theorem programCommands_keep : Keeps [.cmd, .step] (.programLoad p) s ∧ Keeps [.cmd, .step] (.prefetchPlan p) s := by
  refine ⟨.of_intake rfl (by decide) fun c w => ?_, .of_intake rfl (by decide) fun c w => ?_⟩
  · dsimp only
    split <;> exact W.answer_rest _ (by decide) ..
  · refine w.ite_rest (w.answer_rest (by decide) ..) ?_
    split
    · exact w.answer_rest (by decide) ..
    · split <;> exact W.answer_rest _ (by decide) ..

theorem secureNow_keeps : Keeps [.cmd, .sec] (.secureNow p) s := by
  refine .of_intake rfl (by decide) fun c w => w.ite_rest (w.answer_rest (by decide) ..) ?_
  exact ((w.accepted_only c).trans (W.begin_only ..)).rest (by decide)

/-- SPDM requests, by path (R395, R399). -/
theorem spdm_keeps {c : Instr} {q : SpdmPath} {code : Nat} {b : List Byte} {ix : List Nat}
    (he : exec c s = .next (s.take (s.work.spdm q code b ix))) : Keeps [.cmd, .fw] c s := by
  refine .of_rest he ?_
  unfold W.spdm
  split
  · rfl
  · split
    · rfl
    · generalize hx : s.work.spdmAnswer code b ix = x
      obtain ⟨⟨k, items, extra⟩, v⟩ := x
      exact ((v.emit_only _).rest (by decide)).trans (s.work.spdmAnswer_rest hx)

end

/-! ### Supplies, phases, links and voltages (R366 to R379) -/

section
variable (w : W)

theorem W.linkReady_rest : w.linkReady.rest [.cmd, .pwr] = w.rest [.cmd, .pwr] := w.ite_rest rfl (w.ite_rest rfl rfl)

theorem W.free_rest {ps : List Part} (k : Nat) : W.rest ps { w with free := k } = w.rest ps := rfl

theorem W.modPhys_rest (c : Nat) (f : Phys → Phys) : (w.modPhys c f).rest [.cmd, .core, .pwr] = w.rest [.cmd, .core, .pwr] := rfl

theorem W.selfTest_rest : w.selfTest.rest [.cmd, .core, .pwr] = w.rest [.cmd, .core, .pwr] := by
  unfold W.selfTest
  dsimp only
  exact (W.free_rest ..).trans (w.each_rest _ _ fun _ v => v.modPhys_rest ..)

theorem W.modCluster_rest (c : Nat) (f : Cluster → Cluster) : (w.modCluster c f).rest [.core] = w.rest [.core] := rfl

theorem W.setInvalid_rest (b bad : Bool) : (w.setInvalid b bad).rest [.pwr, .fw] = w.rest [.pwr, .fw] := w.ite_rest rfl rfl

end

section
variable (s : State)

theorem supplies_keep (b : Bool) (h : Int) : Keeps [.pwr] (.supplyValid b) s ∧ Keeps [.pwr] .mainReturn s
    ∧ Keeps [.pwr] (.thermalCooldown h) s ∧ Keeps [.pwr] .perstRelease s := by
  refine ⟨.of_rest rfl ?_, .of_if rfl fun _ => rfl, .of_if rfl fun _ => rfl, .of_rest rfl rfl⟩
  have hok := s.work.ite_rest (ps := [.pwr]) (c := b = true) (a := { s.work with pwr.mainOk := true })
    (b := { s.work with pwr.auxOk := true }) rfl rfl
  exact Eq.trans (W.ite_rest _ rfl rfl) hok

/-- The power-up of the dies, when its self-test is done: phase B2, and WAKE while the link is down (R376). -/
def W.powered (w : W) : W :=
  let w := { w with pwr.phase := 2, pwr.b2Done := true }
  if w.pwr.linkUp then w else { w with pwr.wake := true }.emit (.wakePin true)

theorem W.powered_rest (w : W) : w.powered.rest [.cmd, .core, .pwr] = w.rest [.cmd, .core, .pwr] := W.ite_rest _ rfl rfl

theorem bootRomVerify_keeps : Keeps [.pwr, .fw] .bootRomVerify s := by
  refine .of_if rfl fun w => ?_
  dsimp only
  split
  · exact w.setInvalid_rest ..
  · split
    · exact (W.setInvalid_rest ..).trans (w.setInvalid_rest ..)
    · exact (W.setInvalid_rest ..).trans (w.setInvalid_rest ..)

theorem phases_keep : Keeps [.cmd, .core, .pwr] .diePowerUp s ∧ Keeps [.cmd, .pwr] .pcieLinkUp s ∧ Keeps [.cmd, .pwr] .trestleStart s
    ∧ Keeps [.pwr, .fw] .bootRomVerify s :=
  ⟨.of_if rfl fun w => w.selfTest.powered_rest.trans w.selfTest_rest, .of_if rfl fun w => w.linkReady_rest,
    .of_if rfl fun w => w.linkReady_rest, bootRomVerify_keeps s⟩

theorem buckets_keep (cl : BktClass) (k : Nat) : Keeps [.integ] (.bucketLeak cl k) s ∧ Keeps [.integ] .bucketLevelSave s :=
  ⟨.of_if rfl fun w => w.ite_rest rfl rfl, .of_if rfl fun _ => rfl⟩

theorem adaptiveVoltageStep_keeps (l m : List Nat) : Keeps [.core] (.adaptiveVoltageStep l m) s :=
  .of_if rfl fun w => (W.each_rest _ _ _ fun _ v => v.modCluster_rest ..).trans (w.each_rest _ _ fun _ v => v.modCluster_rest ..)

end

/-! ### Health, events, flows and management (R315, R401, R408 to R416) -/

section
variable (w : W)

theorem W.setHlt_rest (o d : Nat) : (w.setHlt o d).rest [.obs] = w.rest [.obs] := w.obs_rest (by decide) _

theorem W.setHlts_rest (l : List Nat) (o d : Nat → Nat) : (w.each l fun i v => v.setHlt (o i) (d i)).rest [.obs] = w.rest [.obs] :=
  w.each_rest _ _ fun _ v => v.setHlt_rest ..

theorem W.refresh_rest (x : Sensors) : (w.refresh x).rest [.obs] = w.rest [.obs] := by
  unfold W.refresh
  generalize w.riskTerms x = q
  simp only [W.setHlt_rest, W.setHlts_rest]

theorem W.mgmt_rest {ps : List Part} (hc : .cmd ∈ ps) (client : Nat) (need : Role) {f : W → W} (hf : (f w).rest ps = w.rest ps) :
    (w.mgmt client need f).rest ps = w.rest ps :=
  w.ite_rest rfl (w.ite_rest ((w.emit_only _).rest hc) (w.ite_rest ((w.emit_only _).rest hc) hf))

theorem W.sendAck_rest (r : RxFlow) : (w.sendAck r).rest [.cmd, .vdt] = w.rest [.cmd, .vdt] := by
  obtain ⟨_, _, _, _, h⟩ := w.sendAck_only r
  rw [h]
  rfl

end

section
variable (u k : Nat) (b : Bool) (s : State)

theorem observation_keeps (x : Sensors) : Keeps [.obs] (.droopDetect k) s ∧ Keeps [.obs] (.healthRefresh x) s
    ∧ Keeps [.obs] (.eventRecordLatched k) s := by
  refine ⟨.of_if rfl fun _ => rfl, .of_if rfl fun w => w.refresh_rest x, .of_rest rfl (W.if_rest _ _ _ rfl)⟩

theorem flows_keep : Keeps [.vdt] (.ccIncrease k) s ∧ Keeps [.cmd, .vdt] (.ackTimer u k) s :=
  ⟨.of_rest rfl rfl, .of_rest rfl (W.each_rest _ _ _ fun r w => w.sendAck_rest r)⟩

theorem management_keeps : Keeps [.fw] .fwActivateWindow s ∧ Keeps [.cmd] (.mgmtRead u k) s ∧ Keeps [.cmd, .fw] (.mgmtDisableMctp u b) s
    ∧ Keeps [.cmd, .fw] (.mgmtDisableWindow u b) s := by
  refine ⟨.of_if rfl fun _ => rfl, .of_rest rfl (W.mgmt_rest _ (by decide) _ _ ?_), .of_rest rfl (W.mgmt_rest _ (by decide) _ _ rfl),
    .of_rest rfl (W.mgmt_rest _ (by decide) _ _ rfl)⟩
  split <;> rfl

end

end Sys2Proof.Machine
end

section
/-! PROOFS. What a put of one tile and a parity delta write (R309, R317, R359). -/

namespace Sys2Proof.Machine

/-! ### The cells of a tile -/

/-- Every cell of the tile lies in its 4,352 bytes. -/
def Tile.Inside (t : Tile) : Prop := ∀ c ∈ t, c.1 < tileBytes

theorem Sparse.mem_put {α : Type} [DecidableEq α] {d : Nat → α} {m : List (Nat × α)} {k : Nat} {v : α} {c : Nat × α}
    (h : c ∈ Sparse.put d m k v) : c = (k, v) ∨ c ∈ m := by
  unfold Sparse.put at h
  split at h
  · exact .inr (List.mem_of_mem_filter h)
  · exact (Sparse.mem_insert _ _ _ _ h).imp_right List.mem_of_mem_filter

theorem Tile.Inside.setBytes {t : Tile} (h : t.Inside) {o : Nat} {bs : List Byte} (ho : o + bs.length ≤ tileBytes) :
    (t.setBytes o bs).Inside := by
  induction bs generalizing t o with
  | nil => exact h
  | cons b bs ih =>
    rw [List.length_cons] at ho
    refine ih (fun c hc => ?_) (by omega)
    rcases Sparse.mem_put hc with rfl | hc
    · show o < tileBytes
      omega
    · exact h c hc

theorem leBytes_length (n v : Nat) : (leBytes n v).length = n := by
  induction n generalizing v with
  | zero => rfl
  | succ n ih => exact congrArg (· + 1) (ih _)

theorem Tile.Inside.withGeneration {t : Tile} (h : t.Inside) (g : Nat) : (t.withGeneration g).Inside :=
  (h.setBytes (by rw [leBytes_length]; decide)).setBytes (by rw [leBytes_length]; decide)

theorem Tile.ofBytes_inside (bs : List Byte) : (Tile.ofBytes bs).Inside := by
  intro c hc
  obtain ⟨⟨b, i⟩, hb, he⟩ := List.mem_filterMap.1 hc
  have hi := (List.mem_zipIdx hb).2.1
  have hlen := List.length_take_le tileBytes bs
  simp only at he
  split at he
  · cases he
  · obtain rfl := Option.some.inj he
    show i < tileBytes
    omega

/-! ### Bytes that a write leaves -/

/-- Writing cells leaves a key for which they hold what it holds already. -/
theorem Sparse.get_putAll_same {α : Type} [DecidableEq α] (d : Nat → α) (cells m : List (Nat × α)) (j : Nat)
    (h : ∀ c ∈ cells, c.1 = j → c.2 = Sparse.get d m j) : Sparse.get d (Sparse.putAll d m cells) j = Sparse.get d m j := by
  induction cells generalizing m with
  | nil => rfl
  | cons c cs ih =>
    have hput : Sparse.get d (Sparse.put d m c.1 c.2) j = Sparse.get d m j := by
      rw [Sparse.get_put]
      split
      · next e => exact h c List.mem_cons_self e.symm
      · rfl
    exact (ih _ fun x hx e => (h x (List.mem_cons_of_mem _ hx) e).trans hput.symm).trans hput

/-- Writing bytes leaves one on which the byte that is there already is written. -/
theorem MemOp.bytes_same {a : Nat} {bs : List Byte} {m : List Host.Cell} {j : Nat}
    (h : ∀ i b, bs[i]? = some b → a + i = j → b = Sparse.get memBlank m j) :
    Sparse.get memBlank ((MemOp.bytes a bs).run m) j = Sparse.get memBlank m j := by
  refine Sparse.get_putAll_same _ _ _ _ fun c hc e => ?_
  obtain ⟨⟨b, i⟩, hb, rfl⟩ := List.mem_map.1 hc
  exact h i b (List.mem_zipIdx_iff_getElem?.1 hb) e

/-- Replacing a stretch of a list leaves what lies before and after it. -/
theorem getElem?_splice {α : Type} {l mid : List α} {o i : Nat} (ho : o + mid.length ≤ l.length) (h : i < o ∨ o + mid.length ≤ i) :
    (l.take o ++ mid ++ l.drop (o + mid.length))[i]? = l[i]? := by
  have hlen : (l.take o).length = o := by rw [List.length_take]; omega
  rcases h with h | h
  · rw [List.append_assoc, List.getElem?_append_left (by omega), List.getElem?_take_of_lt h]
  · rw [List.getElem?_append_right (by rw [List.length_append]; omega), List.getElem?_drop, List.length_append, hlen]
    congr 1
    omega

/-! ### What changes no byte -/

theorem State.byte_of_ops {s : State} {w : W} (h : w.ops = []) (a : Nat) : (s.take w).byte a = s.byte a :=
  congrArg (Sparse.get memBlank · a) (State.take_mem_nil s w h)

section
variable (w : W)

theorem W.markDirty_ops (n vp : Nat) : (w.markDirty n vp).ops = w.ops := by
  unfold W.markDirty
  split <;> rfl

theorem W.touchSec_ops (n va : Nat) : (w.touchSec n va).ops = w.ops := by
  unfold W.touchSec
  split <;> rfl

theorem W.sendAck_ops (r : RxFlow) : (w.sendAck r).ops = w.ops := by
  obtain ⟨_, _, _, _, h⟩ := w.sendAck_only r
  rw [h]

/-- A refusal changes what has gone out and what is held of flows, at most; what is held back of its flow stays. -/
theorem W.nackOut_only (f : Frame) (k : Nat) : ∃ c x, w.nackOut f k = { w with cmd := c, vdt := x } ∧ x.rxs = w.vdt.rxs := by
  unfold W.nackOut
  dsimp only
  split
  · exact ⟨_, _, rfl, rfl⟩
  · split <;> exact ⟨_, _, rfl, rfl⟩

theorem W.nackTo_ops (f : Frame) (k : Nat) : (w.nackTo f k).ops = w.ops := by
  obtain ⟨c, x, h, -⟩ := (w.setRx ((w.rx f).refuse f.psn k)).nackOut_only f k
  rw [W.nackTo, h]
  rfl

theorem W.rx_of_rxs {a b : W} (h : a.vdt.rxs = b.vdt.rxs) (f : Frame) : a.rx f = b.rx f := by rw [W.rx, W.rx, h]

theorem W.nackTo_held (f : Frame) (k : Nat) : ((w.nackTo f k).rx f).held = (w.rx f).held := by
  obtain ⟨c, x, h, hx⟩ := (w.setRx ((w.rx f).refuse f.psn k)).nackOut_only f k
  have hrx : (w.nackTo f k).rx f = (w.rx f).refuse f.psn k := by
    rw [W.nackTo, h]
    exact (W.rx_of_rxs hx f).trans (w.rx_setRx (w.rx_names f))
  rw [hrx]
  rfl

end

/-! ### A frame that is the next of its flow (R312) -/

/-- A frame of one part that comes in order is applied, and no other after it where nothing is held then either. -/
theorem W.takeInOrder_once {w : W} {f : Frame} {got : W → W} (hp : inParts f.ty f.arg = false) (hheld : (w.rx f).held = []) (k : Nat)
    (happ : ∀ l, (w.withRxs l).applyFrame f = got (w.withRxs l))
    (hstill : ∀ l, ((w.withRxs l).rx f).held = [] → ((got (w.withRxs l)).rx f).held = []) :
    ∃ l, w.takeInOrder false (k + 1) f = got (w.withRxs l) := by
  obtain ⟨l, hl⟩ : ∃ l, w.setRx { w.rx f with next := ((w.rx f).next + 1) % 2 ^ 24, held := [] } = w.withRxs l := ⟨_, rfl⟩
  have hnone : ((got (w.withRxs l)).rx f).held = [] := by
    refine hstill l ?_
    rw [← hl, w.rx_setRx (f := f) (r := { w.rx f with next := _, held := [] }) (w.rx_names f)]
  refine ⟨l, ?_⟩
  unfold W.takeInOrder
  simp only [hheld, List.filter_nil, hl, W.takeFrame, hp, Bool.false_eq_true, ↓reduceIte, happ, hnone, List.find?_nil]

/-- What a due frame that names no rank and no flow of its own makes of the memory, when its application is known; an acknowledgement
makes no difference (R312). -/
theorem State.receive_ops {s : State} {a : Arrival} {got : W → W} {Q : List MemOp → Prop} (h : s.due a = true)
    (hmoved : a.ty ≠ tyRankMoved) (hreset : a.ty ≠ tyFlowReset) (hp : inParts a.ty a.arg = false)
    (hgot : ∀ w : W, w.keyHeld a.toFrame = true → w.spanTakes a.toFrame = true → w.applyFrame a.toFrame = got w)
    (hstill : ∀ l, ((s.work.withRxs l).rx a.toFrame).held = [] → ((got (s.work.withRxs l)).rx a.toFrame).held = [])
    (hQ : ∀ l, Q (got (s.work.withRxs l)).ops) : Q (s.work.receive a).ops := by
  rw [W.receive, State.arrived_of_due h]
  simp only [State.due, Bool.and_eq_true, Bool.or_eq_true, beq_iff_eq, hmoved, hreset, false_or, List.isEmpty_iff] at h
  obtain ⟨⟨⟨-, hnext⟩, hheld⟩, hkey, hspan⟩ := h
  have hfresh : s.work.restarts a.toFrame = false := by simp [W.restarts, hmoved, hreset]
  have hpos : psnPos a.psn (s.work.rx a.toFrame).next = 0 := by simp [psnPos, hnext]
  have hnoted : ((s.work.setRx ((s.work.rx a.toFrame).countOne a.ce)).rx a.toFrame).held = [] := by
    rw [s.work.rx_setRx (f := a.toFrame) (r := (s.work.rx a.toFrame).countOne a.ce) (s.work.rx_names a.toFrame)]
    exact hheld
  obtain ⟨l, hl⟩ := W.takeInOrder_once (got := got) hp hnoted 1024 (fun l => hgot _ hkey hspan) hstill
  simp only [hfresh, Bool.false_eq_true, ↓reduceIte, hpos, hl]
  split
  · rw [W.sendAck_ops]
    exact hQ l
  · exact hQ l

/-! ### A put of one tile (R317) -/

/-- Without a trace of the core's span an invalidation concerns the cores alone. -/
theorem W.invalidate_quiet {w : W} {l : Nat} (h : w.traceOf (w.owner l) = none) (va : Nat) :
    ∃ c, w.invalidate l va = { w with core := c } := by
  have hr : w.resid l 3 va false = w := by
    rw [W.resid, W.trace, h]
  unfold W.invalidate
  rw [hr]
  dsimp only
  split <;> exact ⟨_, rfl⟩

theorem W.invalidateAll_quiet {w : W} {n : Nat} (h : w.traceOf n = none) (va : Nat) :
    ∃ c, (w.each (w.coresOf n) fun l w => w.invalidate l va) = { w with core := c } := by
  refine W.each_ind (fun v => ∃ c, v = { w with core := c }) _ _ w ⟨w.core, rfl⟩ ?_
  rintro l hl _ ⟨c, rfl⟩
  have hown : w.owner l = n := by simpa using (List.mem_filter.1 hl).2
  obtain ⟨c', h'⟩ := W.invalidate_quiet (w := { w with core := c }) (l := l) (by rw [← hown] at h; exact h) va
  exact ⟨c', h'⟩

theorem W.storeTile_ops {w : W} {n va pa : Nat} {wr : Bool} (h : w.locate n [] va = .home pa wr) (t : Tile) :
    (w.storeTile n va t).ops = .tile pa (t.withGeneration ((w.tileAt pa).generation + 1)) :: w.ops := by
  rw [W.storeTile, h]
  dsimp only
  rw [W.touchSec_ops, W.markDirty_ops]
  rfl

theorem W.putHome_cold {w : W} {n va : Nat} (h : w.hotAt n va = none) (t : Tile) :
    w.putHome n va t = (w.each (w.coresOf n) fun l w => w.invalidate l va).storeTile n va t := by
  simp [W.putHome, h]

/-- A tile put in its home, which no core pins HOT and no trace records, is the one write. -/
theorem W.putHome_ops {w : W} {n va pa : Nat} {wr : Bool} (hhot : w.hotAt n va = none) (htr : w.traceOf n = none)
    (h : w.locate n [] va = .home pa wr) (t : Tile) : ∃ g, (w.putHome n va t).ops = .tile pa (t.withGeneration g) :: w.ops := by
  obtain ⟨c, hc⟩ := W.invalidateAll_quiet htr va
  rw [W.putHome_cold hhot, hc]
  exact ⟨_, W.storeTile_ops (w := { w with core := c }) h t⟩

theorem tileAfter_zero {a : Nat} (h : isTileAddr a = true) : tileAfter a 0 = a := by
  simp only [isTileAddr, Bool.and_eq_true, decide_eq_true_eq, beq_iff_eq] at h
  obtain ⟨⟨-, hmod⟩, hlt⟩ := h
  have hdiv : a % pageBytes / tileBytes * tileBytes = a % pageBytes := Nat.div_mul_cancel (Nat.dvd_of_mod_eq_zero hmod)
  simp only [tileAfter, Nat.add_zero]
  rw [Nat.div_eq_of_lt hlt, Nat.mod_eq_of_lt hlt, Nat.add_zero, hdiv, Nat.mul_comm]
  exact Nat.div_add_mod a pageBytes

/-- A put of one tile is refused and writes nothing, or goes to its home. -/
theorem W.gotPut_one {w : W} {n : Nat} {f : Frame} (hlen : f.payload.length = tileBytes) (ha : isTileAddr f.arg = true) :
    (∃ (v : W) (k : Nat), v.ops = w.ops ∧ v.vdt = w.vdt ∧ w.gotPut n f = v.nackTo f k)
      ∨ w.gotPut n f = w.putHome n f.arg (Tile.ofBytes f.payload) := by
  have hone : (List.range (f.payload.length / tileBytes)).map (fun i =>
      (tileAfter f.arg i, Tile.ofBytes ((f.payload.drop (tileBytes * i)).take tileBytes))) = [(f.arg, Tile.ofBytes f.payload)] := by
    rw [hlen, Nat.div_self (by decide), List.range_one, List.map_singleton, tileAfter_zero ha, Nat.mul_zero, List.drop_zero,
      List.take_of_length_le hlen.le]
  unfold W.gotPut
  dsimp only
  rw [hone]
  split
  · exact .inl ⟨w, 1, rfl, rfl, rfl⟩
  · split
    · exact .inl ⟨w.count n 0x248 2, 2, rfl, rfl, rfl⟩
    · exact .inr rfl

theorem W.putHome_rxs (w : W) (n va : Nat) (t : Tile) : (w.putHome n va t).vdt.rxs = w.vdt.rxs := by
  refine W.rxs_of_barrier ?_
  cases h : w.hotAt n va
  · rw [W.putHome_cold h, W.storeTile_barrier, w.each_barrier _ _ fun _ v => v.invalidate_barrier ..]
  · simp [W.putHome, h]

theorem W.gotPut_held {w : W} {n : Nat} {f : Frame} (hlen : f.payload.length = tileBytes) (ha : isTileAddr f.arg = true)
    (h : (w.rx f).held = []) : ((w.gotPut n f).rx f).held = [] := by
  rcases W.gotPut_one (w := w) (n := n) hlen ha with ⟨v, k, -, hv, e⟩ | e <;> rw [e]
  · rw [W.nackTo_held, W.rx_of_rxs (congrArg (·.rxs) hv)]
    exact h
  · rw [W.rx_of_rxs (W.putHome_rxs ..)]
    exact h

theorem isCopy_tileAddr {ty a : Nat} (h : isTileAddr a = true) : isCopy ty a = false := by
  simp only [isTileAddr, Bool.and_eq_true, decide_eq_true_eq] at h
  obtain ⟨⟨hlt, -⟩, -⟩ := h
  rw [isCopy, Nat.div_eq_of_lt (hlt.trans (by decide))]
  exact Bool.and_false _

/-- A put whose key is held and whose span takes it takes effect as a parity packet or by its tiles. -/
theorem W.applyFrame_put {w : W} {f : Frame} (hty : f.ty = tyPut) (hcopy : isCopy f.ty f.arg = false) (hk : w.keyHeld f = true)
    (ht : w.spanTakes f = true) : w.applyFrame f =
      if isDelta f then (if (w.gotDelta f.dstSpan f).1 then (w.gotDelta f.dstSpan f).2 else (w.gotDelta f.dstSpan f).2.nackTo f 1)
      else w.gotPut f.dstSpan f := by
  have hm : tyPut ≠ tyRankMoved := by decide
  have hr : tyPut ≠ tyFlowReset := by decide
  rw [hty] at hcopy
  unfold W.applyFrame
  simp only [hty, hm, hr, hk, ht, hcopy, ↓reduceIte, Bool.not_true, Bool.not_false, Bool.false_eq_true]
  split
  · generalize w.gotDelta f.dstSpan f = q
    rcases q with ⟨_ | _, v⟩ <;> rfl
  · rfl

/-- A put of one tile changes no byte outside it. -/
theorem State.putFrame_outside {s : State} {f : Arrival} {pa : Nat} (hdue : s.due f = true) (hd : isDelta f.toFrame = false)
    (hlen : f.payload.length = tileBytes) (ha : isTileAddr f.arg = true) (hhot : s.work.hotAt f.dstSpan f.arg = none)
    (htr : s.work.traceOf f.dstSpan = none) (hloc : s.work.locate f.dstSpan [] f.arg = .home pa true) (hty : f.ty = tyPut) {a : Nat}
    (hout : a < pa ∨ pa + tileBytes ≤ a) : (s.take (s.work.receive f)).byte a = s.byte a := by
  have hparts : inParts f.ty f.arg = false := by rw [inParts, isCopy_tileAddr ha, hty]; rfl
  refine State.receive_ops (Q := fun ops => Sparse.get memBlank (ops.foldr MemOp.run s.mem) a = s.byte a)
    (got := fun w => w.gotPut f.dstSpan f.toFrame) hdue (by rw [hty]; decide) (by rw [hty]; decide) hparts (fun w hk ht => ?applied)
    (fun l h => W.gotPut_held hlen ha h) fun l => ?outside
  case applied =>
    rw [W.applyFrame_put hty (isCopy_tileAddr ha) hk ht, hd]
    rfl
  case outside =>
    rcases W.gotPut_one (w := s.work.withRxs l) (n := f.dstSpan) hlen ha with ⟨v, k, hv, -, e⟩ | e <;> simp only [e]
    · rw [W.nackTo_ops, hv]
      rfl
    · obtain ⟨g, hg⟩ := W.putHome_ops (w := s.work.withRxs l) hhot htr hloc (Tile.ofBytes f.payload)
      rw [hg]
      exact MemOp.tile_outside _ _ _ _ ((Tile.ofBytes_inside _).withGeneration g) hout

/-! ### A parity delta (R359) -/

/-! The accesses to a bearing row by what they are as functions: so the kernel is not made to look into the row's address. -/

theorem W.setBearRow_def : W.setBearRow = fun w n s row bs =>
    match w.bearAt n s.policy row with
    | none => w
    | some pa => (({ w with ops := .bytes pa bs :: w.ops }).markDirty n (s.policy.addrBear / pageBytes + row)).modSec n fun s =>
        { s with used := insertNat row s.used } := rfl

theorem W.bearRow_def : W.bearRow = fun w n s row =>
    match w.bearAt n s.policy row with
    | some pa =>
      if s.used.contains row then (List.range pageBytes).map fun i => Sparse.get memBlank w.mem (pa + i) else List.replicate pageBytes 0#8
    | none => List.replicate pageBytes 0#8 := rfl

section
variable {w : W} {n row pa : Nat} {x : SecState}

theorem W.locate_withRxs (l : List RxFlow) (bs : List Bind) (va : Nat) : (w.withRxs l).locate n bs va = w.locate n bs va := rfl

theorem W.bearAt_withRxs (l : List RxFlow) (p : Policy) : (w.withRxs l).bearAt n p row = w.bearAt n p row := by
  have h : W.bearAt = W.bearAt := rfl
  conv at h => rhs; delta W.bearAt
  rw [h]
  beta_reduce
  rw [W.locate_withRxs]

theorem W.setBearRow_none (h : w.bearAt n x.policy row = none) (bs : List Byte) : w.setBearRow n x row bs = w := by
  rw [W.setBearRow_def]
  beta_reduce
  rw [h]

theorem W.setBearRow_some (h : w.bearAt n x.policy row = some pa) (bs : List Byte) :
    w.setBearRow n x row bs = (({ w with ops := .bytes pa bs :: w.ops }).markDirty n (x.policy.addrBear / pageBytes + row)).modSec n fun s =>
      { s with used := insertNat row s.used } := by
  rw [W.setBearRow_def]
  beta_reduce
  rw [h]

theorem W.setBearRow_ops (h : w.bearAt n x.policy row = some pa) (bs : List Byte) :
    (w.setBearRow n x row bs).ops = .bytes pa bs :: w.ops := by
  rw [W.setBearRow_some h, W.modSec_ops, W.markDirty_ops]

theorem W.setBearRow_rxs (bs : List Byte) : (w.setBearRow n x row bs).vdt.rxs = w.vdt.rxs := by
  cases h : w.bearAt n x.policy row
  · rw [W.setBearRow_none h]
  · rw [W.setBearRow_some h]
    exact W.rxs_of_barrier ((W.modSec_barrier ..).trans (W.markDirty_barrier ..))

/-- A bearing row in use holds the bytes of its page. -/
theorem W.bearRow_used (h : w.bearAt n x.policy row = some pa) (hu : row ∈ x.used) :
    w.bearRow n x row = (List.range pageBytes).map fun i => Sparse.get memBlank w.mem (pa + i) := by
  rw [W.bearRow_def]
  beta_reduce
  rw [h]
  exact if_pos (List.contains_iff_mem.2 hu)

end

/-- A row with the units of a parity delta replaced. -/
def deltaRow (old : List Byte) (f : Frame) : List Byte :=
  old.take (f.arg % 512 * 4096) ++ ((old.drop (f.arg % 512 * 4096)).take f.payload.length).zipWith (· ^^^ ·) f.payload
    ++ old.drop (f.arg % 512 * 4096 + f.payload.length)

/-- It stands as it was outside those units. -/
theorem deltaRow_outside {old : List Byte} {f : Frame} {i : Nat} (hfit : f.arg % 512 * 4096 + f.payload.length ≤ old.length)
    (h : i < f.arg % 512 * 4096 ∨ f.arg % 512 * 4096 + f.payload.length ≤ i) : (deltaRow old f)[i]? = old[i]? := by
  have hmid : (((old.drop (f.arg % 512 * 4096)).take f.payload.length).zipWith (· ^^^ ·) f.payload).length = f.payload.length := by
    rw [List.length_zipWith, List.length_take, List.length_drop]
    omega
  have hold := getElem?_splice (l := old) (o := f.arg % 512 * 4096) (i := i) (by rw [hmid]; exact hfit) (by rw [hmid]; exact h)
  rwa [hmid] at hold

/-- A parity delta is refused and writes nothing, or writes its row with its own units replaced. -/
theorem W.gotDelta_cases {w : W} {n : Nat} {f : Frame} {x : SecState} (hx : w.secOf n = some x) :
    w.gotDelta n f = (false, w)
      ∨ w.gotDelta n f = (true, w.setBearRow n x (f.arg / 512) (deltaRow (w.bearRow n x (f.arg / 512)) f)) := by
  unfold W.gotDelta
  dsimp only
  rw [hx]
  dsimp only
  split
  · exact .inl rfl
  · exact .inr rfl

/-- What a parity packet does when it takes effect: a refused one is answered so (R317). -/
def W.takeDelta (w : W) (f : Frame) : W :=
  if (w.gotDelta f.dstSpan f).1 then (w.gotDelta f.dstSpan f).2 else (w.gotDelta f.dstSpan f).2.nackTo f 1

theorem W.takeDelta_refused {w v : W} {f : Frame} (h : w.gotDelta f.dstSpan f = (false, v)) : w.takeDelta f = v.nackTo f 1 := by
  rw [W.takeDelta, h]
  rfl

theorem W.takeDelta_written {w v : W} {f : Frame} (h : w.gotDelta f.dstSpan f = (true, v)) : w.takeDelta f = v := by
  rw [W.takeDelta, h]
  rfl

theorem W.takeDelta_held {w : W} {f : Frame} {x : SecState} (hx : w.secOf f.dstSpan = some x) (h : (w.rx f).held = []) :
    ((w.takeDelta f).rx f).held = [] := by
  rcases W.gotDelta_cases (f := f) hx with e | e
  · rw [W.takeDelta_refused e, W.nackTo_held]
    exact h
  · rw [W.takeDelta_written e, W.rx_of_rxs (W.setBearRow_rxs _) f]
    exact h

/-- A parity delta of a row in use changes no byte outside its units. -/
theorem W.takeDelta_outside {w : W} {f : Frame} {x : SecState} {pa a : Nat} (hx : w.secOf f.dstSpan = some x) (hu : f.arg / 512 ∈ x.used)
    (hb : w.bearAt f.dstSpan x.policy (f.arg / 512) = some pa) (hfit : f.arg % 512 * 4096 + f.payload.length ≤ pageBytes)
    (hout : a < pa + f.arg % 512 * 4096 ∨ pa + f.arg % 512 * 4096 + f.payload.length ≤ a) :
    Sparse.get memBlank ((w.takeDelta f).ops.foldr MemOp.run w.mem0) a = Sparse.get memBlank w.mem a := by
  rcases W.gotDelta_cases (f := f) hx with e | e
  · rw [W.takeDelta_refused e, W.nackTo_ops]
    rfl
  · rw [W.takeDelta_written e, W.setBearRow_ops hb, List.foldr_cons]
    refine MemOp.bytes_same fun i b hi hia => ?_
    rw [W.bearRow_used hb hu, deltaRow_outside (by rw [List.length_map, List.length_range]; exact hfit) (by omega), List.getElem?_map] at hi
    obtain ⟨j, hj, rfl⟩ := Option.map_eq_some_iff.1 hi
    obtain ⟨-, rfl⟩ := List.getElem?_eq_some_iff.1 hj
    rw [List.getElem_range, hia]
    rfl

/-- The memory after a parity delta, outside the units that it names. -/
theorem State.parityDelta_outside {s : State} {f : Arrival} {x : SecState} {pa a : Nat} (hdue : s.due f = true)
    (hd : isDelta f.toFrame = true) (hx : s.work.secOf f.dstSpan = some x) (hu : f.arg / 512 ∈ x.used)
    (hb : s.work.bearAt f.dstSpan x.policy (f.arg / 512) = some pa) (hfit : f.arg % 512 * 4096 + f.payload.length ≤ pageBytes)
    (hout : a < pa + f.arg % 512 * 4096 ∨ pa + f.arg % 512 * 4096 + f.payload.length ≤ a) :
    (s.take (s.work.receive f)).byte a = s.byte a := by
  have hput := hd
  simp only [isDelta, Bool.and_eq_true, beq_iff_eq, Bool.not_eq_true'] at hput
  obtain ⟨⟨⟨⟨hty, hcopy⟩, -⟩, -⟩, -⟩ := hput
  have hparts : inParts f.ty f.arg = false := by rw [inParts, hcopy, hty]; rfl
  refine State.receive_ops (Q := fun ops => Sparse.get memBlank (ops.foldr MemOp.run s.mem) a = s.byte a)
    (got := fun w => w.takeDelta f.toFrame) hdue (by rw [hty]; decide) (by rw [hty]; decide) hparts (fun w hk ht => ?applied)
    (fun l h => W.takeDelta_held (w := s.work.withRxs l) hx h) fun l => ?outside
  case applied =>
    rw [W.applyFrame_put hty hcopy hk ht, hd]
    rfl
  case outside => exact W.takeDelta_outside (w := s.work.withRxs l) hx hu ((W.bearAt_withRxs l x.policy).trans hb) hfit hout

/-! ### The statement -/

/-- A frame is received as a command of its kind, or nothing happens. -/
theorem State.byte_of_receive {s : State} {b : Bool} {f : Arrival} {a : Nat}
    (h : b = true → (s.take (s.work.receive f)).byte a = s.byte a) :
    (s.take (s.work.if b fun w => w.receive f)).byte a = s.byte a := by
  cases b
  · exact State.byte_of_ops rfl a
  · exact h rfl

/-- Settles O60: each command by what it leaves of the working copy, and the two frames by what they write. -/
theorem framesOfCommandsThatTouchLittle : Obligations.FramesOfCommandsThatTouchLittle := by
  unfold Obligations.FramesOfCommandsThatTouchLittle
  refine ⟨fun c p f r s hc => ringCommands_keep p f r s c hc, fun fn r v s => ?registers, fun p s => ?commands,
    fun c q b ix s hc => ?spdm, fun u k h b l m x cl s => ?supplies,
    fun f pa t s hdue hd hlen ha hhot htr hloc ht a hout => ?put, fun f pa row x t s hdue hx hu hb hfit ht a hout => ?delta⟩
  case registers => exact ⟨(doorbells_keep fn r v s).1, (doorbells_keep fn r v s).2, registers_keep fn r v s⟩
  case commands =>
    obtain ⟨hqos, hsave⟩ := spanCommands_keep p s
    obtain ⟨hpack, hrun, hkat⟩ := testCommands_keep p s
    obtain ⟨hload, hplan⟩ := programCommands_keep p s
    exact ⟨hqos, hsave, keyInstall_keeps p s, attest_keeps p s, hpack, hrun, hkat, hload, hplan, secureNow_keeps p s⟩
  case spdm =>
    simp only [List.mem_cons, List.not_mem_nil, or_false] at hc
    rcases hc with rfl | rfl | rfl | rfl | rfl | rfl | rfl <;> exact spdm_keeps s rfl
  case supplies =>
    obtain ⟨hvalid, hreturn, hcool, hperst⟩ := supplies_keep s b h
    obtain ⟨hdie, hlink, htrestle, hrom⟩ := phases_keep s
    obtain ⟨hleak, hlevels⟩ := buckets_keep s cl k
    obtain ⟨hdroop, hhealth, hlatched⟩ := observation_keeps k s x
    obtain ⟨hcc, hack⟩ := flows_keep u k s
    obtain ⟨hwindow, hread, hmctp, hoff⟩ := management_keeps u k b s
    exact ⟨hvalid, hreturn, hcool, hperst, hdie, hlink, htrestle, hrom, hleak, hlevels, adaptiveVoltageStep_keeps s l m, hdroop, hwindow,
      hhealth, hlatched, hcc, hack, hread, hmctp, hoff⟩
  case put =>
    obtain rfl := Host.Outcome.next.inj ht
    refine State.byte_of_receive fun hc => ?_
    simp only [Bool.and_eq_true, beq_iff_eq] at hc
    exact State.putFrame_outside hdue hd hlen ha hhot htr hloc hc.1 hout
  case delta =>
    obtain rfl := Host.Outcome.next.inj ht
    refine State.byte_of_receive fun hc => ?_
    exact State.parityDelta_outside hdue (Bool.and_eq_true_iff.1 hc).1 hx hu hb hfit hout

end Sys2Proof.Machine
end
